-- ==== Sys2Proof/Word.lean ====
section
/-!
DEFINITION. The machine word and the byte (R20, R22, R202).
-/

namespace Sys2Proof

/-- A 64-bit register or an aligned 8-byte memory word (R22, R202). -/
abbrev Word := BitVec 64

/-- One byte of memory (R20). -/
abbrev Byte := BitVec 8

end Sys2Proof
end

