-- ==== Sys2Proof/Config.lean ====
section
/-!
DEFINITION. The values the spec leaves open. Each is opaque: it has no body, so no proof can learn what it is and a
statement holds whatever it is.
-/

namespace Sys2Proof.Config

/-- DESIGN CHOICE (log 4). The n-th free value: a word the spec leaves open and the machine goes on with. -/
opaque freeWord : Nat → Word

/-- The keyed hash of a capability (R241): the engine key's epoch, RCB address, CLASS, RIGHTS, die and cluster.
The spec names its inputs and not the function. -/
opaque tagHash : Nat → Word → Nat → Nat → Nat → Nat → BitVec 32

/-- The hash of a twin's message (R327): kind, address, size and data, as numbers. The spec names its inputs and its
width and not the function. -/
opaque pairHash : List Nat → BitVec 64

/-- Whether the LMS signature that a firmware image carries verifies under RFC 8554 against a public-key hash (R356). -/
opaque lmsVerifies : Nat → List Nat → Bool

/-- The four public-key hashes in the one-time fuses (R356). -/
opaque fusedKeyHash : Nat → Nat

/-- The bytes of an LMS signature of the device key that depend on the key: from the leaf, the doublewords signed, and the
byte's place (R357). -/
opaque signatureByte : Nat → List Word → Nat → Byte

/-- The device serial (R357), 16 bytes as a number. -/
opaque serial : Nat

end Sys2Proof.Config
end

