-- ==== Sys2Proof/Syntax.lean ====
section
/-!
DEFINITION. The instruction set: one constructor per row of spec/opcode_table.json.
The first 230 are the instruction words, in the table's order; their fields are the operand fields of the
encoding, with the field widths of R29. The 81 others are the events of the table, in its order: the steps the
machine takes that no instruction word encodes. An event names the agent it acts for (a thread, a unit, a home, a
context) and carries what the outside world supplies in the event arguments of the state (`State.ev`), so these
constructors have no fields; each meaning's docstring says which argument is which.
-/

namespace Sys2Proof

/-- Every step of the opcode table (spec/opcode_table.json), words first, then events. -/
inductive Instr where
  /-- Writes s[d] := s[a] + s[b] modulo 2^64. (R50) -/
  | aluAdd (d : BitVec 7) (a : BitVec 7) (b : BitVec 7)
  /-- Writes s[d] := s[a] - s[b] modulo 2^64. (R50) -/
  | aluSub (d : BitVec 7) (a : BitVec 7) (b : BitVec 7)
  /-- Writes the low 64 bits of the unsigned product. (R50) -/
  | aluMul (d : BitVec 7) (a : BitVec 7) (b : BitVec 7)
  /-- Writes bits 127 to 64 of the signed product. (R50) -/
  | aluMulh (d : BitVec 7) (a : BitVec 7) (b : BitVec 7)
  /-- Writes bits 127 to 64 of the unsigned product. (R50) -/
  | aluMulhu (d : BitVec 7) (a : BitVec 7) (b : BitVec 7)
  /-- Sends a signed division to the shared divider and parks until its quotient is written. (R51) -/
  | aluDiv (d : BitVec 7) (a : BitVec 7) (b : BitVec 7)
  /-- Sends an unsigned division to the shared divider and parks until its quotient is written. (R51) -/
  | aluDivu (d : BitVec 7) (a : BitVec 7) (b : BitVec 7)
  /-- Sends a signed remainder to the shared divider and parks until its result is written. (R51) -/
  | aluRem (d : BitVec 7) (a : BitVec 7) (b : BitVec 7)
  /-- Sends an unsigned remainder to the shared divider and parks until its result is written. (R51) -/
  | aluRemu (d : BitVec 7) (a : BitVec 7) (b : BitVec 7)
  /-- Writes s[a] AND s[b]. (R50) -/
  | aluAnd (d : BitVec 7) (a : BitVec 7) (b : BitVec 7)
  /-- Writes s[a] OR s[b]. (R50) -/
  | aluOr (d : BitVec 7) (a : BitVec 7) (b : BitVec 7)
  /-- Writes s[a] XOR s[b]. (R50) -/
  | aluXor (d : BitVec 7) (a : BitVec 7) (b : BitVec 7)
  /-- Writes s[a] AND NOT s[b]. (R50) -/
  | aluAndn (d : BitVec 7) (a : BitVec 7) (b : BitVec 7)
  /-- Shifts s[a] left by bits 5 to 0 of s[b], shifting in zeros. (R50) -/
  | aluSll (d : BitVec 7) (a : BitVec 7) (b : BitVec 7)
  /-- Shifts s[a] right by bits 5 to 0 of s[b], shifting in zeros. (R50) -/
  | aluSrl (d : BitVec 7) (a : BitVec 7) (b : BitVec 7)
  /-- Shifts s[a] right by bits 5 to 0 of s[b], shifting in copies of the sign. (R50) -/
  | aluSra (d : BitVec 7) (a : BitVec 7) (b : BitVec 7)
  /-- Rotates s[a] left by bits 5 to 0 of s[b]. (R50) -/
  | aluRol (d : BitVec 7) (a : BitVec 7) (b : BitVec 7)
  /-- Writes 1 if s[a] is less than s[b] as signed values, else 0. (R50) -/
  | aluSlt (d : BitVec 7) (a : BitVec 7) (b : BitVec 7)
  /-- Writes 1 if s[a] is less than s[b] as unsigned values, else 0. (R50) -/
  | aluSltu (d : BitVec 7) (a : BitVec 7) (b : BitVec 7)
  /-- Writes the signed minimum. (R50) -/
  | aluMin (d : BitVec 7) (a : BitVec 7) (b : BitVec 7)
  /-- Writes the signed maximum. (R50) -/
  | aluMax (d : BitVec 7) (a : BitVec 7) (b : BitVec 7)
  /-- Writes the unsigned minimum. (R50) -/
  | aluMinu (d : BitVec 7) (a : BitVec 7) (b : BitVec 7)
  /-- Writes the unsigned maximum. (R50) -/
  | aluMaxu (d : BitVec 7) (a : BitVec 7) (b : BitVec 7)
  /-- Writes the number of leading zero bits of s[a]. (R50) -/
  | aluClz (d : BitVec 7) (a : BitVec 7)
  /-- Writes the number of trailing zero bits of s[a]. (R50) -/
  | aluCtz (d : BitVec 7) (a : BitVec 7)
  /-- Writes the number of one bits of s[a]. (R50) -/
  | aluPopc (d : BitVec 7) (a : BitVec 7)
  /-- Writes s[a] plus the sign-extended immediate. (R53) -/
  | addi (d : BitVec 7) (a : BitVec 7) (i : BitVec 12)
  /-- Writes s[a] AND the sign-extended immediate. (R53) -/
  | andi (d : BitVec 7) (a : BitVec 7) (i : BitVec 12)
  /-- Writes s[a] OR the sign-extended immediate. (R53) -/
  | ori (d : BitVec 7) (a : BitVec 7) (i : BitVec 12)
  /-- Writes s[a] XOR the sign-extended immediate. (R53) -/
  | xori (d : BitVec 7) (a : BitVec 7) (i : BitVec 12)
  /-- Shifts s[a] left by an immediate amount. (R54) -/
  | shiSlli (d : BitVec 7) (a : BitVec 7) (n : BitVec 6)
  /-- Shifts s[a] right by an immediate amount, shifting in zeros. (R54) -/
  | shiSrli (d : BitVec 7) (a : BitVec 7) (n : BitVec 6)
  /-- Shifts s[a] right by an immediate amount, shifting in copies of the sign. (R54) -/
  | shiSrai (d : BitVec 7) (a : BitVec 7) (n : BitVec 6)
  /-- Rotates s[a] left by an immediate amount. (R54) -/
  | shiRoli (d : BitVec 7) (a : BitVec 7) (n : BitVec 6)
  /-- Writes the upper immediate, sign-extended from 31 bits. (R55) -/
  | lui (d : BitVec 7) (i : BitVec 19)
  /-- Writes pc plus the upper immediate. (R55) -/
  | auipc (d : BitVec 7) (i : BitVec 19)
  /-- Compares two registers and, if the condition holds, annuls the next 1 to 3 words. (R56) -/
  | csk (c : BitVec 4) (s : BitVec 2) (a : BitVec 7) (b : BitVec 7)
  /-- Compares a register with an immediate and, if the condition holds, annuls the next 1 to 3 words. (R56) -/
  | cski (c : BitVec 4) (s : BitVec 2) (a : BitVec 7) (i : BitVec 13)
  /-- Branches pc-relative when s[a] meets the condition against zero. (R58) -/
  | br (c : BitVec 4) (a : BitVec 7) (o : BitVec 15)
  /-- Jumps pc-relative. (R59) -/
  | j (o : BitVec 26)
  /-- Jumps pc-relative and writes the link pc + 4 into s1. (R59) -/
  | jl (o : BitVec 26)
  /-- Jumps to s[a] + imm, writing the link into s[d], and traps ALIGN on a misaligned target. (R60) -/
  | jr (d : BitVec 7) (a : BitVec 7) (i : BitVec 12)
  /-- Loads 1 to 8 bytes from the home of ea, with optional sign extension, migration and RLX overlap. (R62) -/
  | ld (d : BitVec 7) (a : BitVec 7) (w : BitVec 2) (x : BitVec 1) (g : BitVec 1) (i : BitVec 8)
  /-- Stores 1 to 8 bytes at the home of ea, either parking until acknowledged or posting under RLX. (R62) -/
  | st (b : BitVec 7) (a : BitVec 7) (w : BitVec 2) (g : BitVec 1) (i : BitVec 8)
  /-- Waits at the home until the word is full, then reads it as an acquire. (R186) -/
  | felWfe (d : BitVec 7) (a : BitVec 7) (t : BitVec 5) (o : BitVec 4)
  /-- Waits at the home until the word is full, then reads it and sets it empty. (R186) -/
  | felWfs (d : BitVec 7) (a : BitVec 7) (t : BitVec 5) (o : BitVec 4)
  /-- Reads the word and reports its full/empty state in WST. (R186) -/
  | felAny (d : BitVec 7) (a : BitVec 7) (o : BitVec 4)
  /-- Drains posted stores, waits until the word is empty, then writes it and sets it full. (R186) -/
  | fesWes (b : BitVec 7) (a : BitVec 7) (t : BitVec 5) (o : BitVec 4)
  /-- Drains posted stores, then writes the word and sets it full. (R186) -/
  | fesSetf (b : BitVec 7) (a : BitVec 7) (o : BitVec 4)
  /-- Drains posted stores, then writes the word and sets it empty. (R186) -/
  | fesSete (b : BitVec 7) (a : BitVec 7) (o : BitVec 4)
  /-- Performs an atomic add at the home and returns the old value. (R190) -/
  | amoAdd (d : BitVec 7) (a : BitVec 7) (b : BitVec 7)
  /-- Performs an atomic AND at the home and returns the old value. (R190) -/
  | amoAnd (d : BitVec 7) (a : BitVec 7) (b : BitVec 7)
  /-- Performs an atomic OR at the home and returns the old value. (R190) -/
  | amoOr (d : BitVec 7) (a : BitVec 7) (b : BitVec 7)
  /-- Performs an atomic XOR at the home and returns the old value. (R190) -/
  | amoXor (d : BitVec 7) (a : BitVec 7) (b : BitVec 7)
  /-- Performs an atomic signed minimum at the home and returns the old value. (R190) -/
  | amoMin (d : BitVec 7) (a : BitVec 7) (b : BitVec 7)
  /-- Performs an atomic signed maximum at the home and returns the old value. (R190) -/
  | amoMax (d : BitVec 7) (a : BitVec 7) (b : BitVec 7)
  /-- Performs an atomic unsigned minimum at the home and returns the old value. (R190) -/
  | amoMinu (d : BitVec 7) (a : BitVec 7) (b : BitVec 7)
  /-- Performs an atomic unsigned maximum at the home and returns the old value. (R190) -/
  | amoMaxu (d : BitVec 7) (a : BitVec 7) (b : BitVec 7)
  /-- Atomically swaps the word with s[b] and returns the old value. (R190) -/
  | amoSwap (d : BitVec 7) (a : BitVec 7) (b : BitVec 7)
  /-- Stores s[b] if the word equals s[d] and returns the old value, with OK or REFUSED. (R190) -/
  | amoCas (d : BitVec 7) (a : BitVec 7) (b : BitVec 7)
  /-- Increments the word with wrap to 0 at the bound s[b] and returns the old value. (R190) -/
  | amoIncw (d : BitVec 7) (a : BitVec 7) (b : BitVec 7)
  /-- Adds s[b] to the word if the sum stays at or below s[d], and returns the old value. (R190) -/
  | amoFaddb (d : BitVec 7) (a : BitVec 7) (b : BitVec 7)
  /-- Atomically adds an FP32 value to the FP32 word with round-to-nearest-even and returns the old value. (R190) -/
  | amoFaddF32 (d : BitVec 7) (a : BitVec 7) (b : BitVec 7)
  /-- Posts a fire-and-forget atomic add to the home of s[a]. (R193) -/
  | rupdAdd (a : BitVec 7) (b : BitVec 7)
  /-- Posts a remote atomic AND. (R193) -/
  | rupdAnd (a : BitVec 7) (b : BitVec 7)
  /-- Posts a remote atomic OR. (R193) -/
  | rupdOr (a : BitVec 7) (b : BitVec 7)
  /-- Posts a remote atomic XOR. (R193) -/
  | rupdXor (a : BitVec 7) (b : BitVec 7)
  /-- Posts a remote atomic signed minimum. (R193) -/
  | rupdMin (a : BitVec 7) (b : BitVec 7)
  /-- Posts a remote atomic signed maximum. (R193) -/
  | rupdMax (a : BitVec 7) (b : BitVec 7)
  /-- Posts a remote atomic unsigned minimum. (R193) -/
  | rupdMinu (a : BitVec 7) (b : BitVec 7)
  /-- Posts a remote atomic unsigned maximum. (R193) -/
  | rupdMaxu (a : BitVec 7) (b : BitVec 7)
  /-- Posts a remote atomic swap. (R193) -/
  | rupdSwap (a : BitVec 7) (b : BitVec 7)
  /-- Posts a remote wrapping increment. (R193) -/
  | rupdIncw (a : BitVec 7) (b : BitVec 7)
  /-- Posts a remote FP32 add that raises no flag. (R193) -/
  | rupdFaddF32 (a : BitVec 7) (b : BitVec 7)
  /-- Drains posted stores and moves the thread with its masked registers to home(s[a]). (R196) -/
  | mig (a : BitVec 7) (l : BitVec 15)
  /-- Drains, sends a call to the delegation server of home(s[a]) and parks for its reply. (R194) -/
  | dlgCall (d : BitVec 7) (a : BitVec 7) (b : BitVec 7)
  /-- Drains and posts a call to the delegation server, counted as one journal entry. (R194) -/
  | dlgPost (a : BitVec 7) (b : BitVec 7)
  /-- Reads a descriptor and pushes the task onto the queue of the handle. (R154) -/
  | tqPush (d : BitVec 7) (a : BitVec 7) (b : BitVec 7)
  /-- Takes the head task of the queue into the thread. (R154) -/
  | tqTake (d : BitVec 7) (a : BitVec 7) (b : BitVec 7)
  /-- Steals the tail task of the queue into the thread. (R154) -/
  | tqSteal (d : BitVec 7) (a : BitVec 7) (b : BitVec 7)
  /-- Ends a task body: drains, decrements the join word, retires the task and frees the slot. (R154) -/
  | tqDone
  /-- Reads the depth of the queue. (R154) -/
  | tqDepth (d : BitVec 7) (a : BitVec 7)
  /-- Configures a queue from a QCB. (R155) -/
  | tqCfg (a : BitVec 7) (b : BitVec 7)
  /-- Subscribes or unsubscribes a cluster to the depth alerts of the queue. (R154) -/
  | tqSub (a : BitVec 7) (b : BitVec 7)
  /-- Writes the join word. (R157) -/
  | jcInit (a : BitVec 7) (b : BitVec 7)
  /-- Adds to the join count, refusing an overflow, and returns the old word. (R157) -/
  | jcAdd (d : BitVec 7) (a : BitVec 7) (b : BitVec 7)
  /-- Drains, decrements the join count and notifies the region when it reaches zero with N set. (R157) -/
  | jcDec (d : BitVec 7) (a : BitVec 7)
  /-- Parks until the join count is zero, as an acquire. (R158) -/
  | waitJz (a : BitVec 7) (t : BitVec 5)
  /-- Parks until a masked mailbox is full and writes its index. (R158) -/
  | waitMbox (d : BitVec 7) (a : BitVec 7) (t : BitVec 5)
  /-- Parks until TIME reaches s[d]. (R158) -/
  | waitSleep (d : BitVec 7) (t : BitVec 5)
  /-- Parks until the full/empty bit of the word equals the requested state. (R189) -/
  | waitFe (d : BitVec 7) (a : BitVec 7) (t : BitVec 5)
  /-- Parks until the selected context's timeline reaches the count, as an acquire. (R223) -/
  | waitTl (d : BitVec 7) (a : BitVec 7) (t : BitVec 5)
  /-- Parks until the buoy generation advances past the given value, as an acquire. (R236) -/
  | waitBuoy (d : BitVec 7) (a : BitVec 7) (t : BitVec 5)
  /-- Parks until the current task's gate token has arrived. (R158) -/
  | waitGate (t : BitVec 5)
  /-- Fills a new slot of the issuing core with a child thread. (R132) -/
  | thrSpawn (d : BitVec 7) (a : BitVec 7) (b : BitVec 7)
  /-- Drains posted stores, discards RLX replies and frees the slot. (R133) -/
  | thrExit
  /-- Marks the thread yielding until the end of the rotation. (R134) -/
  | thrYield
  /-- Sends s[a] into the mailbox of the neighbour in the given direction. (R135) -/
  | thrNwr (d : BitVec 7) (a : BitVec 7)
  /-- Writes the pinned state of a slot-table entry, applied at the next rebalance. (R136) -/
  | thrStw (a : BitVec 7) (b : BitVec 7)
  /-- Reads a state register into s[d]. (R65) -/
  | sysSrd (d : BitVec 7) (a : BitVec 7)
  /-- Writes a state register from s[a], with the checks of that register. (R66) -/
  | sysSwr (d : BitVec 7) (a : BitVec 7)
  /-- Traps TRAPCALL. (R67) -/
  | sysTrap (a : BitVec 7)
  /-- Traps BREAK. (R67) -/
  | sysBreak
  /-- Waits for the thread's stores, discards prefetched words and invalidates the instruction cache. (R68) -/
  | sysIfence
  /-- Parks until RLX accesses are performed at device scope. (R70) -/
  | sysFenceDev
  /-- Parks until RLX accesses are performed at domain scope. (R70) -/
  | sysFenceDom
  /-- Parks until RLX accesses are performed at system scope. (R70) -/
  | sysFenceSys
  /-- Issues a matrix-unit capability within the region's grants. (R329) -/
  | sysCapget (d : BitVec 7) (a : BitVec 7) (b : BitVec 7)
  /-- From a handler slot, drains and resumes the frozen thread, then frees the handler slot. (R300) -/
  | sysTres
  /-- From a handler slot, kills the frozen thread, replaying or retiring its task. (R301) -/
  | sysTkill (a : BitVec 7)
  /-- Pre-empts a slot into a save record and/or restores a save record. (R317) -/
  | sysPre (d : BitVec 7) (a : BitVec 7) (b : BitVec 7)
  /-- Drops the translations of one page from every buffer of the device and waits for the dropped accesses. (R308) -/
  | sysTlbInv (a : BitVec 7)
  /-- Drops every translation of one root, or of all roots. (R308) -/
  | sysTlbAll (a : BitVec 7)
  /-- Sets a pending FMT prefix for the next instruction. (R42) -/
  | pfxFmt (a : BitVec 4) (d : BitVec 4) (s : BitVec 2) (r : BitVec 2)
  /-- Sets a pending RLX prefix for the next instruction. (R42) -/
  | pfxRlx
  /-- FP32 addition. (R81) -/
  | fpAdd (d : BitVec 7) (a : BitVec 7) (b : BitVec 7)
  /-- FP32 subtraction. (R81) -/
  | fpSub (d : BitVec 7) (a : BitVec 7) (b : BitVec 7)
  /-- FP32 multiplication. (R81) -/
  | fpMul (d : BitVec 7) (a : BitVec 7) (b : BitVec 7)
  /-- FP32 division on the shared divider. (R85) -/
  | fpDiv (d : BitVec 7) (a : BitVec 7) (b : BitVec 7)
  /-- FP32 square root on the shared divider. (R85) -/
  | fpSqrt (d : BitVec 7) (a : BitVec 7)
  /-- FP32 fused multiply-add into s[d]. (R81) -/
  | fpFma (d : BitVec 7) (a : BitVec 7) (b : BitVec 7)
  /-- FP32 minimum. (R82) -/
  | fpMin (d : BitVec 7) (a : BitVec 7) (b : BitVec 7)
  /-- FP32 maximum. (R82) -/
  | fpMax (d : BitVec 7) (a : BitVec 7) (b : BitVec 7)
  /-- Converts between the float and integer formats named by the prefix. (R83) -/
  | fpCvt (d : BitVec 7) (a : BitVec 7)
  /-- Converts FP32 to a signed 64-bit integer. (R79) -/
  | fpFtoi (d : BitVec 7) (a : BitVec 7)
  /-- Converts a signed 64-bit integer to FP32. (R81) -/
  | fpItof (d : BitVec 7) (a : BitVec 7)
  /-- Writes a code-table entry and unseals the table. (R94) -/
  | tblWr (a : BitVec 7) (b : BitVec 7)
  /-- Reads a code-table entry. (R94) -/
  | tblRd (d : BitVec 7) (a : BitVec 7)
  /-- Starts a seal of the core code table and parks until it completes. (R92) -/
  | tblSeal
  /-- Sets the NaN substitute code. (R94) -/
  | tblNansub (a : BitVec 7)
  /-- Encodes a value to the nearest code of the sealed table. (R93) -/
  | tblEnc (d : BitVec 7) (a : BitVec 7)
  /-- Decodes a code through the table. (R95) -/
  | tblDec (d : BitVec 7) (a : BitVec 7)
  /-- Lane-wise integer add. (R163) -/
  | vopAdd (v : BitVec 5) (a : BitVec 5) (b : BitVec 5) (l : BitVec 2)
  /-- Lane-wise integer subtract. (R163) -/
  | vopSub (v : BitVec 5) (a : BitVec 5) (b : BitVec 5) (l : BitVec 2)
  /-- Lane-wise low integer product. (R163) -/
  | vopMul (v : BitVec 5) (a : BitVec 5) (b : BitVec 5) (l : BitVec 2)
  /-- Lane-wise signed minimum. (R163) -/
  | vopMin (v : BitVec 5) (a : BitVec 5) (b : BitVec 5) (l : BitVec 2)
  /-- Lane-wise signed maximum. (R163) -/
  | vopMax (v : BitVec 5) (a : BitVec 5) (b : BitVec 5) (l : BitVec 2)
  /-- Lane-wise unsigned minimum. (R163) -/
  | vopMinu (v : BitVec 5) (a : BitVec 5) (b : BitVec 5) (l : BitVec 2)
  /-- Lane-wise unsigned maximum. (R163) -/
  | vopMaxu (v : BitVec 5) (a : BitVec 5) (b : BitVec 5) (l : BitVec 2)
  /-- Lane-wise AND. (R163) -/
  | vopAnd (v : BitVec 5) (a : BitVec 5) (b : BitVec 5) (l : BitVec 2)
  /-- Lane-wise OR. (R163) -/
  | vopOr (v : BitVec 5) (a : BitVec 5) (b : BitVec 5) (l : BitVec 2)
  /-- Lane-wise XOR. (R163) -/
  | vopXor (v : BitVec 5) (a : BitVec 5) (b : BitVec 5) (l : BitVec 2)
  /-- Lane-wise left shift. (R163) -/
  | vopSll (v : BitVec 5) (a : BitVec 5) (b : BitVec 5) (l : BitVec 2)
  /-- Lane-wise logical right shift. (R163) -/
  | vopSrl (v : BitVec 5) (a : BitVec 5) (b : BitVec 5) (l : BitVec 2)
  /-- Lane-wise arithmetic right shift. (R163) -/
  | vopSra (v : BitVec 5) (a : BitVec 5) (b : BitVec 5) (l : BitVec 2)
  /-- Lane-wise saturating signed add. (R163) -/
  | vopAdds (v : BitVec 5) (a : BitVec 5) (b : BitVec 5) (l : BitVec 2)
  /-- Lane-wise saturating signed subtract. (R163) -/
  | vopSubs (v : BitVec 5) (a : BitVec 5) (b : BitVec 5) (l : BitVec 2)
  /-- Lane-wise equality mask. (R163) -/
  | vopCeq (v : BitVec 5) (a : BitVec 5) (b : BitVec 5) (l : BitVec 2)
  /-- Lane-wise signed less-than mask. (R163) -/
  | vopClt (v : BitVec 5) (a : BitVec 5) (b : BitVec 5) (l : BitVec 2)
  /-- Lane-wise unsigned less-than mask. (R163) -/
  | vopCltu (v : BitVec 5) (a : BitVec 5) (b : BitVec 5) (l : BitVec 2)
  /-- Lane-wise select by the sign bit of vd. (R163) -/
  | vopSel (v : BitVec 5) (a : BitVec 5) (b : BitVec 5) (l : BitVec 2)
  /-- Lane shuffle indexed by vb. (R163) -/
  | vopShuf (v : BitVec 5) (a : BitVec 5) (b : BitVec 5) (l : BitVec 2)
  /-- Lane-wise floating add. (R164) -/
  | vopFadd (v : BitVec 5) (a : BitVec 5) (b : BitVec 5) (l : BitVec 2)
  /-- Lane-wise floating subtract. (R164) -/
  | vopFsub (v : BitVec 5) (a : BitVec 5) (b : BitVec 5) (l : BitVec 2)
  /-- Lane-wise floating multiply. (R164) -/
  | vopFmul (v : BitVec 5) (a : BitVec 5) (b : BitVec 5) (l : BitVec 2)
  /-- Lane-wise fused multiply-add into vd. (R164) -/
  | vopFfma (v : BitVec 5) (a : BitVec 5) (b : BitVec 5) (l : BitVec 2)
  /-- Lane-wise floating minimum. (R164) -/
  | vopFmin (v : BitVec 5) (a : BitVec 5) (b : BitVec 5) (l : BitVec 2)
  /-- Lane-wise floating maximum. (R164) -/
  | vopFmax (v : BitVec 5) (a : BitVec 5) (b : BitVec 5) (l : BitVec 2)
  /-- Lane-wise ordered-equal mask. (R164) -/
  | vopFceq (v : BitVec 5) (a : BitVec 5) (b : BitVec 5) (l : BitVec 2)
  /-- Lane-wise ordered less-than mask. (R164) -/
  | vopFclt (v : BitVec 5) (a : BitVec 5) (b : BitVec 5) (l : BitVec 2)
  /-- Lane-wise ordered less-or-equal mask. (R164) -/
  | vopFcle (v : BitVec 5) (a : BitVec 5) (b : BitVec 5) (l : BitVec 2)
  /-- Lane-wise format conversion at equal width. (R165) -/
  | vopFcvt (v : BitVec 5) (a : BitVec 5) (l : BitVec 2)
  /-- Widens the low eight 16-bit lanes to 32 bits. (R165) -/
  | vopWlo (v : BitVec 5) (a : BitVec 5)
  /-- Widens the high eight 16-bit lanes to 32 bits. (R165) -/
  | vopWhi (v : BitVec 5) (a : BitVec 5)
  /-- Narrows the 32-bit lanes of va and vb into 16-bit lanes. (R165) -/
  | vopNar (v : BitVec 5) (a : BitVec 5) (b : BitVec 5)
  /-- Encodes each lane to a code through the core table. (R166) -/
  | vopEnc (v : BitVec 5) (a : BitVec 5) (l : BitVec 2)
  /-- Decodes packed codes into lanes through the core table. (R166) -/
  | vopDec (v : BitVec 5) (a : BitVec 5) (l : BitVec 2)
  /-- Broadcasts a scalar into every lane. (R167) -/
  | vscBcast (v : BitVec 5) (s : BitVec 7) (l : BitVec 2)
  /-- Adds a scalar to every lane. (R167) -/
  | vscAdd (v : BitVec 5) (a : BitVec 5) (s : BitVec 7) (l : BitVec 2)
  /-- Subtracts a scalar from every lane. (R167) -/
  | vscSub (v : BitVec 5) (a : BitVec 5) (s : BitVec 7) (l : BitVec 2)
  /-- Multiplies every lane by a scalar. (R167) -/
  | vscMul (v : BitVec 5) (a : BitVec 5) (s : BitVec 7) (l : BitVec 2)
  /-- Floating add of a scalar to every lane. (R167) -/
  | vscFadd (v : BitVec 5) (a : BitVec 5) (s : BitVec 7) (l : BitVec 2)
  /-- Floating multiply of every lane by a scalar. (R167) -/
  | vscFmul (v : BitVec 5) (a : BitVec 5) (s : BitVec 7) (l : BitVec 2)
  /-- Floating fused multiply-add of every lane by a scalar into vd. (R167) -/
  | vscFfma (v : BitVec 5) (a : BitVec 5) (s : BitVec 7) (l : BitVec 2)
  /-- Sums the sign-extended lanes into a scalar. (R167) -/
  | vscRedadd (a : BitVec 5) (s : BitVec 7) (l : BitVec 2)
  /-- Reduces lanes to their signed minimum. (R167) -/
  | vscRedmin (a : BitVec 5) (s : BitVec 7) (l : BitVec 2)
  /-- Reduces lanes to their signed maximum. (R167) -/
  | vscRedmax (a : BitVec 5) (s : BitVec 7) (l : BitVec 2)
  /-- Reduces lanes to their unsigned minimum. (R167) -/
  | vscRedminu (a : BitVec 5) (s : BitVec 7) (l : BitVec 2)
  /-- Reduces lanes to their unsigned maximum. (R167) -/
  | vscRedmaxu (a : BitVec 5) (s : BitVec 7) (l : BitVec 2)
  /-- Sums floating lanes in a fixed pairwise tree. (R168) -/
  | vscFredadd (a : BitVec 5) (s : BitVec 7) (l : BitVec 2)
  /-- Reduces floating lanes to their minimum in a tree. (R168) -/
  | vscFredmin (a : BitVec 5) (s : BitVec 7) (l : BitVec 2)
  /-- Reduces floating lanes to their maximum in a tree. (R168) -/
  | vscFredmax (a : BitVec 5) (s : BitVec 7) (l : BitVec 2)
  /-- Gathers the sign bits of the lanes into a scalar mask. (R167) -/
  | vscMask (a : BitVec 5) (s : BitVec 7) (l : BitVec 2)
  /-- Loads one to four 32-byte vector registers. (R169) -/
  | vmemLd (v : BitVec 5) (a : BitVec 7) (g : BitVec 1) (n : BitVec 2) (i : BitVec 10)
  /-- Stores one to four 32-byte vector registers. (R169) -/
  | vmemSt (v : BitVec 5) (a : BitVec 7) (g : BitVec 1) (n : BitVec 2) (i : BitVec 10)
  /-- Claims a command context for the issuing region. (R219) -/
  | engClaim (e : BitVec 4) (c : BitVec 3)
  /-- Waits for the context's commands, then releases it and zeroes its registers. (R219) -/
  | engRelease (e : BitVec 4) (c : BitVec 3)
  /-- Discards incomplete commands of the context and clears its fault. (R219) -/
  | engClear (e : BitVec 4) (c : BitVec 3)
  /-- Queues a copy of strided planes of runs from source to destination. (R226) -/
  | copyXfer (c : BitVec 3) (a : BitVec 7) (b : BitVec 7)
  /-- Queues a copy that deals source blocks among the cluster's local stores. (R227) -/
  | copyDist (c : BitVec 3) (a : BitVec 7) (b : BitVec 7)
  /-- Queues an ordered command that reserves the DRAM bank holding s[a]. (R228) -/
  | copyBopen (c : BitVec 3) (a : BitVec 7)
  /-- Queues an ordered command that releases the context's reserved bank. (R228) -/
  | copyBclose (c : BitVec 3)
  /-- Queues a walk of CSR row pointers into a matrix metadata queue. (R251) -/
  | copyCsr (c : BitVec 3) (a : BitVec 7) (b : BitVec 7)
  /-- Binds q_k to a strided stream served by a copy context. (R231) -/
  | streamBind (c : BitVec 3) (a : BitVec 7) (b : BitVec 7)
  /-- Unbinds a stream, discarding or draining its elements. (R231) -/
  | streamUnbind (c : BitVec 3)
  /-- Binds matrix port k to a read stream served by a copy context. (R231) -/
  | streamPort (c : BitVec 3) (a : BitVec 7) (b : BitVec 7)
  /-- Arms a buoy word with a byte target. (R234) -/
  | buoySet (a : BitVec 7) (b : BitVec 7)
  /-- Queues a block-scaled dense matrix multiply-accumulate into the context's tile. (R249) -/
  | mtxMma (c : BitVec 3) (a : BitVec 7) (b : BitVec 7)
  /-- Queues a sparse matrix multiply-accumulate using the metadata queue. (R252) -/
  | mtxMmas (c : BitVec 3) (a : BitVec 7) (b : BitVec 7)
  /-- Queues a clear of the context's tile to +0. (R253) -/
  | mtxAclr (c : BitVec 3)
  /-- Queues a load of the tile from the scratchpad. (R254) -/
  | mtxAcopyIn (c : BitVec 3) (a : BitVec 7) (b : BitVec 7)
  /-- Queues a copy of the tile to the scratchpad in a float or code format. (R255) -/
  | mtxAcopyOut (c : BitVec 3) (a : BitVec 7) (b : BitVec 7)
  /-- Queues a write of a matrix-table entry, width or NaN substitute. (R256) -/
  | mtxTset (c : BitVec 3) (a : BitVec 7) (b : BitVec 7)
  /-- Queues a seal of the matrix code table. (R256) -/
  | mtxTseal (c : BitVec 3)
  /-- Queues a gather of indexed table elements into a dense run. (R237) -/
  | gsGather (c : BitVec 3) (a : BitVec 7) (b : BitVec 7)
  /-- Queues a scatter of a dense run into indexed table elements. (R237) -/
  | gsScatter (c : BitVec 3) (a : BitVec 7) (b : BitVec 7)
  /-- Queues entry of the channel into all-bank mode. (R282) -/
  | bmacOpen
  /-- Queues a load of the bank vector registers. (R283) -/
  | bmacBcast (a : BitVec 7) (b : BitVec 7)
  /-- Queues per-bank multiply-accumulate over blocks of the channel. (R283) -/
  | bmacMac (a : BitVec 7) (b : BitVec 7)
  /-- Queues a read-back of accumulator slots to memory. (R283) -/
  | bmacRd (a : BitVec 7) (b : BitVec 7)
  /-- Queues a clear of accumulator slots. (R283) -/
  | bmacAclr (b : BitVec 7)
  /-- Queues exit from all-bank mode, after which parked accesses are performed. (R282) -/
  | bmacClose
  /-- Queues a copy of a 64 KiB page to a new frame, placing the old frame in transit. (R346) -/
  | pmigMove (c : BitVec 3) (a : BitVec 7) (b : BitVec 7)
  /-- Queues invalidation of the moved frame's translations and its release from transit. (R346) -/
  | pmigCommit (c : BitVec 3)
  /-- Writes an engine context register. (R220) -/
  | ewr (e : BitVec 4) (c : BitVec 3) (r : BitVec 5) (a : BitVec 7)
  /-- Reads an engine context register. (R220) -/
  | erd (e : BitVec 4) (c : BitVec 3) (r : BitVec 5) (a : BitVec 7)
  /-- Sets an expansion register as a multipole about a centre. (R267) -/
  | xpCtrm (x : BitVec 3) (a : BitVec 7)
  /-- Sets an expansion register as a local expansion about a centre. (R267) -/
  | xpCtrl (x : BitVec 3) (a : BitVec 7)
  /-- Clears the coefficients of an expansion register. (R267) -/
  | xpClr (x : BitVec 3)
  /-- Loads an expansion register image from memory. (R267) -/
  | xpLd (x : BitVec 3) (a : BitVec 7)
  /-- Stores an expansion register image to memory. (R267) -/
  | xpSt (y : BitVec 3) (a : BitVec 7)
  /-- Adds the coefficients of xa into xd. (R267) -/
  | xpAdd (x : BitVec 3) (y : BitVec 3)
  /-- Adds particle sources into a multipole. (R268) -/
  | xpForm (x : BitVec 3) (a : BitVec 7) (b : BitVec 7)
  /-- Shifts a multipole to the centre of xd and adds it. (R269) -/
  | xpM2m (x : BitVec 3) (y : BitVec 3)
  /-- Converts a multipole into a local expansion about xd's centre and adds it. (R270) -/
  | xpM2l (x : BitVec 3) (y : BitVec 3)
  /-- Shifts a local expansion to xd's centre and adds it. (R271) -/
  | xpL2l (x : BitVec 3) (y : BitVec 3)
  /-- Evaluates the potential of an expansion at a point. (R272) -/
  | xpEval (y : BitVec 3) (a : BitVec 7) (b : BitVec 7)
  /-- Evaluates the gradient of an expansion at a point into vector lanes. (R272) -/
  | xpGrad (y : BitVec 3) (a : BitVec 7) (b : BitVec 7)
  /-- Adds the direct potential of a near-field list at its target. (R273) -/
  | xpNear (a : BitVec 7) (b : BitVec 7)
  /-- Tests two boxes for admissibility. (R274) -/
  | xpAdm (x : BitVec 3) (y : BitVec 3) (b : BitVec 7)
  /-- The shared divider completes a queued request, writes its destination and the parked thread returns to RUN. (R52) -/
  | dividerResult
  /-- The Beacon deadline of a request waiting at a home passes, and the home completes it with TIMEOUT. (R187) -/
  | feDeadline
  /-- A cancel reaches a home for a waiting fel, fes or wait.fe, and the home replies with either the served result or nothing done. (R187) -/
  | feCancel
  /-- A delegation server slot takes the next call from its queue and starts the routine. (R194) -/
  | delegationServe
  /-- A server routine transfers control to address 0, and the server replies or retires the posted entry. (R194) -/
  | delegationRoutineEnd
  /-- A retire reaches the home; the task leaves the queue and gate tokens are sent to tasks it alone gated. (R147) -/
  | retire
  /-- The home starts the near body of the head task of the chosen queue on a free skerry slot of its channel. (R148) -/
  | nearDispatch
  /-- A gate token reaches a stolen task, which may then begin, as an acquire. (R147) -/
  | gateToken
  /-- A depth alert reaches a subscribed cluster, whose steal agent reserves a slot and sends a steal or declines. (R150) -/
  | depthAlert
  /-- A steal reply reaches the steal agent, which fills the reserved slot with the far body or releases it. (R150) -/
  | stealReply
  /-- A coalescing window ends, and the deferred notifications are posted as one store. (R151) -/
  | nwinExpiry
  /-- The event a parked instruction awaits arrives, and the thread goes from PARK to RUN. (R120) -/
  | awaitedEvent
  /-- The timeout of a wait expires, and it completes with WST TIMEOUT. (R158) -/
  | waitTimeout
  /-- A counted park passes the region wait limit; the instruction is abandoned and the thread traps WAITLIMIT. (R299) -/
  | waitlimitExpiry
  /-- At each rotation boundary the arbiter applies pinned writes and rebuilds the unpinned slot-table entries. (R124) -/
  | rebalance
  /-- A write to a core-shared register commits 12 cycles after its issue. (R34) -/
  | coreSharedCommit
  /-- A change to code-table state or XO commits 12 cycles after its issue. (R88) -/
  | tableCommit
  /-- A seal finishes its sorted order, sets STATE and advances GEN. (R92) -/
  | sealComplete
  /-- A performed destination write sends its byte count to an armed buoy word, which may advance its generation. (R235) -/
  | buoyCount
  /-- The matrix unit's reply to a request reaches the parked issuer, which completes. (R240) -/
  | matrixRequestReply
  /-- A command stalled 256 cycles on an operand while another context has a candidate is suspended and its tile locked. (R245) -/
  | matrixSuspend
  /-- The awaited operand of a suspended command arrives, and it becomes a candidate again. (R245) -/
  | matrixResume
  /-- Containment marks a matrix unit failed; its contexts fault and lost commands report MXDOWN. (R258) -/
  | matrixUnitFailed
  /-- A context starts a queued command. (R221) -/
  | engineCommandStart
  /-- A command's last word is performed; the command completes and TL advances over completed commands. (R221) -/
  | engineCommandComplete
  /-- An engine access meets PROT, poison or an unreachable home; the context faults and the issuer takes ENGFAULT. (R222) -/
  | engineFault
  /-- An engine translation fault parks the command and sends a page request to the buddy's handler slot. (R310) -/
  | pageRequest
  /-- The expansion unit completes a request, commits its registers and releases the parked thread. (R263) -/
  | xpRequestComplete
  /-- The reply to a thread's memory request arrives and the parked instruction completes. (R23) -/
  | memoryReply
  /-- The reply to an RLX load writes its pending registers. (R181) -/
  | rlxLoadReply
  /-- A one-word request reaches its home and is performed in arrival order. (R180) -/
  | homeRequest
  /-- The acknowledgement of a posted entry arrives and frees the journal entry. (R182) -/
  | postedAck
  /-- A posted entry is refused; it stays held and POSTREF is held by the posting thread. (R182) -/
  | postedRefusal
  /-- The Sound die accepts a store to another device or the host into its ordered egress queue. (R205) -/
  | egressAcceptance
  /-- The last posted entry a release waits for is acknowledged, and the release proceeds. (R182) -/
  | drainComplete
  /-- A held POSTREF or ENGFAULT is taken at the thread's next step boundary. (R291) -/
  | asyncCauseTaken
  /-- A thread traps, freezes and its unit builds and sends the trap record to the buddy. (R292) -/
  | trap
  /-- A trap record refused by a full delivery queue is resent after at least 1 microsecond. (R293) -/
  | trapRecordResend
  /-- A free handler slot is filled from the oldest queued trap record. (R295) -/
  | handlerFill
  /-- A handler's slot-window request is performed at the frozen thread's unit. (R296) -/
  | slotWindowAccess
  /-- A skerry issues an absent class; the thread drains and is shipped with all registers to a Cape core. (R276) -/
  | returnTrap
  /-- A migration context message reaches its destination and is accepted into a slot or buffer, or refused. (R199) -/
  | contextMessageArrival
  /-- A refused context message is resent after at least 1 microsecond. (R199) -/
  | migrationResend
  /-- A fitting slot frees and a buffered context enters it. (R199) -/
  | bufferedContextFill
  /-- A context buffered for 2 microseconds is spilled to its region's save area. (R199) -/
  | inboundSpill
  /-- A slot frees at a unit with spilled records, and its save engine restores the first one found. (R200) -/
  | spillRestore
  /-- A reply reaching a forwarding entry is forwarded to the migrated thread's present place. (R201) -/
  | replyForward
  /-- Both twins' hashes of a message arrive; on a match one copy goes on, on a difference both freeze with PAIRDIFF. (R327) -/
  | pairMessageMatch
  /-- One twin's hash is missing 100 microseconds after the other's, and both freeze with PAIRDIFF. (R327) -/
  | pairSilence
  /-- A page-table walk completes and fills the buffer or raises PAGE. (R304) -/
  | translationRefill
  /-- A queued containment request reaches the head and the region subtree is quarantined, killed and released. (R325) -/
  | containment
  /-- A write to CONT queues a containment or quarantine lift. (R350) -/
  | contWrite
  /-- A write to LDOOR submits the record named by LREC, or drops it with LERR 6. (R344) -/
  | ldoorWrite
  /-- The Sound die processes the next submitted launch: checks, pushes tasks and fills threads. (R344) -/
  | launch
  /-- A launch fill that has waited 1 ms fails with LERR 5. (R344) -/
  | launchFillTimeout
  /-- A host read of HFENCE returns 0 once earlier host writes are performed. (R341) -/
  | hfenceRead
  /-- A host CXL.mem read is performed at the home of the word. (R340) -/
  | hostMemRead
  /-- A host CXL.mem write is performed at the home of the word. (R340) -/
  | hostMemWrite
  /-- The host accepts a device write, confirmed by a following read, acknowledging the posted store. (R342) -/
  | hostAcceptance
  /-- A write to BCTL sets the IEEE 1588 domain and enables or disables following a master. (R339) -/
  | bctlWrite
  /-- A write to ASYM changes every die's TERR within 1 ms. (R339) -/
  | asymWrite
  /-- The Beacon begins to follow a master and enters LOCKED, stepping TIME if it came from FREE. (R337) -/
  | beaconLock
  /-- The master is lost while LOCKED and the Beacon enters HOLDOVER. (R337) -/
  | beaconMasterLoss
  /-- Holdover TERR would pass 1 ms and the Beacon enters FREE. (R337) -/
  | holdoverExpiry
  /-- The package master disciplines a die's TIME by a two-way token exchange. (R337) -/
  | beaconDiscipline
  /-- Each UP fabric port sends a heartbeat flit every 10 ms. (R349) -/
  | heartbeat
  /-- A port misses four consecutive heartbeats, goes DOWN and may make a device unreachable. (R349) -/
  | heartbeatMiss
  /-- A fabric port comes UP, and an event record is written. (R349) -/
  | linkUp
  /-- A write to FABCTL sets the device number and the lock. (R348) -/
  | fabctlWrite
  /-- A write to PWRCTL sets power limits from the next sample. (R352) -/
  | pwrctlWrite
  /-- Every 100 microseconds the power controller samples power and throttles, draws filler or runs ballast. (R353) -/
  | powerSample
  /-- Every 1 ms the device writes a telemetry record or counts it dropped. (R354) -/
  | telemetryRecord
  /-- Every 1 ms the measured energy is charged to regions. (R355) -/
  | energyUpdate
  /-- A host write to an LD 12 register with no behaviour of its own stores its value. (R344) -/
  | registerWrite
  /-- A write to ADOOR starts an attestation, burning the fuse counter and signing the report. (R357) -/
  | adoorWrite
  /-- The signed report is written to ADEST and ASTAT reads done. (R357) -/
  | attestationComplete
  /-- Writing the reset key to RSTCTL resets the package. (R358) -/
  | rstctlWrite
  /-- Power-on resets the package. (R358) -/
  | powerOn
  /-- The root of trust verifies each firmware image and either runs or holds the dies in reset. (R356) -/
  | bootVerify
  /-- An IEEE 1588 message from the grandmaster arrives on the management port and disciplines the package master. (R337) -/
  | ieee1588Message
  /-- A trap record or page request reaches the buddy core and is either accepted into its queue of 4 or refused. (R293) -/
  | trapRecordDelivery
  deriving DecidableEq, Repr

end Sys2Proof
end

