-- ==== Sys2Proof/WellFormed.lean ====
section
/-!
DEFINITION. The checks of R48 row 3 that an instruction's own fields decide: reserved qualifiers (R32, R39, R40),
a skip of 0 (R39), a mailbox named as a destination (R33), state numbers (R17), lane widths (R162, R167), register
counts of vmem (R169) and read-only engine registers (R215). Unused fields that are not zero are refused by
comparing a word with `encode` (Decode.lean).
-/

namespace Sys2Proof

/-- The 7-bit register fields an instruction writes (R33), by its own chapter's description. -/
def destRegs : Instr → List (BitVec 7)
  | .aluAdd d _ _ | .aluSub d _ _ | .aluMul d _ _ | .aluMulh d _ _
  | .aluMulhu d _ _ | .aluDiv d _ _ | .aluDivu d _ _ | .aluRem d _ _
  | .aluRemu d _ _ | .aluAnd d _ _ | .aluOr d _ _ | .aluXor d _ _
  | .aluAndn d _ _ | .aluSll d _ _ | .aluSrl d _ _ | .aluSra d _ _
  | .aluRol d _ _ | .aluSlt d _ _ | .aluSltu d _ _ | .aluMin d _ _
  | .aluMax d _ _ | .aluMinu d _ _ | .aluMaxu d _ _ | .aluClz d _
  | .aluCtz d _ | .aluPopc d _ | .addi d _ _ | .andi d _ _
  | .ori d _ _ | .xori d _ _ | .shiSlli d _ _ | .shiSrli d _ _
  | .shiSrai d _ _ | .shiRoli d _ _ | .lui d _ | .auipc d _
  | .jr d _ _ | .ld d _ _ _ _ _ | .felWfe d _ _ _ | .felWfs d _ _ _
  | .felAny d _ _ | .amoAdd d _ _ | .amoAnd d _ _ | .amoOr d _ _
  | .amoXor d _ _ | .amoMin d _ _ | .amoMax d _ _ | .amoMinu d _ _
  | .amoMaxu d _ _ | .amoSwap d _ _ | .amoCas d _ _ | .amoIncw d _ _
  | .amoFaddb d _ _ | .amoFaddF32 d _ _ | .dlgCall d _ _ | .tqPush d _ _
  | .tqTake d _ _ | .tqSteal d _ _ | .tqDepth d _ | .jcAdd d _ _
  | .jcDec d _ | .waitMbox d _ _ | .thrSpawn d _ _ | .sysSrd d _
  | .sysCapget d _ _ | .sysPre d _ _ | .fpAdd d _ _ | .fpSub d _ _
  | .fpMul d _ _ | .fpDiv d _ _ | .fpSqrt d _ | .fpFma d _ _
  | .fpMin d _ _ | .fpMax d _ _ | .fpCvt d _ | .fpFtoi d _
  | .fpItof d _ | .tblRd d _ | .tblEnc d _ | .tblDec d _ => [d]
  | .vscRedadd _ s _ | .vscRedmin _ s _ | .vscRedmax _ s _ | .vscRedminu _ s _
  | .vscRedmaxu _ s _ | .vscFredadd _ s _ | .vscFredmin _ s _ | .vscFredmax _ s _
  | .vscMask _ s _ => [s]
  | .erd _ _ _ a => [a]
  | .xpEval _ _ b | .xpNear _ b | .xpAdm _ _ b => [b]
  | _ => []

/-- A mailbox m0 to m3, specifiers 124 to 127 (R33). -/
def isMailbox (r : BitVec 7) : Bool := 124 ≤ r.toNat

/-- The lane widths a vop or vsc function accepts (R163-R167); LW 3 is reserved (R159). -/
def laneWidthOk : Instr → Bool
  | .vopAdd _ _ _ l | .vopSub _ _ _ l | .vopMul _ _ _ l | .vopMin _ _ _ l
  | .vopMax _ _ _ l | .vopMinu _ _ _ l | .vopMaxu _ _ _ l | .vopAnd _ _ _ l
  | .vopOr _ _ _ l | .vopXor _ _ _ l | .vopSll _ _ _ l | .vopSrl _ _ _ l
  | .vopSra _ _ _ l | .vopAdds _ _ _ l | .vopSubs _ _ _ l | .vopCeq _ _ _ l
  | .vopClt _ _ _ l | .vopCltu _ _ _ l | .vopSel _ _ _ l | .vopShuf _ _ _ l
  | .vscBcast _ _ l | .vscAdd _ _ _ l | .vscSub _ _ _ l | .vscMul _ _ _ l
  | .vscRedadd _ _ l | .vscRedmin _ _ l | .vscRedmax _ _ l | .vscRedminu _ _ l
  | .vscRedmaxu _ _ l | .vscMask _ _ l => l.toNat ≤ 2
  | .vopFadd _ _ _ l | .vopFsub _ _ _ l | .vopFmul _ _ _ l | .vopFfma _ _ _ l
  | .vopFmin _ _ _ l | .vopFmax _ _ _ l | .vopFceq _ _ _ l | .vopFclt _ _ _ l
  | .vopFcle _ _ _ l | .vopFcvt _ _ l | .vopEnc _ _ l | .vopDec _ _ l
  | .vscFadd _ _ _ l | .vscFmul _ _ _ l | .vscFfma _ _ _ l | .vscFredadd _ _ l
  | .vscFredmin _ _ l | .vscFredmax _ _ l => l.toNat = 0 || l.toNat = 2
  | _ => true

/-- How many contexts an engine has; 0 for a reserved engine number (R47, R217, R234, R243, R280, R345). -/
def engineContexts (e : BitVec 4) : Nat :=
  match e.toNat with
  | 0 => 8 | 1 => 8 | 2 => 1 | 4 => 4 | 5 => 8 | 6 => 1 | 7 => 2
  | _ => 0

/-- The register numbers an engine's tables list (R216, R218, R224, R230, R237, R242, R279, R345). -/
def engineHasReg (e : BitVec 4) (r : BitVec 5) : Bool :=
  match e.toNat with
  | 0 => r.toNat ≤ 5 || (8 ≤ r.toNat && r.toNat ≤ 13)
  | 1 => r.toNat = 0 || (8 ≤ r.toNat && r.toNat ≤ 11)
  | 4 => r.toNat ≤ 16
  | 5 => r.toNat ≤ 5 || r.toNat = 8 || r.toNat = 9
  | 6 => r.toNat ≤ 5 || (8 ≤ r.toNat && r.toNat ≤ 12)
  | 7 => r.toNat ≤ 5 || r.toNat = 8 || r.toNat = 9
  | _ => false

/-- An `eng`, `ewr` or `erd` word whose context and register exist (R215). -/
def engineDefined : Instr → Bool
  | .ewr e c r _ | .erd e c r _ => c.toNat < engineContexts e && engineHasReg e r
  | .engClaim e c | .engRelease e c | .engClear e c =>
      c.toNat < engineContexts e && e.toNat ≠ 1 && e.toNat ≠ 2                          -- R219: command contexts
  | .mtxMma c _ _ | .mtxMmas c _ _ | .mtxAclr c | .mtxAcopyIn c _ _
  | .mtxAcopyOut c _ _ | .mtxTset c _ _ | .mtxTseal c => c.toNat < 4
  | .pmigMove c _ _ | .pmigCommit c => c.toNat < 2
  | _ => true

/-- The instruction words; the other constructors are the events of the table. -/
def isWord : Instr → Bool
  | .dividerResult | .feDeadline | .feCancel | .delegationServe
  | .delegationRoutineEnd | .retire | .nearDispatch | .gateToken
  | .depthAlert | .stealReply | .nwinExpiry | .awaitedEvent
  | .waitTimeout | .waitlimitExpiry | .rebalance | .coreSharedCommit
  | .tableCommit | .sealComplete | .buoyCount | .matrixRequestReply
  | .matrixSuspend | .matrixResume | .matrixUnitFailed | .engineCommandStart
  | .engineCommandComplete | .engineFault | .pageRequest | .xpRequestComplete
  | .memoryReply | .rlxLoadReply | .homeRequest | .postedAck
  | .postedRefusal | .egressAcceptance | .drainComplete | .asyncCauseTaken
  | .trap | .trapRecordResend | .handlerFill | .slotWindowAccess
  | .returnTrap | .contextMessageArrival | .migrationResend | .bufferedContextFill
  | .inboundSpill | .spillRestore | .replyForward | .pairMessageMatch
  | .pairSilence | .translationRefill | .containment | .contWrite
  | .ldoorWrite | .launch | .launchFillTimeout | .hfenceRead
  | .hostMemRead | .hostMemWrite | .hostAcceptance | .bctlWrite
  | .asymWrite | .beaconLock | .beaconMasterLoss | .holdoverExpiry
  | .beaconDiscipline | .heartbeat | .heartbeatMiss | .linkUp
  | .fabctlWrite | .pwrctlWrite | .powerSample | .telemetryRecord
  | .energyUpdate | .registerWrite | .adoorWrite | .attestationComplete
  | .rstctlWrite | .powerOn | .bootVerify | .ieee1588Message
  | .trapRecordDelivery => false
  | _ => true

/-- The state numbers of R16, and which of them `sys.swr` may write (R17). -/
def stateNumberOk : Instr → Bool
  | .sysSrd _ a => a.toNat ≤ 16
  | .sysSwr d _ => d.toNat ∈ [0, 3, 4, 5, 14, 15, 16]
  | _ => true

/-- The engine registers that `ewr` may not write: registers 0 to 5 of every context, BANK, the matrix views,
the bank MAC's MODE and both page-migration registers (R215, R218, R224, R242, R279, R345). -/
def engineRegReadOnly (e : BitVec 4) (r : BitVec 5) : Bool :=
  match e.toNat with
  | 0 => r.toNat ≤ 5 || r.toNat = 13
  | 1 => r.toNat = 0
  | 4 => r.toNat ≤ 5 || r.toNat = 12 || r.toNat = 15 || r.toNat = 16
  | 5 => r.toNat ≤ 5
  | 6 => r.toNat ≤ 5 || r.toNat = 12
  | _ => true

/-- Reserved qualifiers and values of the fields of one instruction. -/
def qualifiersOk : Instr → Bool
  | .csk c s _ _ => c.toNat ≤ 12 && s.toNat ≠ 0                                        -- R39
  | .cski c s _ i => c.toNat ≤ 7 && s.toNat ≠ 0 && (c.toNat < 6 || i.toNat < 64)        -- R39, R56
  | .br c a _ => c.toNat ≤ 6 && (c.toNat ≠ 6 || a.toNat = 0)                            -- R40, R30
  | .ld _ _ w x _ _ => !(x.toNat = 1 && w.toNat = 3)                                    -- R32
  | .thrNwr d _ => d.toNat ≤ 3                                                          -- R135
  | .vmemLd v _ _ n _ | .vmemSt v _ _ n _ =>
      if v.toNat ≤ 26 then v.toNat + n.toNat ≤ 26 else n.toNat = 0                      -- R169
  | .xpGrad _ _ b => b.toNat ≤ 26                                                       -- R265
  | .ewr e _ r _ => !engineRegReadOnly e r                                              -- R215
  | _ => true

/-- An instruction word, defined on its engine, none of whose own fields traps ILLFLD under R48 row 3. -/
def wellFormed (i : Instr) : Bool :=
  isWord i && engineDefined i && qualifiersOk i && laneWidthOk i && stateNumberOk i && (destRegs i).all (fun r => !isMailbox r)

end Sys2Proof
end

