-- ==== Sys2Proof/Decode.lean ====
section
/-!
DEFINITION. From a 32-bit word to an instruction and back (R28, R29, R36-R48).
`decodeRaw` reads the function fields and the operand fields of a word; it answers none exactly where row 1 of
R48 traps ILLOP. It looks at no bit of a field the instruction does not use: whether those are zero, and whether
a qualifier is reserved, is row 3 of R48 (`encode i = w` and `wellFormed i`), which comes after row 2.
`decode` is the strict decoder: it answers an instruction only for a legal word, and each legal instruction has
exactly one (R30). `encode` writes the word of an instruction from the same tables.
-/

namespace Sys2Proof

/-! ### The formats of R29, as words built from their fields -/

/-- A word of format R, from its fields, most significant first (R29). -/
def packR (op : BitVec 6) (d : BitVec 7) (a : BitVec 7) (b : BitVec 7) (fn : BitVec 5) : BitVec 32 :=
  BitVec.ofNat 32 (op.toNat * 2 ^ 26 + d.toNat * 2 ^ 19 + a.toNat * 2 ^ 12 + b.toNat * 2 ^ 5 + fn.toNat)

/-- A word of format I, from its fields, most significant first (R29). -/
def packI (op : BitVec 6) (d : BitVec 7) (a : BitVec 7) (i : BitVec 12) : BitVec 32 :=
  BitVec.ofNat 32 (op.toNat * 2 ^ 26 + d.toNat * 2 ^ 19 + a.toNat * 2 ^ 12 + i.toNat)

/-- A word of format S, from its fields, most significant first (R29). -/
def packS (op : BitVec 6) (d : BitVec 7) (a : BitVec 7) (k : BitVec 6) (n : BitVec 6) : BitVec 32 :=
  BitVec.ofNat 32 (op.toNat * 2 ^ 26 + d.toNat * 2 ^ 19 + a.toNat * 2 ^ 12 + k.toNat * 2 ^ 6 + n.toNat)

/-- A word of format U, from its fields, most significant first (R29). -/
def packU (op : BitVec 6) (d : BitVec 7) (i : BitVec 19) : BitVec 32 :=
  BitVec.ofNat 32 (op.toNat * 2 ^ 26 + d.toNat * 2 ^ 19 + i.toNat)

/-- A word of format K, from its fields, most significant first (R29). -/
def packK (op : BitVec 6) (c : BitVec 4) (s : BitVec 2) (a : BitVec 7) (b : BitVec 7) (z : BitVec 6) : BitVec 32 :=
  BitVec.ofNat 32 (op.toNat * 2 ^ 26 + c.toNat * 2 ^ 22 + s.toNat * 2 ^ 20 + a.toNat * 2 ^ 13 + b.toNat * 2 ^ 6 + z.toNat)

/-- A word of format KI, from its fields, most significant first (R29). -/
def packKI (op : BitVec 6) (c : BitVec 4) (s : BitVec 2) (a : BitVec 7) (i : BitVec 13) : BitVec 32 :=
  BitVec.ofNat 32 (op.toNat * 2 ^ 26 + c.toNat * 2 ^ 22 + s.toNat * 2 ^ 20 + a.toNat * 2 ^ 13 + i.toNat)

/-- A word of format B, from its fields, most significant first (R29). -/
def packB (op : BitVec 6) (c : BitVec 4) (a : BitVec 7) (o : BitVec 15) : BitVec 32 :=
  BitVec.ofNat 32 (op.toNat * 2 ^ 26 + c.toNat * 2 ^ 22 + a.toNat * 2 ^ 15 + o.toNat)

/-- A word of format J, from its fields, most significant first (R29). -/
def packJ (op : BitVec 6) (o : BitVec 26) : BitVec 32 :=
  BitVec.ofNat 32 (op.toNat * 2 ^ 26 + o.toNat)

/-- A word of format M, from its fields, most significant first (R29). -/
def packM (op : BitVec 6) (d : BitVec 7) (a : BitVec 7) (w : BitVec 2) (x : BitVec 1) (g : BitVec 1) (i : BitVec 8) : BitVec 32 :=
  BitVec.ofNat 32 (op.toNat * 2 ^ 26 + d.toNat * 2 ^ 19 + a.toNat * 2 ^ 12 + w.toNat * 2 ^ 10 + x.toNat * 2 ^ 9 + g.toNat * 2 ^ 8 + i.toNat)

/-- A word of format F, from its fields, most significant first (R29). -/
def packF (op : BitVec 6) (d : BitVec 7) (a : BitVec 7) (m : BitVec 3) (t : BitVec 5) (o : BitVec 4) : BitVec 32 :=
  BitVec.ofNat 32 (op.toNat * 2 ^ 26 + d.toNat * 2 ^ 19 + a.toNat * 2 ^ 12 + m.toNat * 2 ^ 9 + t.toNat * 2 ^ 4 + o.toNat)

/-- A word of format W, from its fields, most significant first (R29). -/
def packW (op : BitVec 6) (d : BitVec 7) (a : BitVec 7) (t : BitVec 5) (k : BitVec 5) (z : BitVec 2) : BitVec 32 :=
  BitVec.ofNat 32 (op.toNat * 2 ^ 26 + d.toNat * 2 ^ 19 + a.toNat * 2 ^ 12 + t.toNat * 2 ^ 7 + k.toNat * 2 ^ 2 + z.toNat)

/-- A word of format G, from its fields, most significant first (R29). -/
def packG (op : BitVec 6) (a : BitVec 7) (l : BitVec 15) (z : BitVec 4) : BitVec 32 :=
  BitVec.ofNat 32 (op.toNat * 2 ^ 26 + a.toNat * 2 ^ 19 + l.toNat * 2 ^ 4 + z.toNat)

/-- A word of format V, from its fields, most significant first (R29). -/
def packV (op : BitVec 6) (v : BitVec 5) (a : BitVec 5) (b : BitVec 5) (l : BitVec 2) (z : BitVec 3) (fn : BitVec 6) : BitVec 32 :=
  BitVec.ofNat 32 (op.toNat * 2 ^ 26 + v.toNat * 2 ^ 21 + a.toNat * 2 ^ 16 + b.toNat * 2 ^ 11 + l.toNat * 2 ^ 9 + z.toNat * 2 ^ 6 + fn.toNat)

/-- A word of format VS, from its fields, most significant first (R29). -/
def packVS (op : BitVec 6) (v : BitVec 5) (a : BitVec 5) (s : BitVec 7) (l : BitVec 2) (z : BitVec 1) (fn : BitVec 6) : BitVec 32 :=
  BitVec.ofNat 32 (op.toNat * 2 ^ 26 + v.toNat * 2 ^ 21 + a.toNat * 2 ^ 16 + s.toNat * 2 ^ 9 + l.toNat * 2 ^ 7 + z.toNat * 2 ^ 6 + fn.toNat)

/-- A word of format VM, from its fields, most significant first (R29). -/
def packVM (op : BitVec 6) (v : BitVec 5) (a : BitVec 7) (st : BitVec 1) (g : BitVec 1) (n : BitVec 2) (i : BitVec 10) : BitVec 32 :=
  BitVec.ofNat 32 (op.toNat * 2 ^ 26 + v.toNat * 2 ^ 21 + a.toNat * 2 ^ 14 + st.toNat * 2 ^ 13 + g.toNat * 2 ^ 12 + n.toNat * 2 ^ 10 + i.toNat)

/-- A word of format E, from its fields, most significant first (R29). -/
def packE (op : BitVec 6) (e : BitVec 4) (c : BitVec 3) (n : BitVec 5) (a : BitVec 7) (b : BitVec 7) : BitVec 32 :=
  BitVec.ofNat 32 (op.toNat * 2 ^ 26 + e.toNat * 2 ^ 22 + c.toNat * 2 ^ 19 + n.toNat * 2 ^ 14 + a.toNat * 2 ^ 7 + b.toNat)

/-- A word of format X, from its fields, most significant first (R29). -/
def packX (op : BitVec 6) (x : BitVec 3) (y : BitVec 3) (a : BitVec 7) (b : BitVec 7) (fn : BitVec 6) : BitVec 32 :=
  BitVec.ofNat 32 (op.toNat * 2 ^ 26 + x.toNat * 2 ^ 23 + y.toNat * 2 ^ 20 + a.toNat * 2 ^ 13 + b.toNat * 2 ^ 6 + fn.toNat)

/-- A word of format P, from its fields, most significant first (R29). -/
def packP (op : BitVec 6) (k : BitVec 3) (a : BitVec 4) (d : BitVec 4) (s : BitVec 2) (r : BitVec 2) (z : BitVec 11) : BitVec 32 :=
  BitVec.ofNat 32 (op.toNat * 2 ^ 26 + k.toNat * 2 ^ 23 + a.toNat * 2 ^ 19 + d.toNat * 2 ^ 15 + s.toNat * 2 ^ 13 + r.toNat * 2 ^ 11 + z.toNat)

/-- Bits [l+n-1:l] of a word. -/
abbrev fieldOf (w : BitVec 32) (l n : Nat) : BitVec n := w.extractLsb' l n

/-- The major opcode, bits [31:26] (R28). -/
abbrev majorOf (w : BitVec 32) : BitVec 6 := fieldOf w 26 6

/-! ### The function tables of the majors -/

/-- Major 0x01, alu: the function code selects the operation (R37, R38). -/
def decodeAlu (fn : BitVec 5) (d : BitVec 7) (a : BitVec 7) (b : BitVec 7) : Option Instr :=
  match fn.toNat with
  | 0 => some (.aluAdd d a b)
  | 1 => some (.aluSub d a b)
  | 2 => some (.aluMul d a b)
  | 3 => some (.aluMulh d a b)
  | 4 => some (.aluMulhu d a b)
  | 5 => some (.aluDiv d a b)
  | 6 => some (.aluDivu d a b)
  | 7 => some (.aluRem d a b)
  | 8 => some (.aluRemu d a b)
  | 9 => some (.aluAnd d a b)
  | 10 => some (.aluOr d a b)
  | 11 => some (.aluXor d a b)
  | 12 => some (.aluAndn d a b)
  | 13 => some (.aluSll d a b)
  | 14 => some (.aluSrl d a b)
  | 15 => some (.aluSra d a b)
  | 16 => some (.aluRol d a b)
  | 17 => some (.aluSlt d a b)
  | 18 => some (.aluSltu d a b)
  | 19 => some (.aluMin d a b)
  | 20 => some (.aluMax d a b)
  | 21 => some (.aluMinu d a b)
  | 22 => some (.aluMaxu d a b)
  | 23 => some (.aluClz d a)
  | 24 => some (.aluCtz d a)
  | 25 => some (.aluPopc d a)
  | _ => none

/-- Major 0x06, shi: the function code selects the operation (R37, R38). -/
def decodeShi (k : BitVec 6) (d : BitVec 7) (a : BitVec 7) (n : BitVec 6) : Option Instr :=
  match k.toNat with
  | 0 => some (.shiSlli d a n)
  | 1 => some (.shiSrli d a n)
  | 2 => some (.shiSrai d a n)
  | 3 => some (.shiRoli d a n)
  | _ => none

/-- Major 0x12, fel: the function code selects the operation (R37, R38). -/
def decodeFel (m : BitVec 3) (d : BitVec 7) (a : BitVec 7) (t : BitVec 5) (o : BitVec 4) : Option Instr :=
  match m.toNat with
  | 0 => some (.felWfe d a t o)
  | 1 => some (.felWfs d a t o)
  | 2 => some (.felAny d a o)
  | _ => some (.felWfe d a t o)  -- reserved modes: row 3 of R48 refuses them, since their word differs from `encode`

/-- Major 0x13, fes: the function code selects the operation (R37, R38). -/
def decodeFes (m : BitVec 3) (d : BitVec 7) (a : BitVec 7) (t : BitVec 5) (o : BitVec 4) : Option Instr :=
  match m.toNat with
  | 0 => some (.fesWes d a t o)
  | 1 => some (.fesSetf d a o)
  | 2 => some (.fesSete d a o)
  | _ => some (.fesWes d a t o)  -- reserved modes: row 3 of R48 refuses them, since their word differs from `encode`

/-- Major 0x14, amo: the function code selects the operation (R37, R38). -/
def decodeAmo (fn : BitVec 5) (d : BitVec 7) (a : BitVec 7) (b : BitVec 7) : Option Instr :=
  match fn.toNat with
  | 0 => some (.amoAdd d a b)
  | 1 => some (.amoAnd d a b)
  | 2 => some (.amoOr d a b)
  | 3 => some (.amoXor d a b)
  | 4 => some (.amoMin d a b)
  | 5 => some (.amoMax d a b)
  | 6 => some (.amoMinu d a b)
  | 7 => some (.amoMaxu d a b)
  | 8 => some (.amoSwap d a b)
  | 9 => some (.amoCas d a b)
  | 10 => some (.amoIncw d a b)
  | 11 => some (.amoFaddb d a b)
  | 12 => some (.amoFaddF32 d a b)
  | _ => none

/-- Major 0x15, rupd: the function code selects the operation (R37, R38). -/
def decodeRupd (fn : BitVec 5) (_d : BitVec 7) (a : BitVec 7) (b : BitVec 7) : Option Instr :=
  match fn.toNat with
  | 0 => some (.rupdAdd a b)
  | 1 => some (.rupdAnd a b)
  | 2 => some (.rupdOr a b)
  | 3 => some (.rupdXor a b)
  | 4 => some (.rupdMin a b)
  | 5 => some (.rupdMax a b)
  | 6 => some (.rupdMinu a b)
  | 7 => some (.rupdMaxu a b)
  | 8 => some (.rupdSwap a b)
  | 10 => some (.rupdIncw a b)
  | 12 => some (.rupdFaddF32 a b)
  | _ => none

/-- Major 0x17, dlg: the function code selects the operation (R37, R38). -/
def decodeDlg (fn : BitVec 5) (d : BitVec 7) (a : BitVec 7) (b : BitVec 7) : Option Instr :=
  match fn.toNat with
  | 0 => some (.dlgCall d a b)
  | 1 => some (.dlgPost a b)
  | _ => none

/-- Major 0x18, tq: the function code selects the operation (R37, R38). -/
def decodeTq (fn : BitVec 5) (d : BitVec 7) (a : BitVec 7) (b : BitVec 7) : Option Instr :=
  match fn.toNat with
  | 0 => some (.tqPush d a b)
  | 1 => some (.tqTake d a b)
  | 2 => some (.tqSteal d a b)
  | 3 => some .tqDone
  | 4 => some (.tqDepth d a)
  | 5 => some (.tqCfg a b)
  | 6 => some (.tqSub a b)
  | _ => none

/-- Major 0x19, jc: the function code selects the operation (R37, R38). -/
def decodeJc (fn : BitVec 5) (d : BitVec 7) (a : BitVec 7) (b : BitVec 7) : Option Instr :=
  match fn.toNat with
  | 0 => some (.jcInit a b)
  | 1 => some (.jcAdd d a b)
  | 2 => some (.jcDec d a)
  | _ => none

/-- Major 0x1a, wait: the function code selects the operation (R37, R38). -/
def decodeWait (k : BitVec 5) (d : BitVec 7) (a : BitVec 7) (t : BitVec 5) : Option Instr :=
  match k.toNat with
  | 0 => some (.waitJz a t)
  | 1 => some (.waitMbox d a t)
  | 2 => some (.waitSleep d t)
  | 3 => some (.waitFe d a t)
  | 4 => some (.waitTl d a t)
  | 5 => some (.waitBuoy d a t)
  | 6 => some (.waitGate t)
  | _ => none

/-- Major 0x1b, thr: the function code selects the operation (R37, R38). -/
def decodeThr (fn : BitVec 5) (d : BitVec 7) (a : BitVec 7) (b : BitVec 7) : Option Instr :=
  match fn.toNat with
  | 0 => some (.thrSpawn d a b)
  | 1 => some .thrExit
  | 2 => some .thrYield
  | 3 => some (.thrNwr d a)
  | 4 => some (.thrStw a b)
  | _ => none

/-- Major 0x1c, sys: the function code selects the operation (R37, R38). -/
def decodeSys (fn : BitVec 5) (d : BitVec 7) (a : BitVec 7) (b : BitVec 7) : Option Instr :=
  match fn.toNat with
  | 0 => some (.sysSrd d a)
  | 1 => some (.sysSwr d a)
  | 2 => some (.sysTrap a)
  | 3 => some .sysBreak
  | 4 => some .sysIfence
  | 5 => some .sysFenceDev
  | 6 => some .sysFenceDom
  | 7 => some .sysFenceSys
  | 8 => some (.sysCapget d a b)
  | 9 => some .sysTres
  | 10 => some (.sysTkill a)
  | 11 => some (.sysPre d a b)
  | 12 => some (.sysTlbInv a)
  | 13 => some (.sysTlbAll a)
  | _ => none

/-- Major 0x1d, pfx: the function code selects the operation (R37, R38). -/
def decodePfx (k : BitVec 3) (a : BitVec 4) (d : BitVec 4) (s : BitVec 2) (r : BitVec 2) : Option Instr :=
  match k.toNat with
  | 0 => some (.pfxFmt a d s r)
  | 1 => some .pfxRlx
  | _ => none

/-- Major 0x20, fp: the function code selects the operation (R37, R38). -/
def decodeFp (fn : BitVec 5) (d : BitVec 7) (a : BitVec 7) (b : BitVec 7) : Option Instr :=
  match fn.toNat with
  | 0 => some (.fpAdd d a b)
  | 1 => some (.fpSub d a b)
  | 2 => some (.fpMul d a b)
  | 3 => some (.fpDiv d a b)
  | 4 => some (.fpSqrt d a)
  | 5 => some (.fpFma d a b)
  | 6 => some (.fpMin d a b)
  | 7 => some (.fpMax d a b)
  | 8 => some (.fpCvt d a)
  | 9 => some (.fpFtoi d a)
  | 10 => some (.fpItof d a)
  | _ => none

/-- Major 0x22, tbl: the function code selects the operation (R37, R38). -/
def decodeTbl (fn : BitVec 5) (d : BitVec 7) (a : BitVec 7) (b : BitVec 7) : Option Instr :=
  match fn.toNat with
  | 0 => some (.tblWr a b)
  | 1 => some (.tblRd d a)
  | 2 => some .tblSeal
  | 3 => some (.tblNansub a)
  | 4 => some (.tblEnc d a)
  | 5 => some (.tblDec d a)
  | _ => none

/-- Major 0x24, vop: the function code selects the operation (R37, R38). -/
def decodeVop (fn : BitVec 6) (v : BitVec 5) (a : BitVec 5) (b : BitVec 5) (l : BitVec 2) : Option Instr :=
  match fn.toNat with
  | 0 => some (.vopAdd v a b l)
  | 1 => some (.vopSub v a b l)
  | 2 => some (.vopMul v a b l)
  | 3 => some (.vopMin v a b l)
  | 4 => some (.vopMax v a b l)
  | 5 => some (.vopMinu v a b l)
  | 6 => some (.vopMaxu v a b l)
  | 7 => some (.vopAnd v a b l)
  | 8 => some (.vopOr v a b l)
  | 9 => some (.vopXor v a b l)
  | 10 => some (.vopSll v a b l)
  | 11 => some (.vopSrl v a b l)
  | 12 => some (.vopSra v a b l)
  | 13 => some (.vopAdds v a b l)
  | 14 => some (.vopSubs v a b l)
  | 16 => some (.vopCeq v a b l)
  | 17 => some (.vopClt v a b l)
  | 18 => some (.vopCltu v a b l)
  | 20 => some (.vopSel v a b l)
  | 21 => some (.vopShuf v a b l)
  | 32 => some (.vopFadd v a b l)
  | 33 => some (.vopFsub v a b l)
  | 34 => some (.vopFmul v a b l)
  | 35 => some (.vopFfma v a b l)
  | 36 => some (.vopFmin v a b l)
  | 37 => some (.vopFmax v a b l)
  | 38 => some (.vopFceq v a b l)
  | 39 => some (.vopFclt v a b l)
  | 40 => some (.vopFcle v a b l)
  | 41 => some (.vopFcvt v a l)
  | 42 => some (.vopWlo v a)
  | 43 => some (.vopWhi v a)
  | 44 => some (.vopNar v a b)
  | 48 => some (.vopEnc v a l)
  | 49 => some (.vopDec v a l)
  | _ => none

/-- Major 0x25, vmem: the function code selects the operation (R37, R38). -/
def decodeVmem (st : BitVec 1) (v : BitVec 5) (a : BitVec 7) (g : BitVec 1) (n : BitVec 2) (i : BitVec 10) : Option Instr :=
  match st.toNat with
  | 0 => some (.vmemLd v a g n i)
  | _ => some (.vmemSt v a g n i)


/-- Major 0x26, vsc: the function code selects the operation (R37, R38). -/
def decodeVsc (fn : BitVec 6) (v : BitVec 5) (a : BitVec 5) (s : BitVec 7) (l : BitVec 2) : Option Instr :=
  match fn.toNat with
  | 0 => some (.vscBcast v s l)
  | 1 => some (.vscAdd v a s l)
  | 2 => some (.vscSub v a s l)
  | 3 => some (.vscMul v a s l)
  | 4 => some (.vscFadd v a s l)
  | 5 => some (.vscFmul v a s l)
  | 6 => some (.vscFfma v a s l)
  | 16 => some (.vscRedadd a s l)
  | 17 => some (.vscRedmin a s l)
  | 18 => some (.vscRedmax a s l)
  | 19 => some (.vscRedminu a s l)
  | 20 => some (.vscRedmaxu a s l)
  | 21 => some (.vscFredadd a s l)
  | 22 => some (.vscFredmin a s l)
  | 23 => some (.vscFredmax a s l)
  | 24 => some (.vscMask a s l)
  | _ => none

/-- Major 0x34, xp: the function code selects the operation (R37, R38). -/
def decodeXp (fn : BitVec 6) (x : BitVec 3) (y : BitVec 3) (a : BitVec 7) (b : BitVec 7) : Option Instr :=
  match fn.toNat with
  | 0 => some (.xpCtrm x a)
  | 1 => some (.xpCtrl x a)
  | 2 => some (.xpClr x)
  | 3 => some (.xpLd x a)
  | 4 => some (.xpSt y a)
  | 5 => some (.xpAdd x y)
  | 6 => some (.xpForm x a b)
  | 7 => some (.xpM2m x y)
  | 8 => some (.xpM2l x y)
  | 9 => some (.xpL2l x y)
  | 10 => some (.xpEval y a b)
  | 11 => some (.xpGrad y a b)
  | 12 => some (.xpNear a b)
  | 13 => some (.xpAdm x y b)
  | _ => none

/-- Major 0x30, eng: the engine and OPN select the operation; a context the engine lacks is undefined (R215). -/
def decodeEng (e : BitVec 4) (c : BitVec 3) (n : BitVec 5) (a b : BitVec 7) : Option Instr :=
  if engineContexts e ≤ c.toNat then none else
  match e.toNat, n.toNat with
  | 0, 0 => some (.engClaim e c)
  | 0, 1 => some (.engRelease e c)
  | 0, 2 => some (.engClear e c)
  | 0, 3 => some (.copyXfer c a b)
  | 0, 4 => some (.copyDist c a b)
  | 0, 5 => some (.copyBopen c a)
  | 0, 6 => some (.copyBclose c)
  | 0, 7 => some (.copyCsr c a b)
  | 1, 0 => some (.streamBind c a b)
  | 1, 1 => some (.streamUnbind c)
  | 1, 2 => some (.streamPort c a b)
  | 2, 0 => some (.buoySet a b)
  | 4, 0 => some (.engClaim e c)
  | 4, 1 => some (.engRelease e c)
  | 4, 2 => some (.engClear e c)
  | 4, 3 => some (.mtxMma c a b)
  | 4, 4 => some (.mtxMmas c a b)
  | 4, 5 => some (.mtxAclr c)
  | 4, 6 => some (.mtxAcopyIn c a b)
  | 4, 7 => some (.mtxAcopyOut c a b)
  | 4, 8 => some (.mtxTset c a b)
  | 4, 9 => some (.mtxTseal c)
  | 5, 0 => some (.engClaim e c)
  | 5, 1 => some (.engRelease e c)
  | 5, 2 => some (.engClear e c)
  | 5, 3 => some (.gsGather c a b)
  | 5, 4 => some (.gsScatter c a b)
  | 6, 0 => some (.engClaim e c)
  | 6, 1 => some (.engRelease e c)
  | 6, 2 => some (.engClear e c)
  | 6, 3 => some .bmacOpen
  | 6, 4 => some (.bmacBcast a b)
  | 6, 5 => some (.bmacMac a b)
  | 6, 6 => some (.bmacRd a b)
  | 6, 7 => some (.bmacAclr b)
  | 6, 8 => some .bmacClose
  | 7, 0 => some (.engClaim e c)
  | 7, 1 => some (.engRelease e c)
  | 7, 2 => some (.engClear e c)
  | 7, 3 => some (.pmigMove c a b)
  | 7, 4 => some (.pmigCommit c)
  | _, _ => none

/-- The instruction a word's function and operand fields name; none where R48 row 1 traps ILLOP. -/
def decodeRaw (w : BitVec 32) : Option Instr :=
  match (majorOf w).toNat with
  | 1 => decodeAlu (fieldOf w 0 5) (fieldOf w 19 7) (fieldOf w 12 7) (fieldOf w 5 7)
  | 2 => some (.addi (fieldOf w 19 7) (fieldOf w 12 7) (fieldOf w 0 12))
  | 3 => some (.andi (fieldOf w 19 7) (fieldOf w 12 7) (fieldOf w 0 12))
  | 4 => some (.ori (fieldOf w 19 7) (fieldOf w 12 7) (fieldOf w 0 12))
  | 5 => some (.xori (fieldOf w 19 7) (fieldOf w 12 7) (fieldOf w 0 12))
  | 6 => decodeShi (fieldOf w 6 6) (fieldOf w 19 7) (fieldOf w 12 7) (fieldOf w 0 6)
  | 7 => some (.lui (fieldOf w 19 7) (fieldOf w 0 19))
  | 8 => some (.auipc (fieldOf w 19 7) (fieldOf w 0 19))
  | 9 => some (.csk (fieldOf w 22 4) (fieldOf w 20 2) (fieldOf w 13 7) (fieldOf w 6 7))
  | 10 => some (.cski (fieldOf w 22 4) (fieldOf w 20 2) (fieldOf w 13 7) (fieldOf w 0 13))
  | 11 => some (.br (fieldOf w 22 4) (fieldOf w 15 7) (fieldOf w 0 15))
  | 12 => some (.j (fieldOf w 0 26))
  | 13 => some (.jl (fieldOf w 0 26))
  | 14 => some (.jr (fieldOf w 19 7) (fieldOf w 12 7) (fieldOf w 0 12))
  | 16 => some (.ld (fieldOf w 19 7) (fieldOf w 12 7) (fieldOf w 10 2) (fieldOf w 9 1) (fieldOf w 8 1) (fieldOf w 0 8))
  | 17 => some (.st (fieldOf w 19 7) (fieldOf w 12 7) (fieldOf w 10 2) (fieldOf w 8 1) (fieldOf w 0 8))
  | 18 => decodeFel (fieldOf w 9 3) (fieldOf w 19 7) (fieldOf w 12 7) (fieldOf w 4 5) (fieldOf w 0 4)
  | 19 => decodeFes (fieldOf w 9 3) (fieldOf w 19 7) (fieldOf w 12 7) (fieldOf w 4 5) (fieldOf w 0 4)
  | 20 => decodeAmo (fieldOf w 0 5) (fieldOf w 19 7) (fieldOf w 12 7) (fieldOf w 5 7)
  | 21 => decodeRupd (fieldOf w 0 5) (fieldOf w 19 7) (fieldOf w 12 7) (fieldOf w 5 7)
  | 22 => some (.mig (fieldOf w 19 7) (fieldOf w 4 15))
  | 23 => decodeDlg (fieldOf w 0 5) (fieldOf w 19 7) (fieldOf w 12 7) (fieldOf w 5 7)
  | 24 => decodeTq (fieldOf w 0 5) (fieldOf w 19 7) (fieldOf w 12 7) (fieldOf w 5 7)
  | 25 => decodeJc (fieldOf w 0 5) (fieldOf w 19 7) (fieldOf w 12 7) (fieldOf w 5 7)
  | 26 => decodeWait (fieldOf w 2 5) (fieldOf w 19 7) (fieldOf w 12 7) (fieldOf w 7 5)
  | 27 => decodeThr (fieldOf w 0 5) (fieldOf w 19 7) (fieldOf w 12 7) (fieldOf w 5 7)
  | 28 => decodeSys (fieldOf w 0 5) (fieldOf w 19 7) (fieldOf w 12 7) (fieldOf w 5 7)
  | 29 => decodePfx (fieldOf w 23 3) (fieldOf w 19 4) (fieldOf w 15 4) (fieldOf w 13 2) (fieldOf w 11 2)
  | 32 => decodeFp (fieldOf w 0 5) (fieldOf w 19 7) (fieldOf w 12 7) (fieldOf w 5 7)
  | 34 => decodeTbl (fieldOf w 0 5) (fieldOf w 19 7) (fieldOf w 12 7) (fieldOf w 5 7)
  | 36 => decodeVop (fieldOf w 0 6) (fieldOf w 21 5) (fieldOf w 16 5) (fieldOf w 11 5) (fieldOf w 9 2)
  | 37 => decodeVmem (fieldOf w 13 1) (fieldOf w 21 5) (fieldOf w 14 7) (fieldOf w 12 1) (fieldOf w 10 2) (fieldOf w 0 10)
  | 38 => decodeVsc (fieldOf w 0 6) (fieldOf w 21 5) (fieldOf w 16 5) (fieldOf w 9 7) (fieldOf w 7 2)
  | 48 => decodeEng (fieldOf w 22 4) (fieldOf w 19 3) (fieldOf w 14 5) (fieldOf w 7 7) (fieldOf w 0 7)
  | 49 => if (fieldOf w 19 3).toNat < engineContexts (fieldOf w 22 4) && engineHasReg (fieldOf w 22 4) (fieldOf w 14 5)
      then some (.ewr (fieldOf w 22 4) (fieldOf w 19 3) (fieldOf w 14 5) (fieldOf w 7 7)) else none
  | 50 => if (fieldOf w 19 3).toNat < engineContexts (fieldOf w 22 4) && engineHasReg (fieldOf w 22 4) (fieldOf w 14 5)
      then some (.erd (fieldOf w 22 4) (fieldOf w 19 3) (fieldOf w 14 5) (fieldOf w 7 7)) else none
  | 52 => decodeXp (fieldOf w 0 6) (fieldOf w 23 3) (fieldOf w 20 3) (fieldOf w 13 7) (fieldOf w 6 7)
  | _ => none

/-- The word of an instruction, every unused field zero (R29, R30); events have no word. -/
def encode : Instr → BitVec 32
  | .aluAdd d a b => packR 1 d a b 0
  | .aluSub d a b => packR 1 d a b 1
  | .aluMul d a b => packR 1 d a b 2
  | .aluMulh d a b => packR 1 d a b 3
  | .aluMulhu d a b => packR 1 d a b 4
  | .aluDiv d a b => packR 1 d a b 5
  | .aluDivu d a b => packR 1 d a b 6
  | .aluRem d a b => packR 1 d a b 7
  | .aluRemu d a b => packR 1 d a b 8
  | .aluAnd d a b => packR 1 d a b 9
  | .aluOr d a b => packR 1 d a b 10
  | .aluXor d a b => packR 1 d a b 11
  | .aluAndn d a b => packR 1 d a b 12
  | .aluSll d a b => packR 1 d a b 13
  | .aluSrl d a b => packR 1 d a b 14
  | .aluSra d a b => packR 1 d a b 15
  | .aluRol d a b => packR 1 d a b 16
  | .aluSlt d a b => packR 1 d a b 17
  | .aluSltu d a b => packR 1 d a b 18
  | .aluMin d a b => packR 1 d a b 19
  | .aluMax d a b => packR 1 d a b 20
  | .aluMinu d a b => packR 1 d a b 21
  | .aluMaxu d a b => packR 1 d a b 22
  | .aluClz d a => packR 1 d a 0 23
  | .aluCtz d a => packR 1 d a 0 24
  | .aluPopc d a => packR 1 d a 0 25
  | .addi d a i => packI 2 d a i
  | .andi d a i => packI 3 d a i
  | .ori d a i => packI 4 d a i
  | .xori d a i => packI 5 d a i
  | .shiSlli d a n => packS 6 d a 0 n
  | .shiSrli d a n => packS 6 d a 1 n
  | .shiSrai d a n => packS 6 d a 2 n
  | .shiRoli d a n => packS 6 d a 3 n
  | .lui d i => packU 7 d i
  | .auipc d i => packU 8 d i
  | .csk c s a b => packK 9 c s a b 0
  | .cski c s a i => packKI 10 c s a i
  | .br c a o => packB 11 c a o
  | .j o => packJ 12 o
  | .jl o => packJ 13 o
  | .jr d a i => packI 14 d a i
  | .ld d a w x g i => packM 16 d a w x g i
  | .st b a w g i => packM 17 b a w 0 g i
  | .felWfe d a t o => packF 18 d a 0 t o
  | .felWfs d a t o => packF 18 d a 1 t o
  | .felAny d a o => packF 18 d a 2 31 o
  | .fesWes b a t o => packF 19 b a 0 t o
  | .fesSetf b a o => packF 19 b a 1 31 o
  | .fesSete b a o => packF 19 b a 2 31 o
  | .amoAdd d a b => packR 20 d a b 0
  | .amoAnd d a b => packR 20 d a b 1
  | .amoOr d a b => packR 20 d a b 2
  | .amoXor d a b => packR 20 d a b 3
  | .amoMin d a b => packR 20 d a b 4
  | .amoMax d a b => packR 20 d a b 5
  | .amoMinu d a b => packR 20 d a b 6
  | .amoMaxu d a b => packR 20 d a b 7
  | .amoSwap d a b => packR 20 d a b 8
  | .amoCas d a b => packR 20 d a b 9
  | .amoIncw d a b => packR 20 d a b 10
  | .amoFaddb d a b => packR 20 d a b 11
  | .amoFaddF32 d a b => packR 20 d a b 12
  | .rupdAdd a b => packR 21 0 a b 0
  | .rupdAnd a b => packR 21 0 a b 1
  | .rupdOr a b => packR 21 0 a b 2
  | .rupdXor a b => packR 21 0 a b 3
  | .rupdMin a b => packR 21 0 a b 4
  | .rupdMax a b => packR 21 0 a b 5
  | .rupdMinu a b => packR 21 0 a b 6
  | .rupdMaxu a b => packR 21 0 a b 7
  | .rupdSwap a b => packR 21 0 a b 8
  | .rupdIncw a b => packR 21 0 a b 10
  | .rupdFaddF32 a b => packR 21 0 a b 12
  | .mig a l => packG 22 a l 0
  | .dlgCall d a b => packR 23 d a b 0
  | .dlgPost a b => packR 23 0 a b 1
  | .tqPush d a b => packR 24 d a b 0
  | .tqTake d a b => packR 24 d a b 1
  | .tqSteal d a b => packR 24 d a b 2
  | .tqDone => packR 24 0 0 0 3
  | .tqDepth d a => packR 24 d a 0 4
  | .tqCfg a b => packR 24 0 a b 5
  | .tqSub a b => packR 24 0 a b 6
  | .jcInit a b => packR 25 0 a b 0
  | .jcAdd d a b => packR 25 d a b 1
  | .jcDec d a => packR 25 d a 0 2
  | .waitJz a t => packW 26 0 a t 0 0
  | .waitMbox d a t => packW 26 d a t 1 0
  | .waitSleep d t => packW 26 d 0 t 2 0
  | .waitFe d a t => packW 26 d a t 3 0
  | .waitTl d a t => packW 26 d a t 4 0
  | .waitBuoy d a t => packW 26 d a t 5 0
  | .waitGate t => packW 26 0 0 t 6 0
  | .thrSpawn d a b => packR 27 d a b 0
  | .thrExit => packR 27 0 0 0 1
  | .thrYield => packR 27 0 0 0 2
  | .thrNwr d a => packR 27 d a 0 3
  | .thrStw a b => packR 27 0 a b 4
  | .sysSrd d a => packR 28 d a 0 0
  | .sysSwr d a => packR 28 d a 0 1
  | .sysTrap a => packR 28 0 a 0 2
  | .sysBreak => packR 28 0 0 0 3
  | .sysIfence => packR 28 0 0 0 4
  | .sysFenceDev => packR 28 0 0 0 5
  | .sysFenceDom => packR 28 0 0 0 6
  | .sysFenceSys => packR 28 0 0 0 7
  | .sysCapget d a b => packR 28 d a b 8
  | .sysTres => packR 28 0 0 0 9
  | .sysTkill a => packR 28 0 a 0 10
  | .sysPre d a b => packR 28 d a b 11
  | .sysTlbInv a => packR 28 0 a 0 12
  | .sysTlbAll a => packR 28 0 a 0 13
  | .pfxFmt a d s r => packP 29 0 a d s r 0
  | .pfxRlx => packP 29 1 0 0 0 0 0
  | .fpAdd d a b => packR 32 d a b 0
  | .fpSub d a b => packR 32 d a b 1
  | .fpMul d a b => packR 32 d a b 2
  | .fpDiv d a b => packR 32 d a b 3
  | .fpSqrt d a => packR 32 d a 0 4
  | .fpFma d a b => packR 32 d a b 5
  | .fpMin d a b => packR 32 d a b 6
  | .fpMax d a b => packR 32 d a b 7
  | .fpCvt d a => packR 32 d a 0 8
  | .fpFtoi d a => packR 32 d a 0 9
  | .fpItof d a => packR 32 d a 0 10
  | .tblWr a b => packR 34 0 a b 0
  | .tblRd d a => packR 34 d a 0 1
  | .tblSeal => packR 34 0 0 0 2
  | .tblNansub a => packR 34 0 a 0 3
  | .tblEnc d a => packR 34 d a 0 4
  | .tblDec d a => packR 34 d a 0 5
  | .vopAdd v a b l => packV 36 v a b l 0 0
  | .vopSub v a b l => packV 36 v a b l 0 1
  | .vopMul v a b l => packV 36 v a b l 0 2
  | .vopMin v a b l => packV 36 v a b l 0 3
  | .vopMax v a b l => packV 36 v a b l 0 4
  | .vopMinu v a b l => packV 36 v a b l 0 5
  | .vopMaxu v a b l => packV 36 v a b l 0 6
  | .vopAnd v a b l => packV 36 v a b l 0 7
  | .vopOr v a b l => packV 36 v a b l 0 8
  | .vopXor v a b l => packV 36 v a b l 0 9
  | .vopSll v a b l => packV 36 v a b l 0 10
  | .vopSrl v a b l => packV 36 v a b l 0 11
  | .vopSra v a b l => packV 36 v a b l 0 12
  | .vopAdds v a b l => packV 36 v a b l 0 13
  | .vopSubs v a b l => packV 36 v a b l 0 14
  | .vopCeq v a b l => packV 36 v a b l 0 16
  | .vopClt v a b l => packV 36 v a b l 0 17
  | .vopCltu v a b l => packV 36 v a b l 0 18
  | .vopSel v a b l => packV 36 v a b l 0 20
  | .vopShuf v a b l => packV 36 v a b l 0 21
  | .vopFadd v a b l => packV 36 v a b l 0 32
  | .vopFsub v a b l => packV 36 v a b l 0 33
  | .vopFmul v a b l => packV 36 v a b l 0 34
  | .vopFfma v a b l => packV 36 v a b l 0 35
  | .vopFmin v a b l => packV 36 v a b l 0 36
  | .vopFmax v a b l => packV 36 v a b l 0 37
  | .vopFceq v a b l => packV 36 v a b l 0 38
  | .vopFclt v a b l => packV 36 v a b l 0 39
  | .vopFcle v a b l => packV 36 v a b l 0 40
  | .vopFcvt v a l => packV 36 v a 0 l 0 41
  | .vopWlo v a => packV 36 v a 0 0 0 42
  | .vopWhi v a => packV 36 v a 0 0 0 43
  | .vopNar v a b => packV 36 v a b 2 0 44
  | .vopEnc v a l => packV 36 v a 0 l 0 48
  | .vopDec v a l => packV 36 v a 0 l 0 49
  | .vscBcast v s l => packVS 38 v 0 s l 0 0
  | .vscAdd v a s l => packVS 38 v a s l 0 1
  | .vscSub v a s l => packVS 38 v a s l 0 2
  | .vscMul v a s l => packVS 38 v a s l 0 3
  | .vscFadd v a s l => packVS 38 v a s l 0 4
  | .vscFmul v a s l => packVS 38 v a s l 0 5
  | .vscFfma v a s l => packVS 38 v a s l 0 6
  | .vscRedadd a s l => packVS 38 0 a s l 0 16
  | .vscRedmin a s l => packVS 38 0 a s l 0 17
  | .vscRedmax a s l => packVS 38 0 a s l 0 18
  | .vscRedminu a s l => packVS 38 0 a s l 0 19
  | .vscRedmaxu a s l => packVS 38 0 a s l 0 20
  | .vscFredadd a s l => packVS 38 0 a s l 0 21
  | .vscFredmin a s l => packVS 38 0 a s l 0 22
  | .vscFredmax a s l => packVS 38 0 a s l 0 23
  | .vscMask a s l => packVS 38 0 a s l 0 24
  | .vmemLd v a g n i => packVM 37 v a 0 g n i
  | .vmemSt v a g n i => packVM 37 v a 1 g n i
  | .engClaim e c => packE 48 e c 0 0 0
  | .engRelease e c => packE 48 e c 1 0 0
  | .engClear e c => packE 48 e c 2 0 0
  | .copyXfer c a b => packE 48 0 c 3 a b
  | .copyDist c a b => packE 48 0 c 4 a b
  | .copyBopen c a => packE 48 0 c 5 a 0
  | .copyBclose c => packE 48 0 c 6 0 0
  | .copyCsr c a b => packE 48 0 c 7 a b
  | .streamBind c a b => packE 48 1 c 0 a b
  | .streamUnbind c => packE 48 1 c 1 0 0
  | .streamPort c a b => packE 48 1 c 2 a b
  | .buoySet a b => packE 48 2 0 0 a b
  | .mtxMma c a b => packE 48 4 c 3 a b
  | .mtxMmas c a b => packE 48 4 c 4 a b
  | .mtxAclr c => packE 48 4 c 5 0 0
  | .mtxAcopyIn c a b => packE 48 4 c 6 a b
  | .mtxAcopyOut c a b => packE 48 4 c 7 a b
  | .mtxTset c a b => packE 48 4 c 8 a b
  | .mtxTseal c => packE 48 4 c 9 0 0
  | .gsGather c a b => packE 48 5 c 3 a b
  | .gsScatter c a b => packE 48 5 c 4 a b
  | .bmacOpen => packE 48 6 0 3 0 0
  | .bmacBcast a b => packE 48 6 0 4 a b
  | .bmacMac a b => packE 48 6 0 5 a b
  | .bmacRd a b => packE 48 6 0 6 a b
  | .bmacAclr b => packE 48 6 0 7 0 b
  | .bmacClose => packE 48 6 0 8 0 0
  | .pmigMove c a b => packE 48 7 c 3 a b
  | .pmigCommit c => packE 48 7 c 4 0 0
  | .ewr e c r a => packE 49 e c r a 0
  | .erd e c r a => packE 50 e c r a 0
  | .xpCtrm x a => packX 52 x 0 a 0 0
  | .xpCtrl x a => packX 52 x 0 a 0 1
  | .xpClr x => packX 52 x 0 0 0 2
  | .xpLd x a => packX 52 x 0 a 0 3
  | .xpSt y a => packX 52 0 y a 0 4
  | .xpAdd x y => packX 52 x y 0 0 5
  | .xpForm x a b => packX 52 x 0 a b 6
  | .xpM2m x y => packX 52 x y 0 0 7
  | .xpM2l x y => packX 52 x y 0 0 8
  | .xpL2l x y => packX 52 x y 0 0 9
  | .xpEval y a b => packX 52 0 y a b 10
  | .xpGrad y a b => packX 52 0 y a b 11
  | .xpNear a b => packX 52 0 0 a b 12
  | .xpAdm x y b => packX 52 x y 0 b 13
  | _ => 0

/-- The strict decoder: the instruction of a legal word (R30, R48 rows 1 and 3). -/
def decode (w : BitVec 32) : Option Instr :=
  match decodeRaw w with
  | some i => if encode i = w ∧ wellFormed i = true then some i else none
  | none => none

/-- The four bytes of an instruction word as it is stored, little-endian (R28). -/
def wordBytes (w : BitVec 32) : List Byte :=
  [w.extractLsb' 0 8, w.extractLsb' 8 8, w.extractLsb' 16 8, w.extractLsb' 24 8]

/-- The instruction word that four stored bytes make (R28). -/
def wordOfBytes : List Byte → Option (BitVec 32)
  | [b0, b1, b2, b3] => some (b3 ++ b2 ++ b1 ++ b0)
  | _ => none

/-- What the decoder reads from a word of the opcode table, laid out in bytes as the hardware stores it. -/
def decodeTableWord (_nbits w : Nat) : Option Instr :=
  match wordOfBytes (wordBytes (BitVec.ofNat 32 w)) with
  | some v =>
    match decodeRaw v with
    | some i => if encode i = v then some i else none
    | none => none
  | none => none

end Sys2Proof
end

