-- ==== Sys2Proof/Machine/AMap.lean ====
section
/-!
DEFINITION. Sparse maps from numbers: a list of pairs with rising keys. What an unlisted key reads as is given at
each read, so the reset state lists nothing and equal maps are equal lists.
-/

namespace Sys2Proof.Machine

/-- A map from `Nat`, as its listed pairs. -/
abbrev AMap (α : Type) := List (Nat × α)

/-- The value at `k`, or `d` where `k` is not listed. -/
def AMap.get {α : Type} (d : α) : AMap α → Nat → α
  | [], _ => d
  | (k', v) :: m, k => if k = k' then v else AMap.get d m k

/-- The map with `v` at `k`. -/
def AMap.set {α : Type} : AMap α → Nat → α → AMap α
  | [], k, v => [(k, v)]
  | (k', v') :: m, k, v =>
    if k < k' then (k, v) :: (k', v') :: m
    else if k = k' then (k, v) :: m
    else (k', v') :: AMap.set m k v

/-- Whether `k` is listed. -/
def AMap.has {α : Type} : AMap α → Nat → Bool
  | [], _ => false
  | (k', _) :: m, k => k = k' || AMap.has m k

/-- The map without `k`. -/
def AMap.del {α : Type} : AMap α → Nat → AMap α
  | [], _ => []
  | (k', v) :: m, k => if k = k' then AMap.del m k else (k', v) :: AMap.del m k

/-- A set of numbers in rising order, with `k` put in. -/
def setInsert : List Nat → Nat → List Nat
  | [], k => [k]
  | x :: xs, k => if k < x then k :: x :: xs else if k = x then x :: xs else x :: setInsert xs k

/-- A set of numbers with `k` taken out. -/
def setErase : List Nat → Nat → List Nat
  | [], _ => []
  | x :: xs, k => if k = x then setErase xs k else x :: setErase xs k

/-- The numbers rise strictly, from `b` on: the canonical form of a set. -/
def Ascending : Nat → List Nat → Prop
  | _, [] => True
  | b, x :: xs => b ≤ x ∧ Ascending (x + 1) xs

/-- The keys of a map rise strictly, from `b` on: the canonical form of a map. -/
def AMap.Rising {α : Type} : Nat → AMap α → Prop
  | _, [] => True
  | b, (k, _) :: m => b ≤ k ∧ AMap.Rising (k + 1) m

/-- An entry put into a list of timed entries in order of time; equal times keep their order of arrival. -/
def insertTimed {α : Type} : List (Nat × α) → Nat → α → List (Nat × α)
  | [], k, v => [(k, v)]
  | (k', v') :: m, k, v => if k < k' then (k, v) :: (k', v') :: m else (k', v') :: insertTimed m k v

/-- The first `n` numbers, rising. -/
def upTo (n : Nat) : List Nat := (List.range n)

end Sys2Proof.Machine
end

