-- ==== Sys2Proof/Machine/State.lean ====
section
/-!
DEFINITION. The state of one Skovrum L9 package: everything the spec gives the machine, as plain data
(INVENTORY.md lists each piece with its rule). The many copies of a part (threads, cores, clusters, contexts,
queues) stand in sparse maps; an unlisted copy holds its reset value.

Numbers that name parts:
* a unit is UNIT * 2^18 + DIE * 2^14 + CLUSTER * 2^7 + CORE, the TID fields of R18 without the device;
* a thread's place is unit * 64 + slot;
* a cluster is die * 128 + cluster;
* a home is DEVICE * 2^16 + DIE * 2^12 + HOME, a queue is home * 64 + QN: the handle of R141 shifted right;
* an engine context is ((ENG * 16 + DIE) * 128 + CLUSTER) * 8 + CTX, the selector fields of R223;
* a stream context is unit * 8 + k;
* a memory location is one number, the tag of its store above the place inside it (Ops.lean).
-/

namespace Sys2Proof.Machine

/-- The slot states of R120 that a slot can be in. A SAVED thread has no slot; a buffered one is a message. -/
inductive Status where
  | free | run | park | frozen | migrating
  deriving DecidableEq, Repr

/-- The status register ST (R12), field by field; bits [6:0] are reserved and hold nothing. -/
structure St where
  mode : Bool := false
  ppRlx : Bool := false
  ppFmt : Bool := false
  pfxF : BitVec 23 := 0
  pfxR : BitVec 23 := 0
  wst : BitVec 3 := 0
  /-- NV DZ OF UF NX, bits 4 to 0. -/
  fpf : BitVec 5 := 0
  deriving DecidableEq, Repr

/-- The operation of a memory request at its home (R62, R186, R189, R190). Register fields name destinations. -/
inductive MemOp where
  /-- A load of `n` bytes into `d`, sign-extended if `sx`. -/
  | load (n : Nat) (sx : Bool) (d : BitVec 7)
  /-- A store of the low `n` bytes of `v`. -/
  | store (n : Nat) (v : Word)
  /-- `amo.fn` with operand `v` and, for cas and faddb, `cmp`. -/
  | amo (fn : Nat) (v cmp : Word) (d : BitVec 7)
  /-- `fel` in mode 0 WFE, 1 WFS, 2 ANY. -/
  | fel (mode : Nat) (d : BitVec 7)
  /-- `fes` in mode 0 WES, 1 SETF, 2 SETE. -/
  | fes (mode : Nat) (v : Word)
  /-- `wait.fe` for the bit value `full`. -/
  | feBit (full : Bool)
  /-- A vector load of n + 1 registers from v_v, one part a word (R169, R171). -/
  | vload (v : BitVec 5) (n : Nat)
  /-- A vector store of words, one part a word. -/
  | vstore (ws : List Word)
  /-- A descriptor or QCB that a queue operation reads, one part a word, before it goes on (R154, R155). -/
  | words
  /-- The descriptor of a task that `tq.take` or `tq.steal` has taken, one part a word; then the handle, the sequence
  number and WST go to the thread (R154). -/
  | taken (ws : List Word) (h : Word) (seq : Nat) (d : BitVec 7) (w : BitVec 3)
  /-- A posted store: the bytes under `mask` of a 32-byte block, one part a word touched (R182). -/
  | post (data : List Byte) (mask : BitVec 32)
  deriving DecidableEq, Repr

/-- What a home answers a request: the value, WST if the operation writes it, the flags it raised, poison. -/
structure Reply where
  val : Word := 0
  wst : Option (BitVec 3) := none
  flags : BitVec 5 := 0
  poison : Bool := false
  deriving DecidableEq, Repr

/-- A memory request that has left its thread (R180, R181, R182, R187). -/
structure Req where
  thread : Nat := 0
  /-- The number of the thread that stays with it. -/
  uid : Nat := 0
  va : Word := 0
  /-- The ROOTPT it was translated under, and the level of the leaf of each part, 0 of a window address (R308). -/
  root : Word := 0
  levels : List Nat := []
  op : MemOp := .store 0 0
  /-- The location of each part: a word of a vector or posted access, else the access itself. -/
  parts : List Nat := []
  /-- The answers of the parts that have been performed. -/
  got : AMap Reply := []
  /-- Ordinary requests park the thread; RLX loads do not. -/
  rlx : Bool := false
  /-- The journal entry of a posted store: unit and index. -/
  posted : Option (Nat × Nat) := none
  /-- Deadline of a request that waits at its home, in units of 1/8 ns (R187). -/
  deadline : Option Nat := none
  /-- The parts that have reached their home and wait there, with the numbers of their arrivals (R228, R282, R347). -/
  arrived : AMap Nat := []
  deriving DecidableEq, Repr

/-- What a parked instruction awaits (R120). -/
inductive Await where
  /-- The reply to a request (R23). -/
  | reply (ticket : Nat)
  /-- A bank reservation or all-bank mode at the home of a location (R228, R282). -/
  | home (loc : Nat)
  /-- A page in transit (R347). -/
  | transit (loc : Nat)
  /-- Pending registers of RLX loads (R181). -/
  | regs (rs : List Nat)
  /-- Fewer than 4 outstanding RLX loads (R181). -/
  | rlxRoom
  /-- An earlier request of the thread to the same word (R183). -/
  | sameWord (word : Nat)
  /-- Stores that entered an egress queue earlier (R205): the queue's destination. -/
  | egress (dest : Nat)
  /-- A pending register behind a slot-window access (R296). -/
  | window (loc : Nat)
  /-- Free journal entries (R182). -/
  | journalRoom (n : Nat)
  /-- A drain of posted entries at a scope, 0 dev, 1 dom, 2 sys; with the RLX loads if `loads` (R70, R182). -/
  | drain (scope : Nat) (loads : Bool)
  /-- A mailbox to fill (R34), or the neighbour's mailbox to empty (R135). -/
  | mbox (k : Nat)
  | mboxRoom (unit k : Nat)
  /-- Elements in or room in a stream FIFO, in bytes (R34, R232). -/
  | streamIn (k bytes : Nat)
  | streamOut (k bytes : Nat)
  /-- The shared divider (R52, R85), a running seal (R89), the end of the own seal (R94), the expansion unit (R263). -/
  | divider
  | seal
  | sealOwn (ticket : Nat)
  | xp
  /-- The reply to a matrix request to a context (R240). -/
  | matrix (ctx : Nat)
  /-- Room in a command queue (R220), an idle context (R219), a context with only parked commands (R219). -/
  | cmdRoom (ctx : Nat)
  | ctxIdle (ctx : Nat)
  | ctxQuiet (ctx : Nat)
  /-- A stream being drained by unbind (R231). -/
  | streamDrain (k : Nat)
  /-- The delegation queue of a home, and a delegated call's reply (R194). -/
  | dlgRoom (unit : Nat)
  | dlgReply (ticket : Nat)
  /-- The `wait` kinds (R158, R189, R223, R236). -/
  | joinZero (loc : Nat)
  | anyMbox (mask : Nat)
  | sleep (time : Nat)
  | timeline (ctx n : Nat)
  | buoy (loc g : Nat)
  | gateToken
  /-- The gate before a far body's first instruction (R149). -/
  | gateFirst
  /-- The end of all-bank mode, for a fetch of a skerry from its own channel (R285). -/
  | fetch (loc : Nat)
  /-- The posted entries of another thread, for `sys.tkill` and `sys.pre` (R301, R317). -/
  | otherPosted (thread : Nat)
  /-- Requests translated with dropped entries, to be performed (R308). -/
  | performed (tickets : List Nat)
  /-- A place for a context message at its destination (R199). -/
  | migration (ticket : Nat)
  /-- The other twin's message with the same number (R327). -/
  | pair
  deriving DecidableEq, Repr

/-- The states of a code table (R86). -/
inductive SealState where
  | unsealed | sealing | sealed
  deriving DecidableEq, Repr

/-- A code table (R86): the core's, or a matrix unit's (R256). -/
structure CodeTable where
  ent : AMap (BitVec 19) := []
  width : Nat := 0
  state : SealState := .unsealed
  nansub : Nat := 0
  nanv : Bool := false
  nanlo : Nat := 0
  gen : Nat := 0
  /-- The sorted order: pattern and code (R92). -/
  ord : List (BitVec 19 × Nat) := []
  /-- The entries and width as a running seal found them, and whether a change committed since (R89). -/
  snapEnt : AMap (BitVec 19) := []
  snapWidth : Nat := 0
  changed : Bool := false
  deriving DecidableEq, Repr

/-- A parked instruction: what it is, what it awaits and since when (R120, R299). -/
structure Park where
  instr : Instr
  await : Await
  /-- Elapsed count at the start, the instruction's own timeout (R31), the region's wait limit (R299). -/
  since : Nat := 0
  timeout : Option Nat := none
  limit : Option Nat := none
  /-- WAITLIM as read when the limit started, in ns (R297, R299). -/
  limNs : Nat := 0
  /-- Order of arrival among parked instructions. -/
  ticket : Nat := 0
  /-- The core-shared registers it names, as committed at its issue cycle (R34), and the operands sent with a request
  (R240). -/
  cs : AMap Word := []
  args : List Word := []
  /-- The code table of its core at its issue, for an instruction that reads one (R88). -/
  tab : Option CodeTable := none
  /-- Since when the limit runs while WAITLIM is still to be read, its RCB's home being closed (R140, R228, R299). -/
  due : Option Nat := none
  /-- The cycle of its resumption, once it is taken up again (R89). -/
  woken : Option Nat := none
  /-- Its number among the accesses that have arrived at the closed home it awaits (R228). -/
  came : Nat := 0
  /-- What it read of its unit's state at its issue: the register that `sys.srd` names, or XO (R65, R260); of a `wait.jz` at
  its home the level of its leaf (R308). -/
  kept : Word := 0
  /-- When it came past its operands, and the numbers of the bytes of each stream that it has read, in the order of its fields
  (log 53). -/
  read : Option Nat := none
  els : AMap (List Nat) := []
  deriving DecidableEq, Repr

/-- A trap record, eight doublewords (R297). -/
structure TrapRec where
  flags : BitVec 8 := 0
  cause : Nat := 0
  tid : Word := 0
  pc : Word := 0
  word : BitVec 32 := 0
  info : Nat := 0
  addr : Word := 0
  time : Word := 0
  rcb : Word := 0
  data : Word := 0
  st : Word := 0
  deriving DecidableEq, Repr

/-- An asynchronous cause held by a thread until it is taken (R291). -/
structure Held where
  cause : Nat
  info : Nat
  addr : Word
  data : Word
  /-- For POSTREF, the journal entry that stays occupied: unit and index; none once discarded (R182). -/
  entry : Option (Nat × Nat) := none
  jlost : Bool := false
  deriving DecidableEq, Repr

/-- A cause for the issuer of a command: the thread's number, its region, and the record made where no thread holds it
(R222, R319). -/
structure Report where
  uid : Nat
  root : Word
  rcb : Word
  held : Held
  record : TrapRec
  deriving DecidableEq, Repr

/-- One thread slot and the thread in it (R9-R12, R16, R118-R120). -/
structure Thread where
  status : Status := .free
  pc : Word := 0
  st : St := {}
  base : Nat := 0
  lim : Nat := 0
  regs : AMap Word := []
  rnd : BitVec 2 := 0
  live : BitVec 15 := 0x7FFF
  rcb : Word := 0
  root : Word := 0
  task : Word := 0
  seq : Word := 0
  /-- Registers an RLX load has still to write, with its request (R181). -/
  pending : List (Nat × Nat) := []
  /-- Poisoned registers, with the load's address (R178). -/
  poisoned : List (Nat × Word) := []
  held : List Held := []
  park : Option Park := none
  yielding : Bool := false
  lastIssue : Option Nat := none
  /-- Reserved by a steal agent, though FREE (R150). -/
  reserved : Bool := false
  /-- The record of a FROZEN thread and the journal entry it names (R296, R297). -/
  record : TrapRec := {}
  recEntry : Option (Nat × Nat) := none
  /-- A handler slot's handled thread, or the engine command of a page request: context and number (R295, R310). -/
  handles : Option Nat := none
  pageReq : Option (Nat × Nat) := none
  /-- The other twin's place and whether this is the secondary (R326). -/
  twin : Option (Nat × Bool) := none
  /-- Messages the twin has sent, and whether the present one has matched (R327). -/
  msgNo : Nat := 0
  matched : Bool := false
  /-- A number that stays with the thread through migration and save areas (R222). -/
  uid : Nat := 0
  /-- The call served by a delegation server slot: its sender's ticket (R194). -/
  call : Option Nat := none
  /-- Whether the instruction at PC was withdrawn once for a residue mismatch (R321). -/
  retried : Bool := false
  /-- The thread refused a migration or stands MIGRATING with this message (R199). -/
  msg : Option Nat := none
  /-- Words its core holds fetched ahead for it, key location (R68, R69). -/
  ahead : AMap (BitVec 32) := []
  /-- The location of a fetch that has waited at its home and whose word has come (R285). -/
  landed : Option Nat := none
  /-- The thread whose `sys.pre` holds it out of rotation (R317). -/
  stopped : Option Nat := none
  /-- A twin to be frozen once the instruction it waits for completes (R327, R367). -/
  freezing : Bool := false
  /-- The first rotation in which its slot's entries are its own (R119). -/
  entries : Nat := 0
  deriving DecidableEq, Repr

/-- An entry of the slot table (R121). -/
structure SlotEntry where
  pin : Bool := false
  valid : Bool := false
  slot : Nat := 0
  deriving DecidableEq, Repr

/-- A change that commits 12 cycles after its issue (R34, R88, R260). -/
inductive Commit where
  | shared (k : Nat) (v : Word)
  | entry (k : Nat) (v : BitVec 19)
  | nansub (v : Nat)
  | width (v : Nat)
  | startSeal (ticket : Nat)
  | xo (v : Word)
  deriving DecidableEq, Repr

/-- An expansion register (R259). -/
structure XReg where
  localKind : Bool := false
  p : Nat := 0
  cx : BitVec 32 := 0
  cy : BitVec 32 := 0
  cz : BitVec 32 := 0
  rad : BitVec 32 := 0
  c : AMap (BitVec 32) := []
  deriving DecidableEq, Repr

/-- A journal entry (R182). -/
structure JEntry where
  va : Word := 0
  loc : Nat := 0
  data : List Byte := []
  mask : BitVec 32 := 0
  pc : Word := 0
  /-- The posting thread: its number and its place at the posting. -/
  uid : Nat := 0
  thread : Nat := 0
  rcb : Word := 0
  /-- `rupd` function, and whether the entry is a `dlg.post` (R193, R194). -/
  rupd : Option Nat := none
  dlg : Bool := false
  /-- Performed at its home; accepted by the Sound die (R205); refused with a reason (R182, R297). -/
  performed : Bool := false
  accepted : Bool := false
  refused : Option Nat := none
  deriving DecidableEq, Repr

/-- A request to the shared divider (R52, R85): the thread, its result and flags. -/
structure DivReq where
  thread : Nat
  d : BitVec 7
  result : Word
  flags : BitVec 5
  deriving DecidableEq, Repr

/-- A request to the expansion unit (R263): the thread, its instruction, the XO and operands it read at issue; the words
it has read or written in its service so far; whether it was retried for a residue mismatch (R321). -/
structure XpReq where
  thread : Nat
  instr : Instr
  xo : Word
  a : Word
  b : Word
  got : AMap Word := []
  retried : Bool := false
  /-- The number and location under which it arrived at a closed home (R228). -/
  arrived : Option (Nat × Nat) := none
  /-- A twin's request whose memory requests have been matched with the other twin's (R327). -/
  opened : Bool := false
  deriving DecidableEq, Repr

/-- A delegated call in a server's queue (R194). -/
structure DlgCall where
  ticket : Nat
  arg : Word
  entry : Word
  s5 : Word
  s6 : Word
  s7 : Word
  s8 : Word
  rcb : Word
  root : Word
  mode : Bool
  /-- The caller's place for `dlg.call`; the journal entry for `dlg.post`. -/
  caller : Option Nat
  entryOf : Option (Nat × Nat)
  d : BitVec 7 := 0
  deriving DecidableEq, Repr

/-- A page request or trap record on its way to a handler slot (R292, R293, R310). -/
structure Delivery where
  record : TrapRec
  /-- The frozen thread, or the parked engine command. -/
  frozen : Option Nat
  command : Option (Nat × Nat) := none
  rcb : Word := 0
  root : Word := 0
  handler : Word := 0
  /-- Before which moment it is not offered again, in units of 1/8 ns (R293). -/
  due : Nat := 0
  deriving DecidableEq, Repr

/-- A saved thread: the leaf, level and address of its record and the location of its META (R315, R316). One of
`cached` stands in its unit's context cache, which holds 32; of another the list only says whose record it is. -/
structure Saved where
  loc : Nat
  va : Word
  leaf : Word
  level : Nat
  thread : Thread
  cached : Bool := true
  deriving DecidableEq, Repr

/-- An area of a spill table: base, length, ROOTPT, and the regions spilled into it (R200). -/
structure SpillArea where
  base : Word
  len : Word
  root : Word
  rcbs : List Word := []
  deriving DecidableEq, Repr

/-- A Cape core or a skerry (R117, R130): what its slots share. -/
structure Core where
  cycle : Nat := 0
  /-- Rotation boundaries at which the arbiter has rebuilt the table (R124). -/
  rebuilt : Nat := 0
  slotTab : AMap SlotEntry := []
  /-- `thr.stw` writes of the rotation, with the numbers that order them by their issue; one without PIN is a release (R124,
  R136). -/
  stw : List (Nat × Nat × SlotEntry) := []
  /-- The regions' weights as last read, key root * 2^64 + RCB (R124). -/
  weights : AMap Nat := []
  tabIndex : Nat := 0
  /-- The core-shared registers, and the cycle in which the write that each holds was due (R34). -/
  c : AMap Word := []
  cAt : AMap Nat := []
  commits : List (Nat × Commit) := []
  mbox : AMap (Option Word) := []
  div : List DivReq := []
  table : CodeTable := {}
  xo : Word := 0
  x : AMap XReg := []
  xpq : List XpReq := []
  journal : AMap JEntry := []
  /-- PAIRT once written; none is the reset entry of R294. -/
  pairt : Option Word := none
  deliveries : List Delivery := []
  /-- Records that wait until HANDLER of their region can be read, oldest first (R140, R228, R292). -/
  unsent : List Delivery := []
  /-- Records a full queue refused, kept to be sent again, with the buddy they go to (R293). -/
  resends : List (Nat × Delivery) := []
  inbound : List Nat := []
  spill : List SpillArea := []
  /-- Forwarding entries: request and the thread's present place (R201). -/
  forward : List (Nat × Nat) := []
  /-- Saved threads, newest first (R316). -/
  cache : List Saved := []
  target : AMap Word := []
  cap : AMap Word := []
  dlgq : List DlgCall := []
  serving : Option DlgCall := none
  /-- The bank MAC's bank vector registers, accumulators and mode (R278). -/
  bvr : AMap (BitVec 16) := []
  acc : AMap (BitVec 32) := []
  bankOn : Bool := false
  deriving DecidableEq, Repr

/-- The states of an engine command (R222); a suspended one is a matrix command that waits for its operand (R245). -/
inductive CmdState where
  | queued | running | parked | suspended | faulted | done
  deriving DecidableEq, Repr

/-- An accepted engine command (R220). -/
structure Cmd where
  n : Nat
  opn : Nat
  a : Word
  b : Word
  /-- Registers 8 and up as captured at acceptance, and the prefix's formats and scale. -/
  regs : AMap Word
  fmtAB : Nat := 3
  fmtD : Nat := 0
  scale : Nat := 0
  state : CmdState := .queued
  /-- Work done so far: byte indices, elements, K steps; and the writes performed before their turn, by address and
  length (R208, R226). -/
  progress : Nat := 0
  early : List (Nat × Nat) := []
  /-- Bytes read before their turn, by the name of each read, and table indices read for elements under way
  (R208, R237). -/
  got : AMap Byte := []
  index : AMap Word := []
  /-- Whether it has started, and whether its present step was retried for a residue mismatch (R246, R321). -/
  started : Bool := false
  retried : Bool := false
  /-- The number and location under which an access of it arrived at a closed home (R228). -/
  arrived : Option (Nat × Nat) := none
  rcb : Word := 0
  root : Word := 0
  super : Bool := false
  uid : Nat := 0
  /-- The issuing thread's place at acceptance and the address of the word. -/
  thread : Nat := 0
  pc : Word := 0
  deriving DecidableEq, Repr

/-- A command context (R218) of any engine. -/
structure Ctx where
  own : Word := 0
  issued : Nat := 0
  tl : Nat := 0
  fcmd : Nat := 0
  fault : Bool := false
  regs : AMap Word := []
  cmds : List Cmd := []
  /-- The tile locked by a suspended command, and since when the array has waited for an operand (R245). -/
  lock : Option Nat := none
  stall : Option Nat := none
  /-- Operand bytes taken from stream ports for the present K step, the metadata entry popped for it, and the flags
  of the steps so far (R247, R250, R252). -/
  portA : List Byte := []
  portB : List Byte := []
  entry : Option (List Nat) := none
  flags : BitVec 5 := 0
  /-- The metadata queue of a matrix context: count and indices (R251), and the copy command filling it. -/
  mq : List (List Nat) := []
  mqOwner : Option (Nat × Nat) := none
  /-- The bank a copy context holds: location of its first word's bank, and the address given (R228). -/
  bank : Option (Nat × Word) := none
  /-- The frame a page-migration context holds in transit, as the leaf that names it, and the page (R346). -/
  held : Option Word := none
  moved : Word := 0
  moveOut : Nat := 0
  deriving DecidableEq, Repr

/-- A stream context (R230, R231). -/
structure Stream where
  scnt : Word := 0
  sstr0 : Word := 0
  sstr12 : Word := 0
  sfmt : Word := 0
  bound : Bool := false
  port : Bool := false
  write : Bool := false
  base : Word := 0
  /-- Geometry and format as they stood at the binding. -/
  cnt : Word := 0
  str0 : Word := 0
  str12 : Word := 0
  fmt : Word := 0
  region : Word := 0
  fill : Nat := 0
  cmd : Nat := 0
  /-- Elements moved between memory and FIFO, elements popped or pushed, bytes in the FIFO. -/
  moved : Nat := 0
  used : Nat := 0
  fifo : List Byte := []
  /-- The number of the FIFO's first byte, and the bytes popped that stand behind bytes which an earlier instruction has read
  and not popped yet (log 53). -/
  front : Nat := 0
  gone : List Nat := []
  deriving DecidableEq, Repr

/-- What a home keeps of a task (R142, R144, R146). -/
structure TaskRec where
  seq : Nat
  abase : Word
  alen : Nat
  flags : BitVec 8
  prio : BitVec 8
  join : Word
  near : Word
  far : Word
  args : List Word
  /-- The descriptor as it was pushed, eight doublewords. -/
  desc : List Word
  /-- Elapsed ns when it became head, or at its push if that is later (R148). -/
  since : Nat := 0
  /-- A stolen task whose gate token has not arrived (R147, R158). -/
  gated : Bool := false
  deriving DecidableEq, Repr

/-- A task queue at a home (R143-R150). -/
structure Queue where
  configured : Bool := false
  rcb : Word := 0
  ring : Word := 0
  root : Word := 0
  pri : Nat := 0
  free : Bool := false
  th : Nat := 0
  rsize : Nat := 0
  weight : Nat := 0
  age : Nat := 0
  next : Nat := 1
  queued : List TaskRec := []
  running : List TaskRec := []
  credit : Int := 0
  subs : List Nat := []
  alerts : List Nat := []
  quarantined : Bool := false
  deriving DecidableEq, Repr

/-- A home: the controller of one DRAM channel, or of a Cape core's local store (R145, R187). -/
structure Home where
  /-- Requests waiting for a full/empty bit, oldest first (R187). -/
  waiters : List Nat := []
  /-- Reserved banks with the context that holds them (R228). -/
  banks : List (Nat × Nat) := []
  /-- TIME of the last notification per region, key root * 2^64 + RCB, in ns, and the deferred ones (R151). -/
  notified : AMap Int := []
  deferred : List Nat := []
  deriving DecidableEq, Repr

/-- A cluster: its matrix unit, steal agent and instruction cache. -/
structure Cluster where
  /-- Tile elements, key tile * 4096 + i * 64 + j (R239). -/
  tiles : AMap (BitVec 32) := []
  table : CodeTable := {}
  failed : Bool := false
  lastServed : Nat := 3
  /-- The command the array runs: context. -/
  current : Option Nat := none
  /-- Stream port k bound by a core (R231). -/
  ports : AMap Nat := []
  /-- Cached instruction words, key location (R69). -/
  icache : AMap (BitVec 32) := []
  deriving DecidableEq, Repr

/-- A buffered translation: root, page number, level and leaf (R306). -/
structure TlbEntry where
  root : Word
  page : Nat
  level : Nat
  leaf : Word
  deriving DecidableEq, Repr

/-- A steal under way, or a context message (R150, R198). -/
structure Message where
  thread : Thread
  source : Nat
  dest : Nat
  /-- Registers are restricted to the live mask unless a return trap (R276). -/
  whole : Bool := false
  buffered : Bool := false
  arrived : Nat := 0
  deriving DecidableEq, Repr

/-- A steal on its way to a queue and back (R145, R150). -/
structure Steal where
  queue : Nat
  cluster : Nat
  /-- The reserved slot, and the reserved slot of the secondary twin (R326). -/
  place : Nat
  second : Option Nat := none
  /-- Whether it asks for NMX tasks only, and its number once it has arrived at a closed home (R145, R150). -/
  nmx : Bool := false
  arrived : Option (Nat × Nat) := none
  deriving DecidableEq, Repr

/-- The messages of twins waiting for their pair (R327). -/
structure PairMsg where
  primary : Nat
  secondary : Nat
  hashP : Option (BitVec 64) := none
  hashS : Option (BitVec 64) := none
  /-- The primary's FPF before the matched instruction. -/
  fpf : BitVec 5 := 0
  /-- The number of this exchange, which its timer names. -/
  ticket : Nat := 0
  deriving DecidableEq, Repr

/-- The Beacon states (R337). -/
inductive Beacon where
  | free | locked | holdover
  deriving DecidableEq, Repr

/-- A launch under way: the tasks still to push, the threads still to fill, since when a fill waits, and what has been read
of the descriptor of the next task, by offset (R152, R207, R344). -/
structure Launch where
  rcb : Word
  root : Word
  tasks : List (Word × Word) := []
  threads : List (List Word)
  since : Nat
  words : AMap Word := []
  deriving DecidableEq, Repr

/-- A clock's TIME minus the elapsed nanoseconds: what it was at a moment, and what is still to be slewed from then on
(R337). -/
structure Clock where
  base : Int := 0
  since : Nat := 0
  rest : Int := 0
  deriving DecidableEq, Repr

/-- The package master and the Sound die: LD 12 registers and what stands behind them (R337-R359). -/
structure Pkg where
  beacon : Beacon := .free
  bctlEn : Bool := false
  domain : BitVec 7 := 0
  asym : Nat := 0
  /-- The clocks of the package master and of each die; an unlisted die agrees with the master (R337). -/
  master : Clock := {}
  dies : AMap Clock := []
  /-- Before when TERR stays all ones after a step of TIME, in ns (R338). -/
  freeUntil : Nat := 0
  holdSince : Nat := 0
  /-- The offset that HOLDOVER left unremoved, in ns (R337). -/
  residue : Nat := 0
  lrec : Word := 0
  launchQ : List Word := []
  submitted : Nat := 0
  doneCount : Nat := 0
  lerr : Nat := 0
  launching : Option Launch := none
  /-- What has been read of the launch record at the head of the queue, by offset (R207, R344). -/
  launchGot : AMap Word := []
  contQ : List Word := []
  cstatErr : Nat := 0
  contained : List Word := []
  device : Nat := 0
  fabLock : Bool := false
  linkst : BitVec 16 := 0
  missed : AMap Nat := []
  /-- Ports whose next heartbeat of the other side will not come, and ports whose link is being retrained (R8, R349). -/
  silent : List Nat := []
  retrain : BitVec 16 := 0
  /-- Which devices each fabric port leads to (R348). -/
  routes : List (Nat × Nat) := []
  /-- PWRCTL as written (R352). -/
  pwr : Word := 0x11F8003200320000
  /-- What the package's work draws, and what the queued filler tasks would draw, in W (R353). -/
  demand : Nat := 0
  fillerDraw : Nat := 0
  /-- The filler tasks that the power controller has drawn and that were running at its last sample: queue, SEQ (R353). -/
  fillers : List (Nat × Nat) := []
  /-- The last sample of package power in tenths of a watt (R353). -/
  power : Nat := 0
  throttle : Bool := false
  filler : Bool := false
  ballast : Bool := false
  samples : List Nat := []
  /-- What the ballast took of each sample of the last ten (R353, R355). -/
  ballasts : List Nat := []
  statOr : BitVec 3 := 0
  corrected : Nat := 0
  tlBase : Word := 0
  tlCtl : Word := 0
  tlTail : Word := 0
  tlHead : Nat := 0
  /-- Telemetry records that wait behind the host queue: TIME, TYPE with the first power field, the other with PSTAT (R205,
  R354). -/
  tlWaiting : List (List Word) := []
  tlDrop : Nat := 0
  anonce : AMap Word := []
  adest : Word := 0
  astat : Nat := 0
  fuse : Nat := 0
  leaf : Nat := 0
  bootImage : Nat := 0
  bootState : Nat := 0
  /-- How many firmware images have verified, and their bytes (R356). -/
  verified : Nat := 0
  images : AMap (List Nat) := []
  /-- How often the engine key has been drawn (R241, R358). -/
  keyEpoch : Nat := 0
  /-- Records that wait for their fault-domain ring: root, RCB, record (R298, R347). -/
  faults : List (Word × Word × TrapRec) := []
  /-- Causes for saved threads whose records wait for the home of the thread's save record (R228, R319, R347). -/
  reports : List Report := []
  /-- Energy charged to root regions in microjoules; and the modelled event energies of the present window, key die * 2^128
  + root region, in hundredths of a picojoule (R3, R355). -/
  energy : AMap Nat := []
  work : AMap Nat := []
  /-- The ROOTPTs under which a launch or a containment has found an RCB (R350). -/
  roots : List Word := []
  caplist : Word := 0
  /-- The Sound die's ordered egress queues: the requests of accepted posted stores, oldest first (R205). -/
  egress : List Nat := []
  /-- Host words whose requests the host aborts (R342). -/
  hostAbort : List Nat := []
  /-- Reads the host has been answered: register offset or address, and value. -/
  hostData : Word := 0
  hostPoison : Bool := false
  deriving DecidableEq, Repr

/-- A choice of what the machine does next: deliver a message in flight, let the outside act, or let a unit have
a cycle. -/
inductive Choice where
  | deliver (k : Nat)
  | outside (e : Instr) (args : List Nat)
  | cycle (unit : Nat)
  /-- A residue check fails: of the instruction issuing next on a unit; of the one a thread has in the shared divider; of
  the request in service at an expansion unit; of the present step of a matrix or bank MAC command. `n` gives lane and
  residues (R320-R322). -/
  | mismatch (unit n : Nat)
  | divMismatch (thread n : Nat)
  | xpMismatch (unit n : Nat)
  | stepMismatch (ctx n : Nat)
  /-- The next heartbeat of the other side of a port does not come; a port's link begins or ends its retraining; what the
  package's work and its queued filler draw in W, and errors corrected (R8, R177, R349, R353). -/
  | silence (port : Nat)
  | retrain (port : Nat)
  | load (demand filler errors : Nat)
  /-- A unit fetches ahead, for a thread, the word at an address (R68). -/
  | prefetch (thread va : Nat)
  /-- The cycle count of a die gains on its nominal clock (R19, R334). -/
  | drift (die : Nat) (cycles : Int)
  /-- An engine command performs the write of a byte index, or a read by its name, before its turn (R208). -/
  | piece (ctx n index : Nat)
  | pieceRead (ctx n name : Nat)
  deriving DecidableEq, Repr

/-- The whole machine. -/
structure State where
  threads : AMap Thread
  units : AMap Core
  clusters : AMap Cluster
  ctxs : AMap Ctx
  streams : AMap Stream
  queues : AMap Queue
  homes : AMap Home
  tlbs : AMap (List TlbEntry)
  pkg : Pkg
  /-- Memory bytes that are not zero, by rising location (R175, R177). -/
  mem : List Host.Cell
  /-- Words whose full/empty bit is empty, and poisoned words, by rising number (R175, R177, R178). -/
  empties : List Nat
  poison : List Nat
  /-- Messages in flight. -/
  reqs : AMap Req
  msgs : AMap Message
  steals : AMap Steal
  pairs : AMap PairMsg
  /-- Events to come, oldest first, and timed ones, earliest first. -/
  agenda : List (Instr × List Nat)
  timers : List (Nat × Instr × List Nat)
  plan : List Choice
  /-- The arguments of the event at hand. -/
  ev : List Nat
  /-- The thread a word instruction acts for, and a woken one that completes next. -/
  focus : Nat
  resume : Option Nat
  /-- Whether ordinary requests travel as separate messages rather than within their instruction's step. -/
  split : Bool
  /-- Elapsed time in units of 1/8 ns (R337). -/
  now : Nat
  /-- How far the cycle count of each die's units stands from its nominal clock's, and what it has reached (R2, R19,
  R334). -/
  skew : AMap (Int × Nat)
  /-- The next ticket, and the counter of free values. -/
  fresh : Nat
  free : Nat
  deriving DecidableEq, Repr

/-- Why a run stops. -/
inductive Fault where
  /-- HOST_MEM_READ and HOST_MEM_WRITE raise it for an address no CXL.mem range of R340 holds. Safe: the spec gives
  no such address, and nothing is claimed of an access to it. -/
  | noSuchAddress
  deriving DecidableEq, Repr

/-- Why an instruction has no meaning here. -/
inductive Refusal where
  /-- Raised by an arm of `exec` that has no meaning yet. Safe: nothing is claimed of that instruction. -/
  | notModelled (mnemonic : String)
  deriving DecidableEq, Repr

/-- The machine right after reset (R356, R358): every map empty, so every part holds its reset value. The power controller
and the energy counters begin their windows (R353, R355). -/
def State.reset : State where
  threads := []
  units := []
  clusters := []
  ctxs := []
  streams := []
  queues := []
  homes := []
  tlbs := []
  pkg := {}
  mem := []
  empties := []
  poison := []
  reqs := []
  msgs := []
  steals := []
  pairs := []
  agenda := []
  timers := [(800000, .powerSample, []), (8000000, .energyUpdate, [])]
  plan := []
  ev := []
  focus := 0
  resume := none
  split := false
  now := 0
  skew := []
  fresh := 1
  free := 0

end Sys2Proof.Machine
end

