-- ==== Sys2Proof/Machine/Flags.lean ====
section
/-!
DEFINITION. Number formats, rounding, flags and the code-table functions (R72-R95), shared by the scalar unit, the
lanes, the matrix unit, the expansion unit and the bank MAC. A pattern is a `Nat` below 2^width; a value is exact.
-/

namespace Sys2Proof.Machine

/-- The floating-point formats (R72). -/
inductive Fmt where
  | fp32 | fp16 | bf16 | e8m10
  deriving DecidableEq, Repr

/-- Fraction bits. -/
def Fmt.frac : Fmt → Nat
  | .fp32 => 23 | .fp16 => 10 | .bf16 => 7 | .e8m10 => 10

/-- Exponent bits. -/
def Fmt.expo : Fmt → Nat
  | .fp16 => 5 | _ => 8

/-- Exponent bias. -/
def Fmt.bias : Fmt → Nat
  | .fp16 => 15 | _ => 127

/-- Width in bits. -/
def Fmt.width (f : Fmt) : Nat := 1 + f.expo + f.frac

/-- The pattern of +∞: exponent all ones, fraction zero. -/
def Fmt.infPat (f : Fmt) : Nat := (2 ^ f.expo - 1) * 2 ^ f.frac

/-- The sign bit as a number. -/
def Fmt.signPat (f : Fmt) (neg : Bool) : Nat := if neg then 2 ^ (f.expo + f.frac) else 0

/-- The canonical NaN of a format (R72, R74). -/
def Fmt.nanPat (f : Fmt) : Nat := f.infPat + 2 ^ (f.frac - 1)

/-- An exact value: a NaN (signalling or quiet), an infinity, or ± m * 2^e. -/
inductive FVal where
  | nan (signalling : Bool)
  | inf (neg : Bool)
  | fin (neg : Bool) (m : Nat) (e : Int)
  deriving DecidableEq, Repr

/-- The flags NV DZ OF UF NX as the five bits [11:7] of ST (R12). -/
abbrev Flags := BitVec 5

def flagNV : Flags := 16
def flagDZ : Flags := 8
def flagOF : Flags := 4
def flagUF : Flags := 2
def flagNX : Flags := 1

/-- The rounding modes of RND (R16). -/
inductive Mode where
  | rne | rtz | rup | rdn
  deriving DecidableEq, Repr

def modeOfNat : Nat → Mode
  | 0 => .rne | 1 => .rtz | 2 => .rup | _ => .rdn

/-- The exact value of a pattern (R72). -/
def Fmt.value (f : Fmt) (p : Nat) : FVal :=
  let neg := p.testBit (f.expo + f.frac)
  let ex := p / 2 ^ f.frac % 2 ^ f.expo
  let fr := p % 2 ^ f.frac
  if ex = 2 ^ f.expo - 1 then
    if fr = 0 then .inf neg else .nan (!fr.testBit (f.frac - 1))
  else if ex = 0 then .fin neg fr (1 - (f.bias : Int) - f.frac)
  else .fin neg (2 ^ f.frac + fr) ((ex : Int) - f.bias - f.frac)

/-- Whether a magnitude is rounded away from zero (R75). -/
def roundsUp (mode : Mode) (neg : Bool) (odd : Bool) (rem half : Nat) (sticky : Bool) : Bool :=
  let inexact := rem ≠ 0 || sticky
  match mode with
  | .rne => half < rem || (rem = half && half ≠ 0 && (sticky || odd))
  | .rtz => false
  | .rup => inexact && !neg
  | .rdn => inexact && neg

/-- `m * 2^e` (and a little more, if `sticky`) to a multiple of `2^q`: the multiple and whether it is inexact. -/
def roundAt (mode : Mode) (neg : Bool) (m : Nat) (e : Int) (sticky : Bool) (q : Int) : Nat × Bool :=
  let k := q - e
  if k ≤ 0 then
    let up := roundsUp mode neg false 0 0 sticky
    (m * 2 ^ (-k).toNat + (if up then 1 else 0), sticky)
  else
    let s := 2 ^ k.toNat
    let m' := m / s
    let rem := m % s
    let up := roundsUp mode neg (m' % 2 = 1) rem (s / 2) sticky
    (m' + (if up then 1 else 0), rem ≠ 0 || sticky)

/-- round(x, F, m) of R75 for x = ± m * 2^e: pattern and flags. `sticky` says x is a little larger in magnitude than
that, and then m has more bits than the format keeps. -/
def Fmt.round (f : Fmt) (mode : Mode) (neg : Bool) (m : Nat) (e : Int) (sticky : Bool := false) : Nat × Flags :=
  let sg := f.signPat neg
  if m = 0 then (sg, 0)
  else
    let ex := e + Nat.log2 m
    let (m1, inx1) := roundAt mode neg m e sticky (ex - f.frac)
    let carry := m1 = 2 ^ (f.frac + 1)
    let exN := if carry then ex + 1 else ex
    let emin : Int := 1 - f.bias
    if exN < emin then
      let (m2, inx2) := roundAt mode neg m e sticky (emin - f.frac)
      (sg + m2, if inx2 then flagUF ||| flagNX else 0)
    else if (f.bias : Int) < exN then
      let toInf := match mode with
        | .rne => true | .rtz => false | .rup => !neg | .rdn => neg
      (sg + (if toInf then f.infPat else f.infPat - 1), flagOF ||| flagNX)
    else
      let m1' := if carry then 2 ^ f.frac else m1
      (sg + (exN + f.bias).toNat * 2 ^ f.frac + (m1' - 2 ^ f.frac), if inx1 then flagNX else 0)

/-- The canonical NaN with NV as given. -/
def Fmt.nanRes (f : Fmt) (nv : Bool) : Nat × Flags := (f.nanPat, if nv then flagNV else 0)

def FVal.isNan : FVal → Bool
  | .nan _ => true | _ => false

def FVal.isSnan : FVal → Bool
  | .nan s => s | _ => false

def FVal.isZero : FVal → Bool
  | .fin _ m _ => m = 0 | _ => false

def FVal.isInf : FVal → Bool
  | .inf _ => true | _ => false

def FVal.neg : FVal → Bool
  | .nan _ => false | .inf n => n | .fin n _ _ => n

/-- The sign of a value flipped, exactly. -/
def FVal.flip : FVal → FVal
  | .nan s => .nan s | .inf n => .inf (!n) | .fin n m e => .fin (!n) m e

/-- ± m * 2^e as an integer multiple of 2^e0, for e0 ≤ e. -/
def scaled (neg : Bool) (m : Nat) (e e0 : Int) : Int :=
  let v : Int := m * 2 ^ (e - e0).toNat
  if neg then -v else v

/-- An integer multiple of 2^e as a value; `zneg` is the sign of an exact zero. -/
def ofScaled (v : Int) (e : Int) (zneg : Bool) : FVal :=
  if v = 0 then .fin zneg 0 e else .fin (v < 0) v.natAbs e

/-- The exact sum of two finite values; an exact zero has the sign R75 gives. -/
def addFin (mode : Mode) (n1 : Bool) (m1 : Nat) (e1 : Int) (n2 : Bool) (m2 : Nat) (e2 : Int) : FVal :=
  let e0 := min e1 e2
  let zneg := if m1 = 0 ∧ m2 = 0 ∧ n1 = n2 then n1 else mode = .rdn
  ofScaled (scaled n1 m1 e1 e0 + scaled n2 m2 e2 e0) e0 zneg

/-- Rounds a finite value or an infinity; a NaN becomes the canonical one (R74, R78). -/
def Fmt.roundVal (f : Fmt) (mode : Mode) : FVal → Nat × Flags
  | .nan s => f.nanRes s
  | .inf n => (f.signPat n + f.infPat, 0)
  | .fin n m e => f.round mode n m e

/-- x + y (R81): infinities of opposite signs give NaN and NV. -/
def Fmt.add (f : Fmt) (mode : Mode) (x y : FVal) : Nat × Flags :=
  if x.isNan || y.isNan then f.nanRes (x.isSnan || y.isSnan)
  else match x, y with
    | .inf a, .inf b => if a = b then (f.signPat a + f.infPat, 0) else f.nanRes true
    | .inf a, _ => (f.signPat a + f.infPat, 0)
    | _, .inf b => (f.signPat b + f.infPat, 0)
    | .fin n1 m1 e1, .fin n2 m2 e2 => f.roundVal mode (addFin mode n1 m1 e1 n2 m2 e2)
    | _, _ => f.nanRes false

/-- The exact product of two values that are no NaN; `none` for 0 × ∞. -/
def mulExact (x y : FVal) : Option FVal :=
  match x, y with
  | .fin n1 m1 e1, .fin n2 m2 e2 => some (.fin (n1 != n2) (m1 * m2) (e1 + e2))
  | x, y => if x.isZero || y.isZero then none else some (.inf (x.neg != y.neg))

/-- x × y (R81). -/
def Fmt.mul (f : Fmt) (mode : Mode) (x y : FVal) : Nat × Flags :=
  if x.isNan || y.isNan then f.nanRes (x.isSnan || y.isSnan)
  else match mulExact x y with
    | none => f.nanRes true
    | some v => f.roundVal mode v

/-- z + x × y with one rounding (R81): 0 × ∞ is tested before NaN operands. -/
def Fmt.fma (f : Fmt) (mode : Mode) (x y z : FVal) : Nat × Flags :=
  if (x.isZero && y.isInf) || (x.isInf && y.isZero) then f.nanRes true
  else if x.isNan || y.isNan || z.isNan then f.nanRes (x.isSnan || y.isSnan || z.isSnan)
  else match mulExact x y with
    | none => f.nanRes true
    | some p => f.add mode p z

/-- x ÷ y (R80, R81). -/
def Fmt.div (f : Fmt) (mode : Mode) (x y : FVal) : Nat × Flags :=
  let sg := x.neg != y.neg
  if x.isNan || y.isNan then f.nanRes (x.isSnan || y.isSnan)
  else match x, y with
    | .inf _, .inf _ => f.nanRes true
    | .inf _, _ => (f.signPat sg + f.infPat, 0)
    | _, .inf _ => (f.signPat sg, 0)
    | .fin _ m1 e1, .fin _ m2 e2 =>
      if m2 = 0 then
        if m1 = 0 then f.nanRes true else (f.signPat sg + f.infPat, flagDZ)
      else if m1 = 0 then (f.signPat sg, 0)
      else
        let k := f.frac + 4 + Nat.log2 m2
        let n := m1 * 2 ^ k
        f.round mode sg (n / m2) (e1 - e2 - k) (n % m2 ≠ 0)
    | _, _ => f.nanRes false

/-- The integer square root, bit by bit from bit `b` down. -/
def isqrtFrom (n : Nat) : Nat → Nat → Nat
  | 0, r => if (r + 1) * (r + 1) ≤ n then r + 1 else r
  | b + 1, r =>
    let r' := r + 2 ^ (b + 1)
    isqrtFrom n b (if r' * r' ≤ n then r' else r)

/-- √x (R80, R81): √(−0) is −0, a negative operand gives NaN and NV. -/
def Fmt.sqrt (f : Fmt) (mode : Mode) (x : FVal) : Nat × Flags :=
  match x with
  | .nan s => f.nanRes s
  | .inf n => if n then f.nanRes true else (f.infPat, 0)
  | .fin n m e =>
    if m = 0 then (f.signPat n, 0)
    else if n then f.nanRes true
    else
      let k0 := 2 * (f.frac + 4)
      let k := if (e - k0) % 2 = 0 then k0 else k0 + 1
      let v := m * 2 ^ k
      let r := isqrtFrom v (Nat.log2 v / 2 + 1) 0
      f.round mode false r ((e - k) / 2) (r * r ≠ v)

/-- The order of two values that are no NaN, -0 below +0: a comparison key on patterns (R82, R92). -/
def Fmt.orderKey (f : Fmt) (p : Nat) : Int :=
  let mag : Int := p % 2 ^ (f.expo + f.frac)
  if p.testBit (f.expo + f.frac) then -(2 * mag) - 1 else 2 * mag

/-- `fp.min` and `fp.max` on patterns (R82). -/
def Fmt.minmax (f : Fmt) (wantMax : Bool) (a b : Nat) : Nat × Flags :=
  let x := f.value a
  let y := f.value b
  let fl : Flags := if x.isSnan || y.isSnan then flagNV else 0
  if x.isNan then (if y.isNan then (f.nanPat, fl) else (b, fl))
  else if y.isNan then (a, fl)
  else
    let aLess := f.orderKey a ≤ f.orderKey b
    (if aLess = !wantMax then a else b, fl)

/-- Exact equality and order of two patterns (R57); `none` when unordered. Zeros are equal. -/
def Fmt.cmp (f : Fmt) (a b : Nat) : Option Ordering :=
  let x := f.value a
  let y := f.value b
  if x.isNan || y.isNan then none
  else if x.isZero && y.isZero then some .eq
  else some (compare (f.orderKey a) (f.orderKey b))

/-- The comparisons feq fne flt fge fun of R57 and fcle of R164, by name code 8 to 12 and 13: result and flags. -/
def Fmt.compareOp (f : Fmt) (code : Nat) (a b : Nat) : Bool × Flags :=
  let x := f.value a
  let y := f.value b
  let c := f.cmp a b
  let snan : Flags := if x.isSnan || y.isSnan then flagNV else 0
  let anan : Flags := if x.isNan || y.isNan then flagNV else 0
  match code with
  | 8 => (c = some .eq, snan)
  | 9 => (c ≠ some .eq, snan)
  | 10 => (c = some .lt, anan)
  | 11 => (c = some .gt || c = some .eq, anan)
  | 12 => (c = none, snan)
  | _ => (c = some .lt || c = some .eq, anan)

/-- A value rounded to an integer in a mode: the integer and whether it differs from the value. -/
def roundInt (mode : Mode) (neg : Bool) (m : Nat) (e : Int) : Int × Bool :=
  let (v, inx) := roundAt mode neg m e false 0
  (if neg then -(v : Int) else v, inx)

/-- Conversion to an n-bit two's-complement integer (R79). -/
def toInt (n : Nat) (mode : Mode) (x : FVal) : Int × Flags :=
  let lo : Int := -(2 ^ (n - 1))
  let hi : Int := 2 ^ (n - 1) - 1
  match x with
  | .nan _ => (0, flagNV)
  | .inf s => (if s then lo else hi, flagNV)
  | .fin s m e =>
    let (v, inx) := roundInt mode s m e
    if v < lo then (lo, flagNV) else if hi < v then (hi, flagNV)
    else (v, if inx then flagNX else 0)

/-- The exact value of an integer. -/
def ofInt (v : Int) : FVal := .fin (v < 0) v.natAbs 0

/-! ### The formats named in a prefix (R43, R73) -/

/-- The floating-point format of a code, if it is one. -/
def fmtOfCode : Nat → Option Fmt
  | 0 => some .fp32 | 1 => some .fp16 | 2 => some .bf16 | 3 => some .e8m10 | _ => none

/-- The width of the code formats C8, C6, C4 (codes 4 to 6) and the integer formats (7 to 9). -/
def codeWidth : Nat → Nat
  | 0 => 32 | 1 => 16 | 2 => 16 | 3 => 19 | 4 => 8 | 5 => 6 | 6 => 4 | 7 => 8 | 8 => 16 | 9 => 32 | _ => 0

/-- The value a source pattern holds in a format code, floating point or integer (R73, R78). -/
def valueOfCode (c : Nat) (p : Nat) : FVal :=
  match fmtOfCode c with
  | some f => f.value (p % 2 ^ f.width)
  | none =>
    let w := codeWidth c
    let u := p % 2 ^ w
    ofInt (if u.testBit (w - 1) then (u : Int) - 2 ^ w else u)

/-- A 64-bit word from an integer. -/
def wordOfInt (v : Int) : Word := BitVec.ofInt 64 v

/-- Conversion of a value to a format code, as a register holds it (R73, R78, R79). -/
def convert (d : Nat) (mode : Mode) (x : FVal) : Word × Flags :=
  match fmtOfCode d with
  | some f => let (p, fl) := f.roundVal mode x; (BitVec.ofNat 64 p, fl)
  | none => let (v, fl) := toInt (codeWidth d) mode x; (wordOfInt v, fl)

/-! ### The code table (R86-R95) -/

/-- W, the number of entries in use (R86). -/
def entriesOf (width : Nat) : Nat := match width with | 0 => 256 | 1 => 64 | _ => 16

/-- The code format in force: 4 C8, 5 C6, 6 C4 (R86, R43). -/
def CodeTable.inForce (t : CodeTable) : Nat := 4 + t.width

/-- ENT[c]. -/
def CodeTable.entry (t : CodeTable) (c : Nat) : BitVec 19 := AMap.get 0 t.ent c

/-- An entry put into ORD, sorted by value with -0 before +0; a pattern already there keeps its lower code (R92). -/
def ordInsert (p : BitVec 19) (c : Nat) : List (BitVec 19 × Nat) → List (BitVec 19 × Nat)
  | [] => [(p, c)]
  | (q, k) :: r =>
    if p = q then (q, k) :: r
    else if Fmt.e8m10.orderKey p.toNat < Fmt.e8m10.orderKey q.toNat then (p, c) :: (q, k) :: r
    else (q, k) :: ordInsert p c r

/-- What a seal finds over codes c, c + 1, …: NANV, NANLO and ORD (R92). -/
def sealScan (ent : AMap (BitVec 19)) : Nat → Nat → Bool × Nat × List (BitVec 19 × Nat) →
    Bool × Nat × List (BitVec 19 × Nat)
  | 0, _, r => r
  | n + 1, c, (nv, lo, l) =>
    let e := AMap.get 0 ent c
    if (Fmt.e8m10.value e.toNat).isNan then
      sealScan ent n (c + 1) (if nv then (nv, lo, l) else (true, c, l))
    else sealScan ent n (c + 1) (nv, lo, ordInsert e c l)

/-- The start of a seal: STATE, no NaN code so far, and the snapshot (R89, R92). -/
def CodeTable.startSeal (t : CodeTable) : CodeTable :=
  { t with state := .sealing, nanv := false, nanlo := 0, snapEnt := t.ent, snapWidth := t.width, changed := false }

/-- The end of a seal (R92): ORD, NANV and NANLO from the snapshot, STATE, GEN. -/
def CodeTable.endSeal (t : CodeTable) : CodeTable :=
  let (nv, lo, l) := sealScan t.snapEnt (entriesOf t.snapWidth) 0 (false, 0, [])
  { t with nanv := nv, nanlo := lo, ord := l, gen := (t.gen + 1) % 2 ^ 16,
           state := if t.changed then .unsealed else .sealed,
           snapEnt := [], snapWidth := 0, changed := false }

/-- A write of an entry, and of WIDTH with the NANSUB rule (R87, R94). Both unseal; during a seal they mark it. -/
def CodeTable.writeEntry (t : CodeTable) (c : Nat) (v : BitVec 19) : CodeTable :=
  let t := { t with ent := AMap.set t.ent c v }
  if t.state = .sealing then { t with changed := true } else { t with state := .unsealed }

def CodeTable.writeWidth (t : CodeTable) (w : Nat) : CodeTable :=
  let t := { t with width := w, nansub := if entriesOf w ≤ t.nansub then 0 else t.nansub }
  if t.state = .sealing then { t with changed := true } else { t with state := .unsealed }

/-- TBLD as `sys.srd` reads it (R86). -/
def CodeTable.descriptor (t : CodeTable) : Word :=
  BitVec.ofNat 64 (t.gen * 2 ^ 32 + (if t.nanv then 2 ^ 24 else 0) + t.nanlo * 2 ^ 16 + t.nansub * 2 ^ 8
    + (match t.state with | .unsealed => 0 | .sealing => 1 | .sealed => 2) * 2 ^ 4 + t.width)

/-- An E8M10 pattern's exact value as a multiple of 2^-149, finite ones only. -/
def scaledVal : FVal → Int
  | .fin n m e => scaled n m e (-149)
  | _ => 0

/-- The nearest finite element to v: least distance, then smaller magnitude, then v's sign (R93). -/
def nearest (v : Int) (vneg : Bool) : List (BitVec 19 × Nat) → Option (BitVec 19 × Nat) → Option (BitVec 19 × Nat)
  | [], best => best
  | (p, c) :: r, none => nearest v vneg r (some (p, c))
  | (p, c) :: r, some (q, k) =>
    let x := scaledVal (Fmt.e8m10.value p.toNat)
    let y := scaledVal (Fmt.e8m10.value q.toNat)
    let dx := (v - x).natAbs
    let dy := (v - y).natAbs
    let better := dx < dy || (dx = dy && (x.natAbs < y.natAbs ||
      (x.natAbs = y.natAbs && (p.getMsbD 0 = vneg) && (q.getMsbD 0 ≠ vneg))))
    nearest v vneg r (if better then some (p, c) else some (q, k))

/-- The code of a held pattern. -/
def codeOf (l : List (BitVec 19 × Nat)) (p : BitVec 19) : Option Nat :=
  match l.find? (fun x => x.1 = p) with
  | some (_, c) => some c
  | none => none

/-- enc(v) of R93 on a sealed table: the code and the flags. -/
def CodeTable.enc (t : CodeTable) (v : FVal) : Nat × Flags :=
  let infP : Bool → BitVec 19 := fun n => BitVec.ofNat 19 (Fmt.e8m10.signPat n + Fmt.e8m10.infPat)
  match v with
  | .nan s =>
    let nv : Flags := if s then flagNV else 0
    if t.nanv then (t.nanlo, nv) else (t.nansub, flagNV)
  | _ =>
    match t.ord with
    | [] => (t.nansub, flagNV)
    | _ =>
      let fins := t.ord.filter (fun x => !(Fmt.e8m10.value x.1.toNat).isInf)
      match fins.head?, fins.getLast? with
      | some lo, some hi =>
        match v with
        | .inf n =>
          match codeOf t.ord (infP n) with
          | some c => (c, 0)
          | none => (if n then lo.2 else hi.2, flagOF ||| flagNX)
        | .fin n m e =>
          let x := scaled n m e (-149)
          if scaledVal (Fmt.e8m10.value hi.1.toNat) < x then (hi.2, flagOF ||| flagNX)
          else if x < scaledVal (Fmt.e8m10.value lo.1.toNat) then (lo.2, flagOF ||| flagNX)
          else
            let zp : Bool → BitVec 19 := fun n => BitVec.ofNat 19 (Fmt.e8m10.signPat n)
            match (if m = 0 then (codeOf fins (zp n)).or (codeOf fins (zp (!n))) else none) with
            | some c => (c, 0)
            | none =>
              match nearest x n fins none with
              | some (p, c) => (c, if scaledVal (Fmt.e8m10.value p.toNat) = x then 0 else flagNX)
              | none => (t.nansub, flagNV)
        | .nan _ => (t.nansub, flagNV)
      | _, _ =>
        -- only infinities are held
        match v with
        | .inf n =>
          match codeOf t.ord (infP n) with
          | some c => (c, 0)
          | none => ((codeOf t.ord (infP (!n))).getD 0, flagOF ||| flagNX)
        | _ => (((codeOf t.ord (infP v.neg)).or (codeOf t.ord (infP (!v.neg)))).getD 0, flagOF ||| flagNX)

/-! ### The FP32 helpers of the expansion unit and the bank MAC (R25, R264) -/

/-- A pair of pattern and flags so far: one FP32 step at a time, round to nearest even. -/
abbrev F32 := BitVec 32

def f32 (p : F32) : FVal := Fmt.fp32.value p.toNat

/-- The result of a step as a register pattern. -/
def pack32 (r : Nat × Flags) : F32 × Flags := (BitVec.ofNat 32 r.1, r.2)

def fadd32 (x y : F32) : F32 × Flags := pack32 (Fmt.fp32.add .rne (f32 x) (f32 y))
def fsub32 (x y : F32) : F32 × Flags :=
  pack32 (Fmt.fp32.add .rne (f32 x) (f32 y).flip)
def fmul32 (x y : F32) : F32 × Flags := pack32 (Fmt.fp32.mul .rne (f32 x) (f32 y))
def fdiv32 (x y : F32) : F32 × Flags := pack32 (Fmt.fp32.div .rne (f32 x) (f32 y))
def fsqrt32 (x : F32) : F32 × Flags := pack32 (Fmt.fp32.sqrt .rne (f32 x))

/-- The sign bit flipped, no flag (R264). -/
def fneg32 (x : F32) : F32 := x ^^^ 0x80000000

/-- An exact small integer as FP32. -/
def fint32 (n : Nat) : F32 := BitVec.ofNat 32 (Fmt.fp32.round .rne false n 0).1

/-! ### The exact dot product of the matrix unit (R249, R250) -/

/-- D over pairs of operand values: NaN, an infinity, or the exact sum; an exact zero is −0 only when every product
is −0. The pairs are all the counted elements. -/
def dotExact (l : List (FVal × FVal)) : FVal :=
  let nan := l.any (fun (x, y) => x.isNan || y.isNan || (mulExact x y).isNone)
  let prods := l.filterMap (fun (x, y) => mulExact x y)
  let pinf := prods.any (fun p => p = .inf false)
  let ninf := prods.any (fun p => p = .inf true)
  if nan || (pinf && ninf) then .nan true
  else if pinf then .inf false
  else if ninf then .inf true
  else
    let e0 : Int := prods.foldl (fun a p => match p with | .fin _ _ e => min a e | _ => a) 0
    let sum : Int := prods.foldl (fun a p => match p with | .fin n m e => a + scaled n m e e0 | _ => a) 0
    ofScaled sum e0 (!prods.isEmpty && prods.all (fun p => p.neg))

/-- One K step on one accumulator element (R249): the new element and the flags of its steps. -/
def mmaStep (l : List (FVal × FVal)) (scales : Option (F32 × F32)) (acc : F32) : F32 × Flags :=
  let d := dotExact l
  let nv : Flags := if d.isNan then flagNV else 0
  let d' : FVal := match d with | .nan _ => .nan false | x => x
  let (q, fq) : F32 × Flags :=
    match scales with
    | some (sa, sb) =>
      let (p, fp) := fmul32 sa sb
      let (q, f2) := pack32 (Fmt.fp32.mul .rne d' (f32 p))
      (q, fp ||| f2)
    | none => pack32 (Fmt.fp32.roundVal .rne d')
  let (r, fr) := fadd32 acc q
  (r, nv ||| fq ||| fr)

end Sys2Proof.Machine
end

