-- ==== Sys2Proof/Machine/Operands.lean ====
section
/-!
DEFINITION. The operands of each instruction: which register fields it reads and writes, which vector registers,
which prefixes it accepts, which units hold its class and whether it is privileged (R10, R33, R36, R37, R42-R48,
R64, R84, R94, R95, R131, R161-R170, R243-R256). One place for what R48 rows 2 to 6 ask.
-/

namespace Sys2Proof.Machine

/-- The 7-bit register fields an instruction reads, most significant field first (R35). A field that it both reads
and writes counts once as a read (R34). -/
def srcRegs : Instr → List (BitVec 7)
  | .aluAdd _ a b | .aluSub _ a b | .aluMul _ a b | .aluMulh _ a b
  | .aluMulhu _ a b | .aluDiv _ a b | .aluDivu _ a b | .aluRem _ a b
  | .aluRemu _ a b | .aluAnd _ a b | .aluOr _ a b | .aluXor _ a b
  | .aluAndn _ a b | .aluSll _ a b | .aluSrl _ a b | .aluSra _ a b
  | .aluRol _ a b | .aluSlt _ a b | .aluSltu _ a b | .aluMin _ a b
  | .aluMax _ a b | .aluMinu _ a b | .aluMaxu _ a b => [a, b]
  | .aluClz _ a | .aluCtz _ a | .aluPopc _ a | .addi _ a _
  | .andi _ a _ | .ori _ a _ | .xori _ a _ | .shiSlli _ a _
  | .shiSrli _ a _ | .shiSrai _ a _ | .shiRoli _ a _ | .cski _ _ a _
  | .br _ a _ | .jr _ a _ | .ld _ a _ _ _ _ | .felWfe _ a _ _
  | .felWfs _ a _ _ | .felAny _ a _ | .mig a _ | .tqDepth _ a
  | .jcDec _ a | .waitJz a _ | .waitMbox _ a _ | .thrNwr _ a
  | .sysSwr _ a | .sysTrap a | .sysTkill a | .sysTlbInv a
  | .sysTlbAll a | .fpSqrt _ a | .fpCvt _ a | .fpFtoi _ a
  | .fpItof _ a | .tblRd _ a | .tblNansub a | .tblEnc _ a
  | .tblDec _ a | .vmemLd _ a _ _ _ | .vmemSt _ a _ _ _ | .copyBopen _ a
  | .ewr _ _ _ a | .xpCtrm _ a | .xpCtrl _ a | .xpLd _ a
  | .xpSt _ a | .xpEval _ a _ | .xpGrad _ a _ => [a]
  | .csk _ _ a b | .rupdAdd a b | .rupdAnd a b | .rupdOr a b
  | .rupdXor a b | .rupdMin a b | .rupdMax a b | .rupdMinu a b
  | .rupdMaxu a b | .rupdSwap a b | .rupdIncw a b | .rupdFaddF32 a b
  | .dlgCall _ a b | .dlgPost a b | .tqPush _ a b | .tqTake _ a b
  | .tqSteal _ a b | .tqCfg a b | .tqSub a b | .jcInit a b
  | .jcAdd _ a b | .thrSpawn _ a b | .thrStw a b | .sysCapget _ a b
  | .sysPre _ a b | .fpAdd _ a b | .fpSub _ a b | .fpMul _ a b
  | .fpDiv _ a b | .fpMin _ a b | .fpMax _ a b | .tblWr a b
  | .copyXfer _ a b | .copyDist _ a b | .copyCsr _ a b | .streamBind _ a b
  | .streamPort _ a b | .buoySet a b | .mtxMma _ a b | .mtxMmas _ a b
  | .mtxAcopyIn _ a b | .mtxAcopyOut _ a b | .mtxTset _ a b | .gsGather _ a b
  | .gsScatter _ a b | .bmacBcast a b | .bmacMac a b | .bmacRd a b
  | .pmigMove _ a b | .xpForm _ a b | .xpNear a b => [a, b]
  | .amoAdd _ a b | .amoAnd _ a b | .amoOr _ a b | .amoXor _ a b
  | .amoMin _ a b | .amoMax _ a b | .amoMinu _ a b | .amoMaxu _ a b
  | .amoSwap _ a b | .amoIncw _ a b | .amoFaddF32 _ a b => [a, b]
  | .amoCas d a b | .amoFaddb d a b | .fpFma d a b => [d, a, b]
  | .st b a _ _ _ | .fesWes b a _ _ | .fesSetf b a _ | .fesSete b a _ => [b, a]
  | .waitSleep d _ => [d]
  | .waitFe d a _ | .waitTl d a _ | .waitBuoy d a _ => [d, a]
  | .bmacAclr b => [b]
  | .vscBcast _ s _ | .vscAdd _ _ s _ | .vscSub _ _ s _ | .vscMul _ _ s _
  | .vscFadd _ _ s _ | .vscFmul _ _ s _ | .vscFfma _ _ s _ => [s]
  | _ => []

/-- The vector registers an instruction reads, in field order (R36, R163-R169). -/
def vecSrcs : Instr → List (BitVec 5)
  | .vopSel v a b _ | .vopFfma v a b _ => [v, a, b]
  | .vopAdd _ a b _ | .vopSub _ a b _ | .vopMul _ a b _ | .vopMin _ a b _
  | .vopMax _ a b _ | .vopMinu _ a b _ | .vopMaxu _ a b _ | .vopAnd _ a b _
  | .vopOr _ a b _ | .vopXor _ a b _ | .vopSll _ a b _ | .vopSrl _ a b _
  | .vopSra _ a b _ | .vopAdds _ a b _ | .vopSubs _ a b _ | .vopCeq _ a b _
  | .vopClt _ a b _ | .vopCltu _ a b _ | .vopShuf _ a b _ | .vopFadd _ a b _
  | .vopFsub _ a b _ | .vopFmul _ a b _ | .vopFmin _ a b _ | .vopFmax _ a b _
  | .vopFceq _ a b _ | .vopFclt _ a b _ | .vopFcle _ a b _ | .vopNar _ a b => [a, b]
  | .vopFcvt _ a _ | .vopWlo _ a | .vopWhi _ a | .vopEnc _ a _
  | .vopDec _ a _ => [a]
  | .vscFfma v a _ _ => [v, a]
  | .vscAdd _ a _ _ | .vscSub _ a _ _ | .vscMul _ a _ _ | .vscFadd _ a _ _
  | .vscFmul _ a _ _ | .vscRedadd a _ _ | .vscRedmin a _ _ | .vscRedmax a _ _
  | .vscRedminu a _ _ | .vscRedmaxu a _ _ | .vscFredadd a _ _ | .vscFredmin a _ _
  | .vscFredmax a _ _ | .vscMask a _ _ => [a]
  | .vmemSt v _ _ n _ => (List.range (n.toNat + 1)).map (fun j => v + BitVec.ofNat 5 j)
  | _ => []

/-- The vector registers an instruction writes. -/
def vecDsts : Instr → List (BitVec 5)
  | .vopAdd v _ _ _ | .vopSub v _ _ _ | .vopMul v _ _ _ | .vopMin v _ _ _
  | .vopMax v _ _ _ | .vopMinu v _ _ _ | .vopMaxu v _ _ _ | .vopAnd v _ _ _
  | .vopOr v _ _ _ | .vopXor v _ _ _ | .vopSll v _ _ _ | .vopSrl v _ _ _
  | .vopSra v _ _ _ | .vopAdds v _ _ _ | .vopSubs v _ _ _ | .vopCeq v _ _ _
  | .vopClt v _ _ _ | .vopCltu v _ _ _ | .vopSel v _ _ _ | .vopShuf v _ _ _
  | .vopFadd v _ _ _ | .vopFsub v _ _ _ | .vopFmul v _ _ _ | .vopFfma v _ _ _
  | .vopFmin v _ _ _ | .vopFmax v _ _ _ | .vopFceq v _ _ _ | .vopFclt v _ _ _
  | .vopFcle v _ _ _ | .vopFcvt v _ _ | .vopWlo v _ | .vopWhi v _
  | .vopNar v _ _ | .vopEnc v _ _ | .vopDec v _ _ => [v]
  | .vscBcast v _ _ | .vscAdd v _ _ _ | .vscSub v _ _ _ | .vscMul v _ _ _
  | .vscFadd v _ _ _ | .vscFmul v _ _ _ | .vscFfma v _ _ _ => [v]
  | .vmemLd v _ _ n _ => (List.range (n.toNat + 1)).map (fun j => v + BitVec.ofNat 5 j)
  | .xpGrad _ _ b => [BitVec.ofNat 5 b.toNat]
  | _ => []

/-- Registers an instruction reads or writes without naming them in a field (R59, R132, R194). -/
def impliedRegs : Instr → List Nat
  | .jl _ => [1]
  | .dlgCall _ _ _ | .dlgPost _ _ => [5, 6, 7, 8]
  | _ => []

/-- The engine of an `eng`, `ewr` or `erd` word (R47). -/
def engineOf : Instr → Option Nat
  | .engClaim e _ | .engRelease e _ | .engClear e _ | .ewr e _ _ _ | .erd e _ _ _ => some e.toNat
  | .copyXfer _ _ _ | .copyDist _ _ _ | .copyBopen _ _ | .copyBclose _
  | .copyCsr _ _ _ => some 0
  | .streamBind _ _ _ | .streamUnbind _ | .streamPort _ _ _ => some 1
  | .buoySet _ _ => some 2
  | .mtxMma _ _ _ | .mtxMmas _ _ _ | .mtxAclr _ | .mtxAcopyIn _ _ _
  | .mtxAcopyOut _ _ _ | .mtxTset _ _ _ | .mtxTseal _ => some 4
  | .gsGather _ _ _ | .gsScatter _ _ _ => some 5
  | .bmacOpen | .bmacBcast _ _ | .bmacMac _ _ | .bmacRd _ _
  | .bmacAclr _ | .bmacClose => some 6
  | .pmigMove _ _ _ | .pmigCommit _ => some 7
  | _ => none

/-- A specifier of the stream, core-shared or mailbox spaces (R33). -/
def isSpecial (r : BitVec 7) : Bool := 112 ≤ r.toNat

/-- A class a skerry lacks and some Cape core holds (R46, R47, R49): the word returns. DESIGN CHOICE (log 59): only a
field the instruction uses counts; an unused one that names 112 to 127 is the next row's ILLFLD. -/
def returnsOnSkerry (i : Instr) : Bool :=
  (srcRegs i).any isSpecial || (destRegs i).any isSpecial ||
  (match engineOf i with | some e => e ≤ 5 | none => false) ||
  match i with
  | .waitTl _ _ _ | .waitBuoy _ _ _ | .tblWr _ _ | .tblRd _ _
  | .tblSeal | .tblNansub _ | .tblEnc _ _ | .tblDec _ _
  | .vopAdd _ _ _ _ | .vopSub _ _ _ _ | .vopMul _ _ _ _ | .vopMin _ _ _ _
  | .vopMax _ _ _ _ | .vopMinu _ _ _ _ | .vopMaxu _ _ _ _ | .vopAnd _ _ _ _
  | .vopOr _ _ _ _ | .vopXor _ _ _ _ | .vopSll _ _ _ _ | .vopSrl _ _ _ _
  | .vopSra _ _ _ _ | .vopAdds _ _ _ _ | .vopSubs _ _ _ _ | .vopCeq _ _ _ _
  | .vopClt _ _ _ _ | .vopCltu _ _ _ _ | .vopSel _ _ _ _ | .vopShuf _ _ _ _
  | .vopFadd _ _ _ _ | .vopFsub _ _ _ _ | .vopFmul _ _ _ _ | .vopFfma _ _ _ _
  | .vopFmin _ _ _ _ | .vopFmax _ _ _ _ | .vopFceq _ _ _ _ | .vopFclt _ _ _ _
  | .vopFcle _ _ _ _ | .vopFcvt _ _ _ | .vopWlo _ _ | .vopWhi _ _
  | .vopNar _ _ _ | .vopEnc _ _ _ | .vopDec _ _ _ | .vscBcast _ _ _
  | .vscAdd _ _ _ _ | .vscSub _ _ _ _ | .vscMul _ _ _ _ | .vscFadd _ _ _ _
  | .vscFmul _ _ _ _ | .vscFfma _ _ _ _ | .vscRedadd _ _ _ | .vscRedmin _ _ _
  | .vscRedmax _ _ _ | .vscRedminu _ _ _ | .vscRedmaxu _ _ _ | .vscFredadd _ _ _
  | .vscFredmin _ _ _ | .vscFredmax _ _ _ | .vscMask _ _ _ | .vmemLd _ _ _ _ _
  | .vmemSt _ _ _ _ _ | .xpCtrm _ _ | .xpCtrl _ _ | .xpClr _
  | .xpLd _ _ | .xpSt _ _ | .xpAdd _ _ | .xpForm _ _ _
  | .xpM2m _ _ | .xpM2l _ _ | .xpL2l _ _ | .xpEval _ _ _
  | .xpGrad _ _ _ | .xpNear _ _ | .xpAdm _ _ _ => true
  | .sysSrd _ n => n.toNat = 5 || n.toNat = 14
  | .sysSwr n _ => n.toNat = 5 || n.toNat = 14
  | _ => false

/-- The privileged functions (R64, R131) and, for the two privileged windows, their state numbers (R17). -/
def privileged : Instr → Bool
  | .thrStw _ _ | .sysTres | .sysTkill _ | .sysPre _ _ _ | .sysTlbInv _ | .sysTlbAll _ => true
  | .sysSrd _ n => n.toNat = 15 || n.toNat = 16
  | .sysSwr n _ => n.toNat = 15 || n.toNat = 16
  | _ => false

/-- RLX is accepted by ld, st and vmem (R44, R180). -/
def acceptsRlx : Instr → Bool
  | .ld _ _ _ _ _ _ | .st _ _ _ _ _ | .vmemLd _ _ _ _ _ | .vmemSt _ _ _ _ _ => true
  | _ => false

/-- The FMT payload's fields (R42). -/
def pfxAB (p : BitVec 23) : Nat := (p.extractLsb' 19 4).toNat
def pfxD (p : BitVec 23) : Nat := (p.extractLsb' 15 4).toNat
def pfxScale (p : BitVec 23) : Nat := (p.extractLsb' 13 2).toNat
def pfxRnd (p : BitVec 23) : Nat := (p.extractLsb' 11 2).toNat

/-- The format pairs a lane-wise floating function accepts in an FMT prefix (R164). -/
def laneFmtOk (l : BitVec 2) (ab d : Nat) : Bool :=
  if l.toNat = 0 then ab = 0 && d = 0 else ab = d && (ab = 1 || ab = 2)

/-- Whether an instruction accepts an FMT prefix with these formats, scale and rounding override (R44, R76,
R83, R84, R94, R95, R161, R164-R167, R248, R254, R255). -/
def acceptsFmt (i : Instr) (p : BitVec 23) : Bool :=
  let ab := pfxAB p
  let d := pfxD p
  let plain := pfxScale p = 0 && pfxRnd p ≠ 3
  match i with
  | .fpAdd _ _ _ | .fpSub _ _ _ | .fpMul _ _ _ | .fpDiv _ _ _
  | .fpSqrt _ _ | .fpFma _ _ _ | .fpMin _ _ _ | .fpMax _ _ _
  | .fpFtoi _ _ | .fpItof _ _ => plain && ab = 0 && d = 0
  | .fpCvt _ _ => plain && ab ∈ [0, 1, 2, 3, 7, 8, 9] && d ∈ [0, 1, 2, 3, 7, 8, 9]
  | .tblEnc _ _ => plain && ab ≤ 3 && d ∈ [4, 5, 6]
  | .tblDec _ _ => plain && ab ∈ [4, 5, 6] && d ≤ 3
  | .vopFadd _ _ _ l | .vopFsub _ _ _ l | .vopFmul _ _ _ l | .vopFfma _ _ _ l
  | .vopFmin _ _ _ l | .vopFmax _ _ _ l | .vopFceq _ _ _ l | .vopFclt _ _ _ l
  | .vopFcle _ _ _ l | .vscFadd _ _ _ l | .vscFmul _ _ _ l | .vscFfma _ _ _ l
  | .vscFredadd _ _ l | .vscFredmin _ _ l | .vscFredmax _ _ l => plain && laneFmtOk l ab d
  | .vopFcvt _ _ l => plain && (if l.toNat = 0 then ab ∈ [0, 3, 9] && d ∈ [0, 3, 9] else ab ∈ [1, 2, 8] && d ∈ [1, 2, 8])
  | .vopWlo _ _ | .vopWhi _ _ => plain && ab ∈ [1, 2, 8] && d ∈ [0, 3, 9]
  | .vopNar _ _ _ => plain && ab ∈ [0, 3, 9] && d ∈ [1, 2, 8]
  | .vopEnc _ _ l => plain && d ∈ [4, 5, 6] && (if l.toNat = 0 then ab ∈ [0, 3] else ab ∈ [1, 2])
  | .vopDec _ _ l => plain && ab ∈ [4, 5, 6] && (if l.toNat = 0 then d ∈ [0, 3] else d ∈ [1, 2])
  | .mtxMma _ _ _ | .mtxMmas _ _ _ => 1 ≤ ab && ab ≤ 6 && d = 0 && pfxRnd p = 0 && pfxScale p ≤ 1
  | .mtxAcopyIn _ _ _ => ab ≤ 3 && d = 0 && pfxRnd p = 0 && pfxScale p = 0
  | .mtxAcopyOut _ _ _ => ab = 0 && d ≤ 6 && pfxRnd p = 0 && pfxScale p = 0
  | _ => false

/-- Prefix misuse (R44, R45): a pending prefix the instruction does not accept, or one of its own kind. -/
def misusesPfx (i : Instr) (st : St) : Bool :=
  match i with
  | .pfxFmt _ _ _ _ => st.ppFmt
  | .pfxRlx => st.ppRlx
  | _ => (st.ppRlx && !acceptsRlx i) || (st.ppFmt && !acceptsFmt i st.pfxF)

/-- A scalar specifier at or above the limit, or a vector alias reaching it (R10, R36). -/
def overLimit (i : Instr) (lim : Nat) : Bool :=
  (srcRegs i).any (fun r => r.toNat < 112 && lim ≤ r.toNat) ||
  (destRegs i).any (fun r => r.toNat < 112 && lim ≤ r.toNat) ||
  (vecSrcs i).any (fun v => v.toNat ≤ 26 && lim ≤ 4 * v.toNat + 7) ||
  (vecDsts i).any (fun v => v.toNat ≤ 26 && lim ≤ 4 * v.toNat + 7)

/-- The scalar registers that stand for v_k (R36); none for vq and vz. -/
def aliasRegs (v : BitVec 5) : List Nat :=
  if v.toNat ≤ 26 then [4 * v.toNat + 4, 4 * v.toNat + 5, 4 * v.toNat + 6, 4 * v.toNat + 7] else []

/-- Every partition register an instruction reads, and every one it reads or writes (R181, R178). -/
def regsRead (i : Instr) : List Nat :=
  ((srcRegs i).map (·.toNat)).filter (· < 112) ++ (vecSrcs i).flatMap aliasRegs ++
  (match i with | .jl _ => [] | _ => impliedRegs i)

def regsTouched (i : Instr) : List Nat :=
  regsRead i ++ ((destRegs i).map (·.toNat)).filter (· < 112) ++ (vecDsts i).flatMap aliasRegs ++ impliedRegs i

/-- Instructions of a twin that send a message, matched with the other twin's before it goes on (R327). An `ewr` or `erd` of
TARGET or CAP is no request (R240); an `xp` instruction enters its own core's queue, and the unit sends its memory requests
(R263). -/
def sendsMessage : Instr → Bool
  | .ld _ _ _ _ _ _ | .st _ _ _ _ _ | .felWfe _ _ _ _ | .felWfs _ _ _ _
  | .felAny _ _ _ | .fesWes _ _ _ _ | .fesSetf _ _ _ | .fesSete _ _ _
  | .amoAdd _ _ _ | .amoAnd _ _ _ | .amoOr _ _ _ | .amoXor _ _ _
  | .amoMin _ _ _ | .amoMax _ _ _ | .amoMinu _ _ _ | .amoMaxu _ _ _
  | .amoSwap _ _ _ | .amoCas _ _ _ | .amoIncw _ _ _ | .amoFaddb _ _ _
  | .amoFaddF32 _ _ _ | .rupdAdd _ _ | .rupdAnd _ _ | .rupdOr _ _
  | .rupdXor _ _ | .rupdMin _ _ | .rupdMax _ _ | .rupdMinu _ _
  | .rupdMaxu _ _ | .rupdSwap _ _ | .rupdIncw _ _ | .rupdFaddF32 _ _
  | .dlgCall _ _ _ | .dlgPost _ _ | .tqPush _ _ _ | .tqTake _ _ _
  | .tqSteal _ _ _ | .tqDone | .tqDepth _ _ | .tqCfg _ _
  | .tqSub _ _ | .jcInit _ _ | .jcAdd _ _ _ | .jcDec _ _
  | .waitJz _ _ | .waitFe _ _ _ | .waitTl _ _ _ | .waitBuoy _ _ _
  | .vmemLd _ _ _ _ _ | .vmemSt _ _ _ _ _ | .engClaim _ _ | .engRelease _ _
  | .engClear _ _ | .copyXfer _ _ _ | .copyDist _ _ _ | .copyBopen _ _
  | .copyBclose _ | .copyCsr _ _ _ | .streamBind _ _ _ | .streamUnbind _
  | .streamPort _ _ _ | .buoySet _ _ | .mtxMma _ _ _ | .mtxMmas _ _ _
  | .mtxAclr _ | .mtxAcopyIn _ _ _ | .mtxAcopyOut _ _ _ | .mtxTset _ _ _
  | .mtxTseal _ | .gsGather _ _ _ | .gsScatter _ _ _ => true
  | .ewr e _ r _ | .erd e _ r _ => !(e = 4 && (r = 6 || r = 7))
  | _ => false

/-- Those of them whose reply writes no WST. -/
def plainMessage : Instr → Bool
  | .ld _ _ _ _ _ _ | .st _ _ _ _ _ | .amoAdd _ _ _ | .amoAnd _ _ _
  | .amoOr _ _ _ | .amoXor _ _ _ | .amoMin _ _ _ | .amoMax _ _ _
  | .amoMinu _ _ _ | .amoMaxu _ _ _ | .amoSwap _ _ _ | .amoIncw _ _ _
  | .amoFaddF32 _ _ _ | .rupdAdd _ _ | .rupdAnd _ _ | .rupdOr _ _
  | .rupdXor _ _ | .rupdMin _ _ | .rupdMax _ _ | .rupdMinu _ _
  | .rupdMaxu _ _ | .rupdSwap _ _ | .rupdIncw _ _ | .rupdFaddF32 _ _
  | .dlgCall _ _ _ | .dlgPost _ _ | .vmemLd _ _ _ _ _ | .vmemSt _ _ _ _ _ => true
  | _ => false

/-- The lane width in bits that an LW code names (R159), and how many lanes. -/
def laneBits (l : BitVec 2) : Nat := match l.toNat with | 0 => 32 | 1 => 64 | _ => 16
def laneCount (l : BitVec 2) : Nat := 256 / laneBits l

/-- The timeout that a te field names, in units of 1/8 ns (R31); none for 31. -/
def timeoutOf (te : BitVec 5) : Option Nat :=
  if te.toNat = 31 then none else some (2 ^ te.toNat * 64 * 8)

end Sys2Proof.Machine
end

