-- ==== Sys2Proof/Machine/Mem.lean ====
section
/-!
DEFINITION. Memory: locations, bytes and words in the one canonical form, full/empty bits and poison marks
(R20, R174-R178, R202, R277, R340). Also the numbering of units, clusters, homes and contexts.
-/

namespace Sys2Proof.Machine

/-- Bits h down to l of v, as an unsigned value (R25). -/
abbrev bits (v : Word) (h l : Nat) : Nat := (v.extractLsb' l (h + 1 - l)).toNat

/-- The low n bits of a field, sign-extended to 64 (R25). -/
abbrev sext {n : Nat} (v : BitVec n) : Word := v.signExtend 64

/-! ### Units (R18, R117, R130) -/

def unitOfThread (t : Nat) : Nat := t / 64
def slotOfThread (t : Nat) : Nat := t % 64
def isSkerry (u : Nat) : Bool := u / 2 ^ 18 % 2 = 1
def dieOf (u : Nat) : Nat := u / 2 ^ 14 % 16
def clusterOf (u : Nat) : Nat := u / 2 ^ 7 % 128
def coreOf (u : Nat) : Nat := u % 128
def mkCape (die cluster core : Nat) : Nat := die * 2 ^ 14 + cluster * 2 ^ 7 + core
def mkSkerry (die home : Nat) : Nat := 2 ^ 18 + die * 2 ^ 14 + home * 2 ^ 7
/-- The cluster of a Cape core, die * 128 + cluster. -/
def clusterKey (u : Nat) : Nat := u / 2 ^ 7 % 2 ^ 11
/-- A Holm skerry: DIE 8 to 11 (R18). -/
def isHolm (u : Nat) : Bool := isSkerry u && 8 ≤ dieOf u
/-- Whether a number names a Cape core of the package (R2). -/
def capeExists (u : Nat) : Bool := !isSkerry u && dieOf u < 8 && clusterOf u < 98
/-- Slots, rotation and spacing of a unit (R117, R121, R122, R130). -/
def slotsOf (u : Nat) : Nat := if isSkerry u then 32 else 64
def spacingOf (u : Nat) : Nat := if isSkerry u then 8 else 12
/-- The register pool that ordinary slots share (R118, R130). -/
def poolOf (u : Nat) : Nat := if isSkerry u then 1008 else 2032
/-- The handler slot of a Cape core, the server slot of a skerry (R117, R130). -/
def reservedSlot (u : Nat) : Nat := if isSkerry u then 31 else 63

/-- A unit's nominal period in units of 1/8 ns: 4 GHz on a Cape core, 1.6 GHz on a skerry (R117, R130, R334). -/
def periodOf (u : Nat) : Nat := if isSkerry u then 5 else 2
/-- The clock domain of a unit: its Cape die's, or its base die's or Holm die's (R2, R334). -/
def clockOf (u : Nat) : Nat := if isSkerry u then 16 + dieOf u * 2 + clusterOf u / 64 else dieOf u

/-! ### Accessors of the state's maps -/

def State.th (s : State) (t : Nat) : Thread := AMap.get {} s.threads t
def State.setTh (s : State) (t : Nat) (v : Thread) : State := { s with threads := AMap.set s.threads t v }
def State.core (s : State) (u : Nat) : Core := AMap.get {} s.units u
def State.setCore (s : State) (u : Nat) (v : Core) : State := { s with units := AMap.set s.units u v }
def State.cluster (s : State) (c : Nat) : Cluster := AMap.get {} s.clusters c
def State.setCluster (s : State) (c : Nat) (v : Cluster) : State := { s with clusters := AMap.set s.clusters c v }
def State.ctx (s : State) (c : Nat) : Ctx := AMap.get {} s.ctxs c
def State.setCtx (s : State) (c : Nat) (v : Ctx) : State := { s with ctxs := AMap.set s.ctxs c v }
def State.stream (s : State) (k : Nat) : Stream := AMap.get {} s.streams k
def State.setStream (s : State) (k : Nat) (v : Stream) : State := { s with streams := AMap.set s.streams k v }
def State.queue (s : State) (q : Nat) : Queue := AMap.get {} s.queues q
def State.setQueue (s : State) (q : Nat) (v : Queue) : State := { s with queues := AMap.set s.queues q v }
def State.home (s : State) (h : Nat) : Home := AMap.get {} s.homes h
def State.setHome (s : State) (h : Nat) (v : Home) : State := { s with homes := AMap.set s.homes h v }
def State.tlb (s : State) (b : Nat) : List TlbEntry := AMap.get [] s.tlbs b
def State.setTlb (s : State) (b : Nat) (v : List TlbEntry) : State := { s with tlbs := AMap.set s.tlbs b v }
def State.setPkg (s : State) (p : Pkg) : State := { s with pkg := p }
def State.updTh (s : State) (t : Nat) (f : Thread → Thread) : State := s.setTh t (f (s.th t))
def State.updCore (s : State) (u : Nat) (f : Core → Core) : State := s.setCore u (f (s.core u))
def State.updCtx (s : State) (k : Nat) (f : Ctx → Ctx) : State := s.setCtx k (f (s.ctx k))
def State.updStream (s : State) (k : Nat) (f : Stream → Stream) : State := s.setStream k (f (s.stream k))
def State.updQueue (s : State) (q : Nat) (f : Queue → Queue) : State := s.setQueue q (f (s.queue q))
def State.updCluster (s : State) (c : Nat) (f : Cluster → Cluster) : State := s.setCluster c (f (s.cluster c))
def State.updHome (s : State) (h : Nat) (f : Home → Home) : State := s.setHome h (f (s.home h))

/-- An event's k-th argument. -/
def State.arg (s : State) (k : Nat) : Nat := s.ev.getD k 0
/-- A new ticket. -/
def State.tick (s : State) : Nat × State := (s.fresh, { s with fresh := s.fresh + 1 })
/-- An event put behind those already waiting. -/
def State.push (s : State) (e : Instr) (args : List Nat) : State := { s with agenda := s.agenda ++ [(e, args)] }
/-- An event due after `d` units of 1/8 ns. -/
def State.after (s : State) (d : Nat) (e : Instr) (args : List Nat) : State :=
  { s with timers := insertTimed s.timers (s.now + d) (e, args) }
/-- The next free value (log 4). -/
def State.drawFree (s : State) : Nat × State := (s.free, { s with free := s.free + 1 })

/-- One of several things where the spec does not define which: a free choice (log 4). -/
def State.choose {α : Type} (s : State) : List α → Option (α × State)
  | [] => none
  | [a] => some (a, s)
  | a :: b :: r =>
    let (n, s) := s.drawFree
    some ((a :: b :: r).getD ((Config.freeWord n).toNat % (r.length + 2)) a, s)

/-! ### Cycles (R19, R334) -/

/-- The count of a clock domain at this moment, with the period of its units; it never falls (R19). DESIGN CHOICE (log
2): it is the nominal clock's, moved by what the plan has let it drift. -/
def State.clockCount (s : State) (clock period : Nat) : Nat :=
  let d : Int × Nat := AMap.get (0, 0) s.skew clock
  max d.2 (((s.now + period - 1) / period : Nat) + d.1).toNat

/-- A unit's next cycle: its count, or the cycle that has come while it was idle. -/
def State.nextCycle (s : State) (u : Nat) : Nat := max (s.core u).cycle (s.clockCount (clockOf u) (periodOf u))

/-- The moment a unit reaches a cycle, in units of 1/8 ns. -/
def State.cycleTime (s : State) (u c : Nat) : Nat :=
  ((c : Int) - (AMap.get (0, 0) s.skew (clockOf u) : Int × Nat).1).toNat * periodOf u

/-- A clock domain that gains cycles on its nominal clock, or loses some: its count stays where it has come to until the
nominal clock has made them good (R19). -/
def State.drift (s : State) (clock : Nat) (n : Int) : State :=
  let d : Int × Nat := AMap.get (0, 0) s.skew clock
  { s with skew := AMap.set s.skew clock (d.1 + n, s.clockCount clock (if clock < 16 then 2 else 5)) }

/-! ### Locations -/

/-- The number of a location: its store's tag above its place in it. 0 local stores, 1 device DRAM, 2 host. -/
def locTag (l : Nat) : Nat := l / 2 ^ 70
def locIn (l : Nat) : Nat := l % 2 ^ 70
/-- A local-store byte: bits [32:0] of its window address (R174). -/
def locLocal (w : Nat) : Nat := w % 2 ^ 33
/-- A DRAM byte at a home's channel offset (R277). -/
def locDram (dev die home off : Nat) : Nat := 2 ^ 70 + ((dev * 16 + die) * 4096 + home) * 2 ^ 44 + off
/-- A host byte at a host physical address (R342). -/
def locHost (pa : Nat) : Nat := 2 * 2 ^ 70 + pa
def isLocal (l : Nat) : Bool := locTag l = 0
def isDram (l : Nat) : Bool := locTag l = 1
def isHost (l : Nat) : Bool := locTag l = 2
/-- The home of a location: a DRAM channel, a Cape core's store, or the host (R25, R175, R176). -/
def homeOf (l : Nat) : Nat :=
  if isDram l then locIn l / 2 ^ 44 else if isLocal l then 2 ^ 40 + locIn l / 2 ^ 15 else 2 ^ 41
def locOff (l : Nat) : Nat := locIn l % 2 ^ 44
/-- The device and die of a DRAM location. -/
def locDev (l : Nat) : Nat := locIn l / 2 ^ 60 % 128
def locDie (l : Nat) : Nat := locIn l / 2 ^ 56 % 16
def locHomeIx (l : Nat) : Nat := locIn l / 2 ^ 44 % 4096
/-- The unit that serves a location: the channel's skerry, or the core of a local store. -/
def unitOfLoc (l : Nat) : Nat :=
  if isDram l then mkSkerry (locDie l) (locHomeIx l) else locIn l / 2 ^ 15
/-- The bank of a DRAM location, unique over the package: home * 16 + bits [8:5] of the offset (R277). -/
def bankOf (l : Nat) : Nat := homeOf l * 16 + locOff l / 32 % 16
/-- The 8-byte word of a location, as a number (R202). -/
def wordOf (l : Nat) : Nat := l / 8

/-- The granule of an interleave code and the homes of a die (R176, R277). -/
def granule (il : Nat) : Nat := match il with | 0 => 256 | 1 => 4096 | _ => 65536
def homesOfDie (die : Nat) : Nat := if die < 8 then 128 else 16

/-- The location of physical offset p of a die under an interleave code (R176, R277). -/
def placeDram (dev die il p : Nat) : Nat :=
  let g := granule il
  let h := homesOfDie die
  locDram dev die (p / g % h) (p / (g * h) * g + p % g)

/-! ### Bytes and words -/

/-- Memory is a list of cells with rising addresses; an unlisted byte reads zero (R175, R177). -/
abbrev Memory := List Host.Cell

def readByte (m : Memory) (a : Nat) : Byte := AMap.get 0 m a
def writeByte (m : Memory) (a : Nat) (v : Byte) : Memory := if v = 0 then AMap.del m a else AMap.set m a v

/-- The canonical form: addresses strictly rising, no listed zero. -/
def Memory.wf : Memory → Bool
  | [] => true
  | [(_, v)] => v ≠ 0
  | (a, v) :: (b, w) :: m => v ≠ 0 && a < b && Memory.wf ((b, w) :: m)

/-- n bytes from a, little-endian (R20). -/
def readNat (m : Memory) (a : Nat) : Nat → Nat
  | 0 => 0
  | n + 1 => (readByte m a).toNat + 256 * readNat m (a + 1) n

/-- The low n bytes of v stored at a, little-endian (R20). -/
def writeNat (m : Memory) (a : Nat) : Nat → Nat → Memory
  | 0, _ => m
  | n + 1, v => writeNat (writeByte m a (BitVec.ofNat 8 v)) (a + 1) n (v / 256)

def State.read (s : State) (l n : Nat) : Nat := readNat s.mem l n
def State.write (s : State) (l n v : Nat) : State := { s with mem := writeNat s.mem l n v }
def State.read64 (s : State) (l : Nat) : Word := BitVec.ofNat 64 (s.read l 8)
def State.write64 (s : State) (l : Nat) (v : Word) : State := s.write l 8 v.toNat

/-- The full/empty bit of the word at l (R175, R177): true is full. -/
def State.full (s : State) (l : Nat) : Bool := !s.empties.contains (wordOf l)
def State.setFull (s : State) (l : Nat) (f : Bool) : State :=
  { s with empties := if f then setErase s.empties (wordOf l) else setInsert s.empties (wordOf l) }

/-- Whether any word of the n bytes at l is poisoned (R178), or is a host word the host aborts (R342). -/
def State.isPoison (s : State) (l n : Nat) : Bool :=
  s.poison.contains (wordOf l) || s.poison.contains (wordOf (l + n - 1)) ||
  (isHost l && (s.pkg.hostAbort.contains (wordOf l) || s.pkg.hostAbort.contains (wordOf (l + n - 1))))
def State.setPoison (s : State) (l : Nat) (p : Bool) : State :=
  { s with poison := if p then setInsert s.poison (wordOf l) else setErase s.poison (wordOf l) }

/-- An 8-byte word written whole: its poison clears (R178). -/
def State.putWord (s : State) (l : Nat) (v : Word) : State := (s.write64 l v).setPoison l false

/-- Bytes stored one after another from l. -/
def State.writeBytes (s : State) (l : Nat) : List Byte → State
  | [] => s
  | b :: bs => State.writeBytes (s.write l 1 b.toNat) (l + 1) bs

/-- The n bytes from l. -/
def State.readBytes (s : State) (l : Nat) : Nat → List Byte
  | 0 => []
  | n + 1 => readByte s.mem l :: State.readBytes s (l + 1) n

/-- Whether a device can be reached: the own one always, another through an UP port that leads to it (R349). -/
def State.reachable (s : State) (dev : Nat) : Bool :=
  dev = s.pkg.device || s.pkg.routes.any (fun (p, d) => d = dev && s.pkg.linkst.getLsbD p)

/-! ### The status register as a word (R12) -/

def St.toWord (x : St) : Word :=
  BitVec.ofNat 64 ((if x.mode then 2 ^ 63 else 0) + (if x.ppRlx then 2 ^ 62 else 0) +
    (if x.ppFmt then 2 ^ 61 else 0) + x.pfxF.toNat * 2 ^ 38 + x.pfxR.toNat * 2 ^ 15 + x.wst.toNat * 2 ^ 12 +
    x.fpf.toNat * 2 ^ 7)

def St.ofWord (w : Word) : St where
  mode := w.getLsbD 63
  ppRlx := w.getLsbD 62
  ppFmt := w.getLsbD 61
  pfxF := w.extractLsb' 38 23
  pfxR := w.extractLsb' 15 23
  wst := w.extractLsb' 12 3
  fpf := w.extractLsb' 7 5

/-- The WST codes (R12). -/
def wstOK : BitVec 3 := 0
def wstTIMEOUT : BitVec 3 := 1
def wstSHALLOW : BitVec 3 := 2
def wstEMPTY : BitVec 3 := 3
def wstREFUSED : BitVec 3 := 4
def wstGATED : BitVec 3 := 5

/-! ### Beacon time (R337) -/

/-- Elapsed nanoseconds. -/
def State.ns (s : State) : Nat := s.now / 8

/-- How much of its rest a clock has slewed by a moment, at 200 ppm; and what it stands at, apart from elapsed time
(R337). -/
def Clock.slewed (c : Clock) (ns : Nat) : Int :=
  let n := min c.rest.natAbs ((ns - c.since) / 5000)
  if c.rest < 0 then -(n : Int) else n
def Clock.at_ (c : Clock) (ns : Nat) : Int := c.base + c.slewed ns
/-- A clock as it stands, with another rest to slew from now on. -/
def Clock.aim (c : Clock) (ns : Nat) (rest : Int) : Clock := { base := c.at_ ns, since := ns, rest := rest }

/-- TIME of the package master (R337). -/
def State.masterTime (s : State) : Int := s.ns + s.pkg.master.at_ s.ns

/-- TIME of a die as a number: its own clock's, which the master keeps within 2 ns of its own, so that two dies differ by
at most 4 (R337). -/
def State.dieTime (s : State) (die : Nat) : Int :=
  if AMap.has s.pkg.dies die then
    max (s.masterTime - 2) (min (s.masterTime + 2) (s.ns + (AMap.get {} s.pkg.dies die : Clock).at_ s.ns))
  else s.masterTime

/-- TIME of a die (R337). Die 12 is the package master's. -/
def State.time (s : State) (die : Nat) : Word := BitVec.ofInt 64 (s.dieTime die)

/-- The part of a found offset that is still to be removed, in ns (R337). -/
def State.offset (s : State) : Nat := (s.pkg.master.rest - s.pkg.master.slewed s.ns).natAbs

/-- The bound of HOLDOVER, in ns: the LOCKED value, what the loss left unremoved, and 1 ns for each 20 ms since (R337). -/
def State.holdBound (s : State) : Nat := 10 + s.pkg.asym + s.pkg.residue + (s.ns - s.pkg.holdSince) / 20000000

/-- TERR (R337): all ones in FREE; 8 + ASYM + 2 when LOCKED, with the offset still to be removed; in HOLDOVER 1 ns
more per 20 ms. All ones until more than 1 microsecond after a step of TIME, so that every pair holds (R338). -/
def State.terr (s : State) : Word :=
  if s.ns < s.pkg.freeUntil then BitVec.allOnes 64 else match s.pkg.beacon with
  | .free => BitVec.allOnes 64
  | .locked => BitVec.ofNat 64 (10 + s.pkg.asym + s.offset)
  | .holdover => BitVec.ofNat 64 s.holdBound

/-! ### Queue handles (R141) -/

def queueOfHandle (h : Word) : Nat := h.toNat / 2 ^ 35
def handleOfQueue (q : Nat) : Word := BitVec.ofNat 64 (q * 2 ^ 35)
def homeOfQueue (q : Nat) : Nat := q / 64

/-- A malformed handle (R141). A device of the domain is the own one or one a port leads to. -/
def State.handleBad (s : State) (h : Word) : Bool :=
  let dev := bits h 63 57
  let die := bits h 56 53
  let home := bits h 52 41
  bits h 34 0 ≠ 0 || 12 ≤ die || (if die < 8 then 128 ≤ home else 16 ≤ home) ||
  !(dev = s.pkg.device || s.pkg.routes.any (fun r => r.2 = dev))

/-! ### Engine contexts (R217, R223) -/

def ctxKey (eng die cluster c : Nat) : Nat := ((eng * 16 + die) * 128 + cluster) * 8 + c
def ctxEng (k : Nat) : Nat := k / 2 ^ 14
def ctxDie (k : Nat) : Nat := k / 2 ^ 10 % 16
def ctxCluster (k : Nat) : Nat := k / 8 % 128
def ctxNo (k : Nat) : Nat := k % 8

end Sys2Proof.Machine
end

