-- ==== Sys2Proof/Machine/Xlat.lean ====
section
/-!
DEFINITION. Address translation and region control blocks (R21, R138-R140, R174, R302-R309, R368).
-/

namespace Sys2Proof.Machine

/-! ### Cause codes (R289) -/

def cILLOP : Nat := 0x01
def cILLFLD : Nat := 0x02
def cREGRANGE : Nat := 0x03
def cPRIV : Nat := 0x04
def cALIGN : Nat := 0x05
def cPAGE : Nat := 0x06
def cPROT : Nat := 0x07
def cWAITLIMIT : Nat := 0x08
def cPOSTREF : Nat := 0x09
def cARITH : Nat := 0x0A
def cPOISON : Nat := 0x0B
def cPAIRDIFF : Nat := 0x0C
def cMXDOWN : Nat := 0x0D
def cCAPFAIL : Nat := 0x0E
def cSTREAMERR : Nat := 0x0F
def cXCENTRE : Nat := 0x10
def cTBLERR : Nat := 0x11
def cTRAPCALL : Nat := 0x12
def cBREAK : Nat := 0x13
def cENGFAULT : Nat := 0x14
def cQUEUE : Nat := 0x15
def cMIGREF : Nat := 0x16
def cNOUNIT : Nat := 0x17

/-! ### The walk (R302-R304) -/

/-- A window address (R21). -/
def isWindow (va : Word) : Bool := bits va 63 56 = 0xFE

/-- A canonical virtual address: bits [63:55] all equal bit 54 (R21). -/
def isCanonical (va : Word) : Bool := !isWindow va && (bits va 63 54 = 0 || bits va 63 54 = 1023)

/-- A malformed entry at a level (R303). -/
def pteMalformed (dev : Nat) (e : Word) (lvl : Nat) : Bool :=
  let die := bits e 56 53
  bits e 52 48 ≠ 0 || bits e 15 10 ≠ 0 || e.getLsbD 1 ||
  (if e.getLsbD 2 then
    lvl = 1 || (12 ≤ die && die ≤ 14) || bits e 8 7 = 3 ||
    (die = 15 && (bits e 8 7 ≠ 0 || bits e 63 57 ≠ 0)) || (lvl = 2 && bits e 28 16 ≠ 0)
  else lvl = 3 || bits e 15 3 ≠ 0 || bits e 63 57 ≠ dev || 8 ≤ die)

/-- The location a pointer entry's table has at byte k: near-tier DRAM, homed as with IL 0 (R303). -/
def tableLoc (e : Word) (k : Nat) : Nat := placeDram (bits e 63 57) (bits e 56 53) 0 (bits e 47 16 * 2 ^ 16 + k)

/-- The walk from an entry at a level (R304): the leaf and its level, or none for PAGE. -/
def walkFrom (s : State) (va : Word) : Nat → Nat → Word → Option (Word × Nat)
  | 0, _, _ => none
  | fuel + 1, lvl, e =>
    let l := tableLoc e (8 * bits va (67 - 13 * lvl) (55 - 13 * lvl))
    let e' := s.read64 l
    if s.isPoison l 8 || !e'.getLsbD 0 || pteMalformed s.pkg.device e' lvl then none
    else if e'.getLsbD 2 then some (e', lvl) else walkFrom s va fuel (lvl + 1) e'

/-- walk(root, va) of R304. A ROOTPT that is no valid pointer entry faults like any malformed entry (R303). -/
def walk (s : State) (root va : Word) : Option (Word × Nat) :=
  if !root.getLsbD 0 || root.getLsbD 2 || pteMalformed s.pkg.device root 0 then none
  else walkFrom s va 3 1 root

/-- The page number of an address at a leaf's level (R302). -/
def pageOf (va : Word) (lvl : Nat) : Nat := if lvl = 2 then bits va 54 29 else bits va 54 16

/-- The buffered leaf for an address, if a buffer holds one (R306). -/
def tlbFind (l : List TlbEntry) (root va : Word) : Option (Word × Nat) :=
  match l.find? (fun e => e.root = root && e.page = pageOf va e.level) with
  | some e => some (e.leaf, e.level)
  | none => none

/-- The translation buffer a unit uses: its cluster's, its base die's or its Holm die's (R306). -/
def tlbOfUnit (u : Nat) : Nat := if isSkerry u then 2 ^ 12 + dieOf u * 2 + clusterOf u / 64 else clusterKey u

/-- The buffer an engine context uses: its cluster's, or that of its base die or Holm die; contexts 4 to 7 of
gather/scatter are stack 1's (R217, R306). -/
def tlbOfCtx (k : Nat) : Nat :=
  if ctxEng k = 0 || ctxEng k = 4 then ctxDie k * 128 + ctxCluster k
  else 2 ^ 12 + ctxDie k * 2 + (if ctxEng k = 5 then ctxNo k / 4 else if ctxEng k = 6 then ctxCluster k / 64 else 0)

/-- The leaf for an address, buffered or walked (R304, R306). -/
def leafOf (s : State) (buf : Nat) (root va : Word) : Option (Word × Nat) :=
  match tlbFind (s.tlb buf) root va with
  | some r => some r
  | none => walk s root va

/-- The location of an address under its leaf (R302, R176, R342). -/
def locOfLeaf (va leaf : Word) (lvl : Nat) : Nat :=
  let off := if lvl = 2 then bits va 28 0 else bits va 15 0
  let p := bits leaf 47 16 * 2 ^ 16 + off
  if bits leaf 56 53 = 15 then locHost p else placeDram (bits leaf 63 57) (bits leaf 56 53) (bits leaf 8 7) p

/-- An access right: read, write, both, execute (R305). -/
inductive Right where
  | r | w | rw | x
  deriving DecidableEq, Repr

/-- Whether a leaf grants an access to a user or a supervisor (R305). -/
def grants (leaf : Word) (need : Right) (user : Bool) : Bool :=
  (match need with
   | .r => leaf.getLsbD 3 | .w => leaf.getLsbD 4 | .rw => leaf.getLsbD 3 && leaf.getLsbD 4 | .x => leaf.getLsbD 5) &&
  (!user || leaf.getLsbD 6)

/-- A buffered leaf that denies an access leaves its buffer before the page is walked again (R306). -/
def State.dropDenied (s : State) (buf : Nat) (root va : Word) (need : Right) (user : Bool) : State :=
  match (if isCanonical va then tlbFind (s.tlb buf) root va else none) with
  | some (leaf, lvl) => if grants leaf need user then s
      else s.setTlb buf ((s.tlb buf).filter (fun e => !(e.root = root && e.level = lvl && e.page = pageOf va lvl)))
  | none => s

/-- Translation and check of a canonical address: the location, or PAGE or PROT. A buffered leaf that denies is walked
again before PROT (R306). -/
def translate (s : State) (buf : Nat) (root va : Word) (need : Right) (user : Bool) : Except Nat Nat :=
  match leafOf s buf root va with
  | none => .error cPAGE
  | some (leaf, lvl) =>
    if grants leaf need user then .ok (locOfLeaf va leaf lvl)
    else match walk s root va with
      | none => .error cPAGE
      | some (leaf', lvl') => if grants leaf' need user then .ok (locOfLeaf va leaf' lvl') else .error cPROT

/-! ### Region control blocks (R138-R140, R368) -/

/-- A home on a device that cannot be reached (R349). -/
def State.outOfReach (s : State) (l : Nat) : Bool := isDram l && !s.reachable (locDev l)

/-- A host word whose requests the host aborts (R342). -/
def State.hostAborts (s : State) (l : Nat) : Bool := isHost l && s.pkg.hostAbort.contains (wordOf l)

/-- A doubleword of memory at a virtual address under a root, with the R right and no U right asked; none where the reply is
poisoned, as an unreachable device's and an aborting host's are (R342, R349, R368). -/
def rootRead (s : State) (root va : Word) : Option Word :=
  if !isCanonical va || bits va 2 0 ≠ 0 then none
  else match walk s root va with
    | none => none
    | some (leaf, lvl) =>
      let l := locOfLeaf va leaf lvl
      if !leaf.getLsbD 3 || s.isPoison l 8 || s.outOfReach l || s.hostAborts l then none else some (s.read64 l)

/-- A field of an RCB's own image. -/
def rcbOwn (s : State) (root rcb : Word) (off : Nat) : Option Word := rootRead s root (rcb + BitVec.ofNat 64 off)

/-- The effective value of a field: the parent's where the INHERIT bit is 1 and there is a parent (R138). -/
def rcbEff (s : State) (root : Word) (off bit : Nat) : Nat → Word → Option Word
  | 0, _ => none
  | fuel + 1, rcb => do
    let parent ← rcbOwn s root rcb 0
    let misc ← rcbOwn s root rcb 96
    if parent ≠ 0 && misc.getLsbD (48 + bit) then rcbEff s root off bit fuel parent
    else rcbOwn s root rcb off

/-- A region tree is at most 16 levels deep (R138). -/
def treeDepth : Nat := 16

def effHandler (s : State) (root rcb : Word) : Option Word := rcbEff s root 40 5 treeDepth rcb
def effFdom (s : State) (root rcb : Word) : Option Word := rcbEff s root 32 4 treeDepth rcb
def effWaitLim (s : State) (root rcb : Word) : Option Word := rcbEff s root 48 6 treeDepth rcb
def effSched (s : State) (root rcb : Word) : Option Word := rcbEff s root 24 3 treeDepth rcb
def effGrants (s : State) (root rcb : Word) : Option Word := rcbEff s root 72 9 treeDepth rcb
def effSave (s : State) (root rcb : Word) : Option Word := rcbEff s root 56 7 treeDepth rcb
def effSaveLen (s : State) (root rcb : Word) : Option Word := rcbEff s root 64 8 treeDepth rcb

/-- NWIN alone of MISC is inherited, by bit 12 (R138). -/
def effNwin (s : State) (root rcb : Word) : Option Nat := (rcbEff s root 96 12 treeDepth rcb).map (fun w => bits w 31 0)

/-- A cluster budget (R139). -/
structure Budget where
  dies : Nat
  clo : Nat
  chi : Nat
  slotcap : Nat
  deriving DecidableEq, Repr

/-- A BUDGET field as a budget; SLOTCAP 0 is 63 (R139). -/
def Budget.ofWord (w : Word) : Budget :=
  let c := bits w 29 24
  { dies := bits w 7 0, clo := bits w 14 8, chi := bits w 22 16, slotcap := if c = 0 then 63 else c }

/-- The effective budget: the parent's, or the intersection with it (R139). -/
def effBudget (s : State) (root : Word) : Nat → Word → Option Budget
  | 0, _ => none
  | fuel + 1, rcb => do
    let parent ← rcbOwn s root rcb 0
    let misc ← rcbOwn s root rcb 96
    let own ← rcbOwn s root rcb 16
    let b := Budget.ofWord own
    if parent = 0 then pure b
    else
      let p ← effBudget s root fuel parent
      if misc.getLsbD 50 then pure p
      else pure { dies := b.dies &&& p.dies, clo := max b.clo p.clo, chi := min b.chi p.chi,
                  slotcap := min b.slotcap p.slotcap }

def Budget.empty (b : Budget) : Bool := b.dies = 0 || b.chi < b.clo || 98 ≤ b.clo
def Budget.hasDie (b : Budget) (die : Nat) : Bool := die < 8 && b.dies.testBit die
def Budget.hasCluster (b : Budget) (die cluster : Nat) : Bool :=
  b.hasDie die && b.clo ≤ cluster && cluster ≤ b.chi && cluster < 98

/-- The must-be-zero bits of one RCB image: of BUDGET, SCHED, MISC and GRANTS (R138, R139, R328). -/
def rcbMbzOk (s : State) (root rcb : Word) : Option Bool := do
  let b ← rcbOwn s root rcb 16
  let c ← rcbOwn s root rcb 24
  let m ← rcbOwn s root rcb 96
  let g ← rcbOwn s root rcb 72
  pure (bits b 63 30 = 0 && !b.getLsbD 23 && !b.getLsbD 15 && bits c 31 19 = 0 && bits c 15 3 = 0 &&
    bits m 47 32 = 0 && bits g 63 16 = 0 && bits g 7 4 = 0)

/-- The root of an RCB's tree, if it is within 16 levels. -/
def rcbRoot (s : State) (root : Word) : Nat → Word → Option Word
  | 0, _ => none
  | fuel + 1, rcb => do
    let parent ← rcbOwn s root rcb 0
    if parent = 0 then pure rcb else rcbRoot s root fuel parent

/-- Whether `anc` is `rcb` or above it. -/
def rcbUnder (s : State) (root anc : Word) : Nat → Word → Bool
  | 0, _ => false
  | fuel + 1, rcb =>
    rcb = anc || (match rcbOwn s root rcb 0 with
      | some p => p ≠ 0 && rcbUnder s root anc fuel p
      | none => false)

/-- Whether an RCB passes R140 and R368: readable chain, zero bits, a budget with a cluster, a root RCB whose ROOTPT
is the one held. -/
def rcbOk (s : State) (root rcb : Word) : Bool :=
  bits rcb 5 0 = 0 &&
  (match rcbMbzOk s root rcb, effBudget s root treeDepth rcb, rcbRoot s root treeDepth rcb with
   | some z, some b, some r => z && !b.empty && rcbOwn s root r 8 = some root
   | _, _, _ => false)

/-- The energy counter of a root region: the root RCB of a region's tree, under its ROOTPT (R355). DESIGN CHOICE
(log 33): where the chain cannot be read, the counter of root RCB address 0. -/
def State.rootKey (s : State) (root rcb : Word) : Nat :=
  root.toNat * 2 ^ 64 + ((rcbRoot s root treeDepth rcb).getD 0).toNat
def State.energyOf (s : State) (root rcb : Word) : Nat := AMap.get 0 s.pkg.energy (s.rootKey root rcb)

/-- The energies of R3 in hundredths of a picojoule: a multiply-accumulate in the array, a byte from the scratchpad to
the array, a byte read from HBM4E. -/
def macEnergy : Nat := 12
def scratchEnergy : Nat := 90
def hbmEnergy : Nat := 8 * 350

/-- Work on a die charged to a region's root (R355). -/
def State.charge (s : State) (die : Nat) (root rcb : Word) (e : Nat) : State :=
  if e = 0 then s
  else
    let k := die * 2 ^ 128 + s.rootKey root rcb
    s.setPkg { s.pkg with work := AMap.set s.pkg.work k (AMap.get 0 s.pkg.work k + e) }

/-- Whether a location lies in the package's HBM4E. -/
def State.inHbm (s : State) (l : Nat) : Bool := isDram l && locDev l = s.pkg.device && locDie l < 8

/-- Whether an agent can use an RCB at a moment: its chain reads and its root's ROOTPT is the one held (R368). -/
def rcbUsable (s : State) (root rcb : Word) : Bool :=
  bits rcb 5 0 = 0 && match rcbRoot s root treeDepth rcb with
  | some r => rcbOwn s root r 8 = some root
  | none => false

/-! ### A thread's or engine's own accesses -/

/-- A window address in a local store and in the budget (R63 order 3, R174). DESIGN CHOICE (log 33): an RCB chain that
cannot be read gives no budget, so the access traps PROT. -/
def windowOk (s : State) (root rcb va : Word) : Bool :=
  bits va 55 33 = 0 && bits va 32 29 < 8 && bits va 28 22 < 98 && bits va 14 0 < 0x6000 &&
  (match effBudget s root treeDepth rcb with
   | some b => b.hasCluster (bits va 32 29) (bits va 28 22)
   | none => false)

/-- R63 orders 2 to 5: the location of an address for an access, or PAGE or PROT. -/
def resolve (s : State) (buf : Nat) (root rcb va : Word) (need : Right) (user : Bool) : Except Nat Nat :=
  if isWindow va then
    if windowOk s root rcb va then .ok (locLocal va.toNat) else .error cPROT
  else if !isCanonical va then .error cPAGE
  else translate s buf root va need user

/-- The same for a thread, in its unit, region and mode. -/
def threadResolve (s : State) (t : Nat) (va : Word) (need : Right) : Except Nat Nat :=
  let th := s.th t
  resolve s (tlbOfUnit (unitOfThread t)) th.root th.rcb va need (!th.st.mode)

/-- The level of the leaf under which a thread's access is translated, 0 for a window address (R302, R308). -/
def State.levelOf (s : State) (t : Nat) (va : Word) : Nat :=
  if !isCanonical va then 0
  else match leafOf s (tlbOfUnit (unitOfThread t)) (s.th t).root va with
    | some (_, lvl) => lvl
    | none => 0

/-- The same for n words from an address on. -/
def State.levelsOf (s : State) (t : Nat) (va : Word) (n : Nat) : List Nat :=
  (upTo n).map (fun k => s.levelOf t (va + BitVec.ofNat 64 (8 * k)))

/-- INFO of the cause: 1 read (also for an amo), 2 write, 4 fetch (R297, R309). -/
def accessInfo : Right → Nat
  | .r => 1 | .w => 2 | .rw => 1 | .x => 4

end Sys2Proof.Machine
end

