-- ==== Sys2Proof/Machine/Admit.lean ====
section
/-!
DEFINITION. Requests under way and their admission at homes: where an access goes, what closes a home, the order of
accesses that wait there (R183, R205, R228, R282, R347), and what an interruption does to a parked instruction
(R187, R367).
-/

namespace Sys2Proof.Machine

/-! ### Where an access goes -/

/-- The location of an offset of the slot window that the handler slot of a unit sees (R296). -/
def locWindow (h off : Nat) : Nat := 3 * 2 ^ 70 + h * 2 ^ 12 + off
def isSlotWin (l : Nat) : Bool := locTag l = 3
def winHandler (l : Nat) : Nat := locIn l / 2 ^ 12
def winOff (l : Nat) : Nat := locIn l % 2 ^ 12

/-- The unit that is a location's home, if it is one of this device (R175, R176). -/
def State.homeUnit (s : State) (l : Nat) : Option Nat :=
  if isSlotWin l then some (unitOfThread (winHandler l))
  else if isLocal l then some (unitOfLoc l)
  else if isDram l && locDev l = s.pkg.device then some (unitOfLoc l)
  else none

/-- Another device, or 128 for the host: where a request leaves the device (R205). -/
def State.destOf (s : State) (l : Nat) : Option Nat :=
  if isHost l then some 128 else if isDram l && locDev l ≠ s.pkg.device then some (locDev l) else none

/-! ### Admission (R228, R282, R347) -/

/-- The offset in its die of a DRAM location under an interleave code: the inverse of `placeDram`. -/
def dieOffset (l il : Nat) : Nat :=
  let g := granule il
  (locOff l / g * homesOfDie (locDie l) + locHomeIx l) * g + locOff l % g

/-- Whether a location lies in the frame that a leaf names (R303). -/
def inFrame (l : Nat) (leaf : Word) : Bool :=
  isDram l && locDev l = bits leaf 63 57 && locDie l = bits leaf 56 53 &&
  dieOffset l (bits leaf 8 7) / 2 ^ 16 = bits leaf 47 16

/-- Whether a location's frame is in transit for another context than `ctx` (R347). -/
def State.inTransit (s : State) (l : Nat) (ctx : Option Nat) : Bool :=
  s.ctxs.any (fun (k, c) => some k ≠ ctx && match c.held with | some leaf => inFrame l leaf | none => false)

/-- The bank MAC context of a channel (R279). -/
def bmacCtx (l : Nat) : Nat := ctxKey 6 (locDie l) (locHomeIx l) 0

/-- The port of a home at which its queue operations arrive: a location in none of its banks. -/
def portOf (dev die home : Nat) : Nat := locDram dev die home (2 ^ 43)
def isPort (l : Nat) : Bool := locOff l = 2 ^ 43

/-- Why a home does not admit an access of a context (none: of a thread), if it does not: a page in transit, all-bank
mode, or another context's bank reservation. -/
def State.closed (s : State) (l : Nat) (ctx : Option Nat) : Option Await :=
  if isDram l && locDev l = s.pkg.device then
    if s.inTransit l ctx then some (.transit l)
    else if (s.core (unitOfLoc l)).bankOn && ctx ≠ some (bmacCtx l) then some (.home l)
    else if !isPort l && (s.home (homeOf l)).banks.any (fun (b, c) => b = bankOf l && some c ≠ ctx) then some (.home l)
    else none
  else none

/-! ### Requests under way -/

/-- The request of a ticket. -/
def State.req (s : State) (k : Nat) : Req := AMap.get {} s.reqs k
def State.setReq (s : State) (k : Nat) (r : Req) : State := { s with reqs := AMap.set s.reqs k r }
def State.dropReq (s : State) (k : Nat) : State := { s with reqs := AMap.del s.reqs k }

/-- Whether every part of a request has been performed, the parts that have not, and the answers in order. -/
def Req.complete (r : Req) : Bool := (upTo r.parts.length).all (fun p => AMap.has r.got p)
def Req.unperformed (r : Req) : List Nat := (upTo r.parts.length).filter (fun p => !AMap.has r.got p)
def Req.answers (r : Req) : List Reply := (upTo r.parts.length).map (fun p => AMap.get {} r.got p)

/-- A request forgotten, also by its egress queue. -/
def State.endReq (s : State) (k : Nat) : State :=
  let s := s.dropReq k
  s.setPkg { s.pkg with egress := s.pkg.egress.filter (· ≠ k) }

/-- An RLX load over, every unit's forwarding entries for it free (R201). -/
def State.endLoad (s : State) (k : Nat) : State :=
  let free : Nat × Core → Nat × Core := fun x => (x.1, { x.2 with forward := x.2.forward.filter (fun f => f.1 ≠ k) })
  { s.endReq k with units := (s.endReq k).units.map free }

/-- A request taken out of its home's waiters and forgotten. -/
def State.cancelReq (s : State) (k : Nat) : State :=
  let h := homeOf ((s.req k).parts.headD 0)
  (s.updHome h (fun x => { x with waiters := x.waiters.filter (· ≠ k) })).endReq k

/-- Whether a request waits at its home for a full/empty bit. -/
def State.waiting (s : State) (k : Nat) : Bool := (s.home (homeOf ((s.req k).parts.headD 0))).waiters.contains k

/-! ### Order before a request is performed (R183, R205, R228) -/

/-- Whether an unperformed part of a request touches one of some words. -/
def Req.touches (r : Req) (words : List Nat) : Bool :=
  r.unperformed.any (fun k => words.contains (wordOf (r.parts.getD k 0)))

/-- Whether an earlier request of the thread to one of the words is still to be performed (R183). -/
def State.earlier (s : State) (uid before : Nat) (words : List Nat) : Bool :=
  s.reqs.any (fun (k, r) => k < before && r.uid = uid && r.touches words)

/-- Whether an accepted store stands in the egress queue of a destination, before ticket `k` (R205). -/
def State.egressBefore (s : State) (dest k : Nat) : Bool :=
  (s.pkg.egress.takeWhile (· ≠ k)).any (fun j => s.destOf ((s.req j).parts.headD 0) = some dest)

/-- Whether a location belongs to a home of this device and is open, so that an access parked on it goes on. -/
def State.opened (s : State) (h l : Nat) : Bool :=
  homeOf l = h && isDram l && locDev l = s.pkg.device && (s.closed l none).isNone

/-- The number and location under which an access that waits for its home is tried again: the host's, a launch's, those of
spills and restores, notifications, fault-domain rings, retires, fills, near dispatches, and reads of HANDLER and WAITLIM
(R199, R200, R228, R298, R301, R340, R344, R351). -/
def waitingAt : Instr → List Nat → Option (Nat × Nat)
  | .hostMemRead, [_, _, k, l] | .hostMemWrite, [_, _, _, _, k, l] | .launch, [k, l] | .inboundSpill, [_, _, k, l]
  | .spillRestore, [_, k, l] | .nwinExpiry, [_, _, _, k, l] | .trapRecordResend, [k, l] | .trapRecordResend, [_, k, l]
  | .retire, [_, _, _, k, l] | .delegationServe, [_, k, l] | .depthAlert, [_, _, k, l] | .handlerFill, [_, k, l]
  | .nearDispatch, [_, _, k, l] | .contextMessageArrival, [_, k, l] | .bufferedContextFill, [_, k, l]
  | .trapRecordDelivery, [_, _, k, l] | .waitlimitExpiry, [_, _, k, l] => some (k, l)
  | _, _ => none

/-- The location whose closed home an await names. -/
def Await.closedAt : Await → Option Nat
  | .home l | .transit l | .fetch l => some l
  | _ => none

/-- The closed home that a parked thread's access or fetch awaits: the access's location. -/
def Park.atHome (p : Park) : Option Nat := p.await.closedAt

/-- The accesses that have arrived at closed homes, each with its number and location: of requests that no earlier one of their
thread to the same word holds back, parked threads, the host, the device's own agents, engine commands, steals and expansion
units. -/
def State.arrivals (s : State) : List (Nat × Nat) :=
  s.reqs.flatMap (fun (j, r) => (r.arrived.filter (fun q => !AMap.has r.got q.1 &&
    !s.earlier r.uid j [wordOf (r.parts.getD q.1 0)])).map (fun q => (q.2, r.parts.getD q.1 0))) ++
  s.threads.filterMap (fun (_, th) => if th.status ≠ .park then none
    else th.park.bind (fun p => p.atHome.map (fun l => (p.came, l)))) ++
  s.timers.filterMap (fun (_, e, args) => waitingAt e args) ++
  s.ctxs.flatMap (fun (_, c) => c.cmds.filterMap (fun x => if x.state = .running then x.arrived else none)) ++
  s.steals.filterMap (fun (_, x) => x.arrived) ++
  s.units.flatMap (fun (_, c) => c.xpq.filterMap (·.arrived))

/-- Whether two locations belong to one arrival: of one home, and both or neither its queues' port (R145). -/
def sameArrival (l m : Nat) : Bool := homeOf l = homeOf m && isPort l = isPort m

/-- Whether an access that parked at a home before number `k` goes on now: accesses parked behind a closed home are
performed in their arrival order (R228, R282, R347). -/
def State.parkedBefore (s : State) (k h : Nat) : Bool := s.arrivals.any (fun (j, l) => j < k && s.opened h l)

/-- The number that orders a thread's access to a location among the parked ones: that under which it has arrived at this
home, or a new one. -/
def State.arrivalOf (s : State) (t l : Nat) : Nat :=
  match (s.th t).park with
  | some p => if p.atHome.any (sameArrival l) then p.came else s.fresh
  | none => s.fresh

/-- What holds up an access numbered `k` at its home: a closed home, or accesses that arrived there earlier (R228). -/
def State.shutFor (s : State) (k l : Nat) (ctx : Option Nat) : Option Await :=
  (s.closed l ctx).or (if s.parkedBefore k (homeOf l) then some (.home l) else none)

/-- What holds up an access of the device's own, of no thread or command, numbered `k`: its home, or the stores that left
for its destination earlier (R205, R228, R347). -/
def State.ownHeld (s : State) (k l : Nat) : Option Await :=
  (s.shutFor k l none).or (match s.destOf l with
    | some d => if s.egressBefore d 0 then some (.egress d) else none
    | none => none)
def State.ownShut (s : State) (k l : Nat) : Bool := (s.ownHeld k l).isSome

/-- An agent's access held up at a location, its event to come again: under the number with which the access first arrived
at that home, or a new one. -/
def State.comeAgain (s : State) (e : Instr) (args : List Nat) (k l : Nat) : State :=
  { s with fresh := max s.fresh (k + 1) }.after 8 e (args ++ [k, l])

/-- The number of an access that an event makes at a location, when the event's arguments from the n-th on tell that it has
waited at that home. -/
def State.numberAt (s : State) (n l : Nat) : Nat :=
  match s.ev.drop n with
  | [k, l'] => if sameArrival l' l then k else s.fresh
  | _ => s.fresh

/-- An agent's access held up for the first time, its event to come again. -/
def State.comeLater (s : State) (e : Instr) (args : List Nat) (a : Await) : State :=
  match a.closedAt with
  | some l => s.comeAgain e args s.fresh l
  | none => s.after 8 e args

/-- An agent's event that something holds up, to come again: behind a closed home under the number of its arrival there. -/
def State.tryAgain (s : State) (e : Instr) (args : List Nat) (a : Await) : State :=
  match a.closedAt with
  | some l => s.comeAgain e args (s.numberAt args.length l) l
  | none => s.after 8 e args

/-! ### Reads of region control blocks (R228, R347, R368) -/

/-- Whether no home of the device is closed to a thread for any reason, and nothing waits there or in an egress queue. -/
def State.allOpen (s : State) : Bool :=
  s.homes.all (fun p => p.2.banks.isEmpty) && s.units.all (fun p => !p.2.bankOn) && s.ctxs.all (fun p => p.2.held.isNone) &&
  s.pkg.egress.isEmpty && s.arrivals.isEmpty

/-- What holds up one of the four blocks of an RCB, as its root maps them; the read of a location comes under the number that
`k` gives (R205, R228, R347). -/
def State.blockShut (s : State) (k : Nat → Nat) (root rcb : Word) : Option Await :=
  (upTo 4).findSome? (fun j =>
    let va := rcb + BitVec.ofNat 64 (32 * j)
    if !isCanonical va then none
    else match walk s root va with
      | some (leaf, lvl) => s.ownHeld (k (locOfLeaf va leaf lvl)) (locOfLeaf va leaf lvl)
      | none => none)

/-- What holds up an RCB, or one above it that its fields may come from. Reads of an RCB, unlike a walk's, do not pass a bank
reservation (R228, R229). -/
def State.chainShut (s : State) (k : Nat → Nat) (root : Word) : Nat → Word → Option Await
  | 0, _ => none
  | n + 1, rcb => (s.blockShut k root rcb).or (match rcbOwn s root rcb 0 with
    | some parent => if parent = 0 then none else s.chainShut k root n parent
    | none => none)

/-- What holds up the reads of a region's RCB by an agent whose accesses come under the numbers that `k` gives, or new
ones. -/
def State.rcbShut (s : State) (root rcb : Word) (k : Nat → Nat := fun _ => s.fresh) : Option Await :=
  if s.allOpen then none else s.chainShut k root treeDepth rcb

/-! ### Interruption of a parked instruction (R187, R367) -/

/-- Whether a request can be cancelled: it waits at its home for a bit, or every word of it still to be performed is held
there by a bank reservation or all-bank mode. A `vmem` whose words have been stored in part is issued again as a whole; an
operation that has taken a task is not (R171, R367). -/
def State.cancellable (s : State) (k : Nat) : Bool :=
  let r := s.req k
  s.waiting k || (!r.complete &&
    r.unperformed.all (fun p => AMap.has r.arrived p && match s.closed (r.parts.getD p 0) none with
      | some (.home _) => true
      | _ => false) &&
    match r.op with | .taken _ _ _ _ _ => false | _ => true)

/-- Whether an interruption must wait for the parked instruction: a request has left and cannot be cancelled, or the join
word of a `tq.done` has been decremented (R240, R367). -/
def State.mustWait (s : State) (t : Nat) : Bool :=
  (s.th t).status = .park && match (s.th t).park with
  | some p => match p.await with
    | .reply k => !s.cancellable k
    | .transit _ | .egress _ | .sameWord _ | .window _ | .dlgReply _ | .matrix _ => true
    | .home _ => p.instr = .tqDone && !p.args.isEmpty
    | _ => false
  | none => false

/-- The threads that a thread's `sys.pre` holds out of rotation are let go (R317). -/
def State.letGo (s : State) (t : Nat) : State :=
  { s with threads := s.threads.map (fun (x : Nat × Thread) =>
    (x.1, if x.2.stopped = some t then { x.2 with stopped := none } else x.2)) }

/-- What an abandoned instruction leaves at the shared units and at homes (R52, R187). -/
def State.abandon (s : State) (t : Nat) : State :=
  match (s.th t).park with
  | some p => match p.await with
    | .reply k => s.cancelReq k
    | .divider => s.updCore (unitOfThread t) (fun c => { c with div := c.div.filter (fun r => r.thread ≠ t) })
    | .xp =>
      let s := match (s.th t).twin with
        | some (o, sec) => { s with pairs := AMap.del s.pairs (if sec then o else t) }
        | none => s
      s.updCore (unitOfThread t) (fun c => { c with xpq := c.xpq.filter (fun q => q.thread ≠ t) })
    | .pair => (match (s.th t).twin with
      | some (o, true) => { s with pairs := AMap.del s.pairs o }
      | _ => { s with pairs := AMap.del s.pairs t })
    | .otherPosted _ | .home _ | .transit _ | .egress _ => s.letGo t
    | _ => s
  | none => s

/-- A parked thread brought to a step boundary, its instruction abandoned, or none where the interruption must wait
(R187, R291, R317, R325, R367). -/
def State.unpark (s : State) (t : Nat) : Option State :=
  if s.mustWait t then none
  else if (s.th t).status ≠ .park then some s
  else some ((s.abandon t).updTh t (fun th => { th with status := .run, park := none }))

end Sys2Proof.Machine
end

