-- ==== Sys2Proof/Machine/SlotTable.lean ====
section
/-!
DEFINITION. The slot table: which slot issues in a cycle, lending, and the arbiter's rebuilding at rotation boundaries
(R121-R125, R134).
-/

namespace Sys2Proof.Machine

/-! ### Who issues (R121-R123) -/

/-- The threads of a unit's slots that are not FREE, with their slots. -/
def State.liveSlots (s : State) (u : Nat) : List (Nat × Thread) :=
  ((upTo (slotsOf u)).map (fun k => (k, s.th (u * 64 + k)))).filter (fun p => p.2.status ≠ .free || p.2.reserved)

/-- Whether two threads are of one region: one RCB address under one root (R368). -/
def Thread.sameRegion (x y : Thread) : Bool := x.rcb = y.rcb && x.root = y.root

/-- The cyclic distance of two entries of a table of n (R124). -/
def cyclicDist (n e f : Nat) : Nat := min ((e + n - f) % n) ((f + n - e) % n)

/-- An entry of a unit's slot table. -/
def Core.entry (c : Core) (e : Nat) : SlotEntry := AMap.get {} c.slotTab e

/-- Whether a slot may issue in cycle t (R122); one that `sys.pre` has taken out of rotation may not (R317). -/
def mayIssue (u t : Nat) (th : Thread) : Bool :=
  th.status = .run && !th.yielding && th.stopped.isNone && (match th.lastIssue with | some c => c + spacingOf u ≤ t | none => true)

/-- The better of two candidates: the earlier last issue, then the lower slot (R123). -/
def lendBest : List (Nat × Thread) → Option (Nat × Thread)
  | [] => none
  | p :: ps => match lendBest ps with
    | none => some p
    | some q => match p.2.lastIssue, q.2.lastIssue with
      | none, _ => some p
      | some _, none => some q
      | some a, some b => if a ≤ b then some p else some q

/-- The slot that issues in the present cycle of a unit (R122, R123). An entry that a former thread of its slot got is
nobody's until the next rotation boundary (R119). -/
def State.pickSlot (s : State) (u : Nat) : Option Nat :=
  let c := s.core u
  let x := c.entry (c.cycle % slotsOf u)
  let th := s.th (u * 64 + x.slot)
  if !x.valid || c.cycle / slotsOf u < th.entries then none
  else
    if mayIssue u c.cycle th then some x.slot
    else if th.status = .run || th.status = .park || th.status = .frozen || th.yielding then
      (lendBest ((s.liveSlots u).filter (fun p => p.2.sameRegion th && mayIssue u c.cycle p.2))).map (·.1)
    else none

/-! ### The rebalance (R124) -/

/-- A live slot in a rebalance: its slot, region rank, pinned entries held, entries wanted. -/
structure Want where
  slot : Nat
  rank : Nat
  held : Nat
  want : Nat
  deriving DecidableEq, Repr

/-- A region's weight; an unreadable RCB counts 1. -/
def regionWeight (s : State) (root rcb : Word) : Nat :=
  match effSched s root rcb with | some w => bits w 63 32 | none => 1

/-- A region in a rebalance: its weight, RCB address and root. -/
structure Ranked where
  weight : Nat
  rcb : Word
  root : Word
  deriving DecidableEq, Repr

/-- Regions by weight descending, then RCB address ascending (R124). DESIGN CHOICE (log 49): two roots' regions at one
RCB address rank by ROOTPT. -/
def Ranked.before (x y : Ranked) : Bool :=
  y.weight < x.weight || (x.weight = y.weight &&
    (x.rcb.toNat < y.rcb.toNat || (x.rcb = y.rcb && x.root.toNat < y.root.toNat)))

def rankInsert (r : Ranked) : List Ranked → List Ranked
  | [] => [r]
  | x :: xs => if r = x then x :: xs else if r.before x then r :: x :: xs else x :: rankInsert r xs

/-- The minimum pass: one entry for each slot that holds none, while unpinned entries last (R124). -/
def minimumPass : Nat → List Want → Nat × List Want
  | u, [] => (u, [])
  | u, w :: ws =>
    if w.held = 0 && 0 < u then
      let (u', ws') := minimumPass (u - 1) ws
      (u', { w with want := 1 } :: ws')
    else
      let (u', ws') := minimumPass u ws
      (u', w :: ws')

/-- One round of dealing a quota over slots, skipping those at the limit (R124). -/
def dealRound (lim rank : Nat) : Nat → List Want → Nat × List Want
  | q, [] => (q, [])
  | q, w :: ws =>
    if w.rank = rank && 0 < q && w.held + w.want < lim then
      let (q', ws') := dealRound lim rank (q - 1) ws
      (q', { w with want := w.want + 1 } :: ws')
    else
      let (q', ws') := dealRound lim rank q ws
      (q', w :: ws')

def dealRounds (lim rank : Nat) : Nat → Nat → List Want → List Want
  | 0, _, ws => ws
  | k + 1, q, ws =>
    let (q', ws') := dealRound lim rank q ws
    dealRounds lim rank k q' ws'

/-- Quotas: the floor of each share of U, and the rest one each by largest remainder, ties by rank (R124). DESIGN CHOICE (log
61): where every weight is 0 the floors are 0, and each region gets one entry by rank while there are any. -/
def quotas (u sum : Nat) (ws : List Nat) : List Nat :=
  let base := ws.map (fun w => u * w / sum)
  let rest := u - base.foldl (· + ·) 0
  let rem := ws.map (fun w => u * w % sum)
  let better := fun (k : Nat) => ((upTo rem.length).filter (fun j =>
    rem.getD k 0 < rem.getD j 0 || (rem.getD j 0 = rem.getD k 0 && j < k))).length
  (upTo base.length).map (fun k => base.getD k 0 + if better k < rest then 1 else 0)

/-- The slot placed at an entry: the largest want, then rank, then the lowest slot (R124). -/
def bestWant : List Want → Option Want
  | [] => none
  | w :: ws => match bestWant ws with
    | none => some w
    | some v =>
      if v.want > w.want || (v.want = w.want && (v.rank < w.rank || (v.rank = w.rank && v.slot < w.slot))) then some v
      else some w

/-- Placement at the unpinned entries in order (R124). -/
def placeEntries (n sp : Nat) : List Nat → AMap SlotEntry → List Want → AMap SlotEntry
  | [], tab, _ => tab
  | e :: es, tab, ws =>
    let fits := fun (w : Want) => 0 < w.want &&
      tab.all (fun (f, x) => !x.valid || x.slot ≠ w.slot || sp ≤ cyclicDist n e f)
    match bestWant (ws.filter fits) with
    | none => placeEntries n sp es tab ws
    | some v => placeEntries n sp es (AMap.set tab e { valid := true, slot := v.slot })
        (ws.map (fun w => if w.slot = v.slot then { w with want := w.want - 1 } else w))

/-- The number of a region among those of a device. -/
def regionKey (root rcb : Word) : Nat := root.toNat * 2 ^ 64 + rcb.toNat

/-- A thread's region in a rebalance of its unit. DESIGN CHOICE (log 57): a boundary does not wait, so where the RCB's home
holds up the read the weight is the one last read, or 1. -/
def State.rankedOf (s : State) (u : Nat) (th : Thread) : Ranked :=
  { weight := if (s.rcbShut th.root th.rcb).isSome then AMap.get 1 (s.core u).weights (regionKey th.root th.rcb)
      else regionWeight s th.root th.rcb,
    rcb := th.rcb, root := th.root }

/-- The live slots of a unit, and their regions in rank order (R124). -/
def State.ranking (s : State) (u : Nat) : List (Nat × Thread) × List Ranked :=
  let live := (s.liveSlots u).filter (fun p => p.2.status = .run || p.2.status = .park || p.2.yielding)
  (live, live.foldl (fun rs p => rankInsert (s.rankedOf u p.2) rs) [])

/-- The arbiter's rebuilding of a unit's table (R124). An entry that no slot gets keeps its SLOT, and a release clears PIN
alone (R136). -/
def State.rebuild (s : State) (u : Nat) : AMap SlotEntry :=
  let n := slotsOf u
  let c := s.core u
  let lim := if isSkerry u then 4 else 5
  let write := fun (tab : AMap SlotEntry) (e : Nat) (x : SlotEntry) =>
    AMap.set tab e (if x.pin then x else { (AMap.get {} tab e : SlotEntry) with pin := false })
  let tab := (c.stw.foldl (fun tab (_, e, x) => write tab e x) c.slotTab).map (fun (e, x) =>
    (e, if x.pin then x else { x with valid := false }))
  let free := (upTo n).filter (fun e => !(AMap.get {} tab e).pin)
  let (live, regions) := s.ranking u
  let rankOf := fun (th : Thread) => (regions.takeWhile (fun r => r.rcb ≠ th.rcb || r.root ≠ th.root)).length
  let ws : List Want := (upTo regions.length).flatMap (fun k => (live.filter (fun p => rankOf p.2 = k)).map (fun p =>
    { slot := p.1, rank := k, held := (tab.filter (fun x => x.2.valid && x.2.slot = p.1)).length, want := 0 }))
  let (left, ws) := minimumPass free.length ws
  let qs := quotas left (regions.foldl (fun m r => m + r.weight) 0) (regions.map (·.weight))
  let ws := (upTo regions.length).foldl (fun ws k => dealRounds lim k lim (qs.getD k 0) ws) ws
  placeEntries n (spacingOf u) free tab ws

/-- A rebuilding: the table, and yielding marks cleared; `k` boundaries have then been served (R124, R134). -/
def State.rebalance (s : State) (u k : Nat) : State :=
  let tab := s.rebuild u
  let weights := (s.ranking u).2.foldl (fun m r => AMap.set m (regionKey r.root r.rcb) r.weight) []
  let s := s.updCore u (fun c => { c with slotTab := tab, stw := [], rebuilt := k, weights := weights })
  (s.liveSlots u).foldl (fun s p => if p.2.yielding then
    s.updTh (u * 64 + p.1) (fun th => { th with yielding := false }) else s) s

/-- A rotation boundary (R124, R134). Argument: the unit. -/
def execRebalance (s : State) : Host.Outcome State Fault Refusal :=
  let u := s.arg 0
  .next (s.rebalance u ((s.core u).cycle / slotsOf u + 1))

/-- How many rotation boundaries have come before a unit's next cycle. -/
def State.passed (s : State) (u : Nat) : Nat := (s.nextCycle u + slotsOf u - 1) / slotsOf u

/-- The boundaries that a unit has passed without a cycle of its own, served with the slots as they stand (R119, R124). -/
def State.tableDue (s : State) (u : Nat) : State :=
  if (s.core u).rebuilt < s.passed u then s.rebalance u (s.passed u) else s

/-- The same for every unit that has a thread or a table. It comes before what changes slots, so that a rebuilding sees
the live slots of its boundary. -/
def State.boundaries (s : State) : State :=
  ((((s.threads.filter (fun p => p.2.status ≠ .free)).map (fun p => unitOfThread p.1)) ++
    ((s.units.filter (fun p => !p.2.slotTab.isEmpty || !p.2.stw.isEmpty)).map (·.1))).eraseDups).foldl State.tableDue s

end Sys2Proof.Machine
end

