-- ==== Sys2Proof/Machine/Ops.lean ====
section
/-!
DEFINITION. The shared operations of a thread: registers, vectors, streams and mailboxes (R33-R36, R159, R230-R232),
slots and fills (R117-R119), taking a trap and delivering its record (R27, R291-R298), parking and waking (R120,
R299), sending a context (R198, R276), and the frame of one instruction step (R26, R48).
-/

namespace Sys2Proof.Machine

/-! ### Status and flags -/

/-- WST := c (R25). -/
def State.wst (s : State) (t : Nat) (c : BitVec 3) : State :=
  s.updTh t (fun th => { th with st := { th.st with wst := c } })

/-- FPF := FPF or f (R14, R77). -/
def State.flag (s : State) (t : Nat) (f : Flags) : State :=
  s.updTh t (fun th => { th with st := { th.st with fpf := th.st.fpf ||| f } })

/-- The cycle in which a thread's present instruction issued (R34, R65). -/
def State.issueCycle (s : State) (t : Nat) : Nat := (s.th t).lastIssue.getD 0

/-- TID of a place (R18); a secondary twin reads the primary's (R326). -/
def tidOfPlace (dev t : Nat) : Word := BitVec.ofNat 64 (dev * 2 ^ 24 + (if isSkerry (unitOfThread t) then 2 ^ 31 else 0)
  + dieOf (unitOfThread t) * 2 ^ 20 + unitOfThread t % 2 ^ 14 * 2 ^ 6 + slotOfThread t)

def State.tid (s : State) (t : Nat) : Word :=
  match (s.th t).twin with
  | some (o, true) => tidOfPlace s.pkg.device o
  | _ => tidOfPlace s.pkg.device t

/-! ### Streams (R230-R232) -/

def streamKey (t k : Nat) : Nat := unitOfThread t * 8 + k
/-- Element bytes of a bound stream. -/
def Stream.esz (x : Stream) : Nat := 2 ^ bits x.fmt 3 2
/-- Elements of the whole descriptor. -/
def Stream.total (x : Stream) : Nat := bits x.cnt 31 0 * (bits x.cnt 47 32 + 1) * (bits x.cnt 63 48 + 1)
/-- Elements not yet popped or pushed. -/
def Stream.left (x : Stream) : Nat := x.total - x.used
/-- A stream a thread may use: bound to the register, for its region (R232). -/
def Stream.usable (x : Stream) (rcb : Word) : Bool := x.bound && !x.port && x.region = rcb

/-- Bytes as a little-endian number. -/
def natOfBytes : List Byte → Nat
  | [] => 0
  | b :: bs => b.toNat + 256 * natOfBytes bs

/-- The low n bytes of a number, little-endian. -/
def bytesOfNat : Nat → Nat → List Byte
  | 0, _ => []
  | n + 1, v => BitVec.ofNat 8 v :: bytesOfNat n (v / 256)

/-- The bytes of an element, extended (R232). -/
def Stream.element (x : Stream) (bs : List Byte) : Word :=
  let n := x.esz
  let v := natOfBytes bs
  if x.fmt.getLsbD 1 && v.testBit (8 * n - 1) then BitVec.ofInt 64 ((v : Int) - 2 ^ (8 * n)) else BitVec.ofNat 64 v

/-- Bytes of the FIFO by their numbers. -/
def Stream.bytesAt (x : Stream) (ns : List Nat) : List Byte := ns.map (fun n => x.fifo.getD (n - x.front) 0)

/-- The numbers of the bytes in the FIFO that nobody has popped or, by `held`, read. -/
def Stream.loose (x : Stream) (held : List Nat) : List Nat :=
  ((upTo x.fifo.length).map (x.front + ·)).filter (fun n => !x.gone.contains n && !held.contains n)

/-- How many bytes the FIFO holds. -/
def Stream.size (x : Stream) : Nat := x.fifo.length - x.gone.length

/-- Popped bytes at the front leave the FIFO. -/
def Stream.trim : Nat → Stream → Stream
  | 0, x => x
  | n + 1, x => if x.gone.contains x.front then
      Stream.trim n { x with front := x.front + 1, fifo := x.fifo.drop 1, gone := x.gone.filter (· ≠ x.front) } else x

/-- Bytes popped, by their numbers; the elements they hold are used (R34). What no longer stands in the FIFO is no more
popped. -/
def Stream.popAt (x : Stream) (ns : List Nat) : Stream :=
  let ns := ns.filter (fun n => x.front ≤ n && n < x.front + x.fifo.length)
  { x with gone := x.gone ++ ns, used := x.used + min (ns.length / x.esz) x.left }.trim x.fifo.length

/-- The first n bytes popped. -/
def Stream.pop (x : Stream) (n : Nat) : Stream := x.popAt ((x.loose []).take n)

/-- Bytes pushed behind the FIFO. -/
def Stream.pushBytes (x : Stream) (b : List Byte) : Stream :=
  { x with fifo := x.fifo ++ b, used := x.used + b.length / x.esz }

/-! ### Reading and writing registers (R10, R33-R36) -/

/-- Whether a specifier names a stream register, and which. -/
def streamOf (r : BitVec 7) : Option Nat := if 112 ≤ r.toNat && r.toNat ≤ 119 then some (r.toNat - 112) else none

/-- Whether a vector specifier names a stream (R36). -/
def vstreamOf (v : BitVec 5) : Option Nat := if 27 ≤ v.toNat && v.toNat ≤ 30 then some (v.toNat - 27) else none

/-- A register of a thread's partition; s0 reads zero (R10). -/
def Thread.reg (th : Thread) (n : Nat) : Word := if n = 0 then 0 else AMap.get 0 th.regs n

/-- A partition register written; s0 discards, and a poisoned register is replaced (R10, R178). -/
def Thread.setReg (th : Thread) (n : Nat) (v : Word) : Thread :=
  if n = 0 then th
  else { th with regs := AMap.set th.regs n v, poisoned := th.poisoned.filter (fun p => p.1 ≠ n) }

/-- Bytes an instruction's earlier fields take from stream k before its n-th scalar source (R35). -/
def skipScalar (i : Instr) (k n esz : Nat) : Nat :=
  32 * ((vecSrcs i).filter (fun v => vstreamOf v = some k)).length +
  esz * (((srcRegs i).take n).filter (fun r => streamOf r = some k)).length

/-- The park of a thread's own instruction, if it has parked since its issue. -/
def State.parkOf (s : State) (t : Nat) (i : Instr) : Option Park :=
  match (s.th t).park with
  | some p => if p.instr = i then some p else none
  | none => none

/-- The operands that went out with a thread's request, if it has been sent (R240). -/
def State.sentArgs (s : State) (t : Nat) (i : Instr) : List Word :=
  match s.parkOf t i with
  | some p => p.args
  | none => []

/-- A core-shared register as committed at the issue of a thread's instruction (R34, R127). -/
def State.sharedAt (s : State) (t : Nat) (i : Instr) (k : Nat) : Word :=
  match s.parkOf t i with
  | some p => AMap.get 0 p.cs k
  | none => AMap.get 0 (s.core (unitOfThread t)).c k

/-- Bytes an instruction pops from stream k, and pushes to it. -/
def popBytes (i : Instr) (k esz : Nat) : Nat := skipScalar i k (srcRegs i).length esz
def pushBytes (i : Instr) (k esz : Nat) : Nat :=
  32 * ((vecDsts i).filter (fun v => vstreamOf v = some k)).length +
  esz * ((destRegs i).filter (fun r => streamOf r = some k)).length

/-- The parks of a unit's other slots whose instructions have come past their operands before a thread's instruction does.
DESIGN CHOICE (log 53): R34 and R35 do not say which element of a stream an instruction gets while another that has read
the stream is parked; the elements such an instruction has read, and the room it was found to have, are its own until it
completes or is withdrawn. -/
def State.readers (s : State) (t : Nat) (i : Instr) : List Park :=
  let mine := ((s.parkOf t i).bind (·.read)).getD s.fresh
  (s.liveSlots (unitOfThread t)).filterMap (fun (_, th) => if th.status ≠ .park then none else th.park.bind (fun p =>
    match p.read with
    | some r => if r < mine then some p else none
    | none => none))

/-- The numbers of the bytes of stream k that other slots' parked instructions have read and not popped yet. -/
def State.taken (s : State) (t k : Nat) : List Nat :=
  (s.liveSlots (unitOfThread t)).flatMap (fun (j, th) =>
    if th.status ≠ .park || j = slotOfThread t then [] else th.park.elim [] (fun p => AMap.get [] p.els k))

/-- The numbers of the bytes of stream k that are a thread's instruction's to read: those that it has read already, or the
first that nobody has. -/
def State.elsOf (s : State) (t : Nat) (i : Instr) (k : Nat) : List Nat :=
  let x := s.stream (streamKey t k)
  match (s.parkOf t i).bind (fun p =>
      if AMap.has p.els k then some (AMap.get [] p.els k) else none) with
  | some ns => ns
  | none => (x.loose (s.taken t k)).take (popBytes i k x.esz)

/-- The bytes yet to be pushed to stream k before a thread's instruction pushes. -/
def State.promised (s : State) (t : Nat) (i : Instr) (k esz : Nat) : Nat :=
  (s.readers t i).foldl (fun n p => n + pushBytes p.instr k esz) 0

/-- The bytes of stream k that a field of an instruction reads, `skip` bytes of earlier fields before it. -/
def State.streamBytes (s : State) (t : Nat) (i : Instr) (k skip n : Nat) : List Byte :=
  (s.stream (streamKey t k)).bytesAt (((s.elsOf t i k).drop skip).take n)

/-- The value of an instruction's n-th scalar source field (R33-R35). -/
def srcVal (s : State) (t : Nat) (i : Instr) (n : Nat) : Word :=
  let r := (srcRegs i).getD n 0
  if n < (s.sentArgs t i).length then (s.sentArgs t i).getD n 0
  else if r.toNat < 112 then (s.th t).reg r.toNat
  else if r.toNat < 120 then
    let x := s.stream (streamKey t (r.toNat - 112))
    x.element (s.streamBytes t i (r.toNat - 112) (skipScalar i (r.toNat - 112) n x.esz) x.esz)
  else if r.toNat < 124 then s.sharedAt t i (r.toNat - 120)
  else ((AMap.get none (s.core (unitOfThread t)).mbox (r.toNat - 124)).getD 0)

/-- A vector register's value: four scalar registers, the next 32 bytes of a stream with zeros after its last element, or zero
(R36, R159, R232). -/
def vecVal (s : State) (t : Nat) (i : Instr) (n : Nat) : BitVec 256 :=
  let v := (vecSrcs i).getD n 31
  if v.toNat ≤ 26 then
    let th := s.th t
    let b := 4 * v.toNat + 4
    th.reg (b + 3) ++ th.reg (b + 2) ++ th.reg (b + 1) ++ th.reg b
  else match vstreamOf v with
    | some k => BitVec.ofNat 256 (natOfBytes
        (s.streamBytes t i k (32 * (((vecSrcs i).take n).filter (fun w => vstreamOf w = some k)).length) 32))
    | none => 0

/-- A destination of one thread written: discarded, a partition register, a stream push, or a core-shared commit 12 cycles
after the issue (R33, R34, R49). -/
def State.writeOne (s : State) (t : Nat) (d : BitVec 7) (v : Word) : State :=
  let n := d.toNat
  if n < 112 then s.updTh t (fun th => th.setReg n v)
  else if n < 120 then
    let k := streamKey t (n - 112)
    let x := s.stream k
    (s.setStream k (x.pushBytes (bytesOfNat x.esz v.toNat))).push .engineCommandStart
      [ctxKey 0 (dieOf (unitOfThread t)) (clusterOf (unitOfThread t)) x.fill, x.cmd]
  else if n < 124 then
    s.updCore (unitOfThread t) (fun c =>
      { c with commits := insertTimed c.commits (s.issueCycle t + 12) (.shared (n - 120) v) })
  else s

/-- Whether a twin waits for its message's match. -/
def Thread.paired (th : Thread) : Bool := th.status = .park && match th.park with | some p => p.await = .pair | none => false

/-- What the reply to a primary's matched message writes outside its registers, written on the secondary's core too (R327). -/
def State.onBoth (s : State) (t : Nat) (f : State → Nat → State) : State :=
  match (s.th t).twin with
  | some (o, false) => if (s.th t).matched && (s.th o).paired then f (f s t) o else f s t
  | _ => f s t

/-- A destination written (R33, R34, R49). -/
def State.writeDest (s : State) (t : Nat) (d : BitVec 7) (v : Word) : State :=
  if isSpecial d then s.onBoth t (fun s t => s.writeOne t d v) else s.writeOne t d v

/-- Thirty-two bytes pushed to stream k of one thread's core (R36, R232). -/
def State.pushVec (s : State) (t k : Nat) (x : BitVec 256) : State :=
  let key := streamKey t k
  let y := s.stream key
  (s.setStream key (y.pushBytes (bytesOfNat 32 x.toNat))).push .engineCommandStart
    [ctxKey 0 (dieOf (unitOfThread t)) (clusterOf (unitOfThread t)) y.fill, y.cmd]

/-- A vector destination written (R36, R159, R160). -/
def State.writeVec (s : State) (t : Nat) (v : BitVec 5) (x : BitVec 256) : State :=
  if v.toNat ≤ 26 then
    let b := 4 * v.toNat + 4
    s.updTh t (fun th => (((th.setReg b (x.extractLsb' 0 64)).setReg (b + 1) (x.extractLsb' 64 64)).setReg (b + 2)
      (x.extractLsb' 128 64)).setReg (b + 3) (x.extractLsb' 192 64))
  else match vstreamOf v with
    | some k => s.onBoth t (fun s t => s.pushVec t k x)
    | none => s

/-- One stream's pops at an instruction's completion (R35). -/
def State.popStream (s : State) (t : Nat) (i : Instr) (k : Nat) : State :=
  let key := streamKey t k
  let x := s.stream key
  let n := popBytes i k x.esz
  if n = 0 then s
  else (s.setStream key (x.popAt (s.elsOf t i k))).push .engineCommandStart
    [ctxKey 0 (dieOf (unitOfThread t)) (clusterOf (unitOfThread t)) x.fill, x.cmd]

/-- Pops and mailbox emptying of an instruction that completes (R35). A mailbox named twice is emptied once. -/
def State.consume (s : State) (t : Nat) (i : Instr) : State :=
  if !((srcRegs i).any isSpecial || (vecSrcs i).any (fun v => (vstreamOf v).isSome)) then s
  else
    let s := (upTo 8).foldl (fun s k => s.popStream t i k) s
    (srcRegs i).foldl (fun s r =>
      if isMailbox r then s.updCore (unitOfThread t) (fun c => { c with mbox := AMap.set c.mbox (r.toNat - 124) none })
      else s) s

/-! ### Results of an instruction's own effect -/

/-- What an instruction's execution comes to. -/
inductive Res where
  /-- It completes and control goes on at PC + 4. -/
  | done (s : State)
  /-- It completes and control goes to an address. -/
  | goto (s : State) (pc : Word)
  /-- It traps and changes nothing: cause, INFO, ADDR, DATA. -/
  | trap (cause info : Nat) (addr data : Word)
  /-- It parks and is executed again when what it awaits has come (R120, R367: nothing has been sent). -/
  | park (a : Await)
  /-- It has left the thread: parked on a reply, migrating, freed. The state is what it is. -/
  | sent (s : State)
  /-- The return trap of a skerry (R46, R276). -/
  | ret

/-! ### Slots and fills (R117-R119) -/

/-- Whether [b, b + l) meets no partition of a unit's ordinary slots. -/
def rangeFree (u : Nat) (l : List (Nat × Thread)) (b n : Nat) : Bool :=
  l.all (fun (k, th) => k = reservedSlot u || th.base + th.lim ≤ b || b + n ≤ th.base)

/-- The lowest multiple of 8 at which n entries are free (R118). -/
def State.findBase (s : State) (u n : Nat) : Option Nat :=
  let l := s.liveSlots u
  ((upTo (poolOf u / 8)).map (· * 8)).find? (fun b => b + n ≤ poolOf u && rangeFree u l b n)

/-- The lowest-numbered FREE ordinary slot (R118). -/
def State.findSlot (s : State) (u : Nat) : Option Nat :=
  (upTo (slotsOf u)).find? (fun k => k ≠ reservedSlot u && (s.th (u * 64 + k)).status = .free && !(s.th (u * 64 + k)).reserved)

/-- The slots of a Cape core that a region's threads hold (R139). -/
def State.regionSlots (s : State) (u : Nat) (root rcb : Word) : Nat :=
  ((s.liveSlots u).filter (fun (k, th) => k ≠ reservedSlot u && th.rcb = rcb && th.root = root)).length

/-- Whether a region lies in a contained subtree (R325, R350). -/
def State.isContained (s : State) (root rcb : Word) : Bool :=
  s.pkg.contained.any (fun c => rcbUnder s root c treeDepth rcb)

/-- The slot and base that a fill of n entries finds on a unit, if the region's SLOTCAP leaves it one (R118, R139). -/
def State.room (s : State) (u n cap : Nat) (root rcb : Word) : Option (Nat × Nat) := do
  let k ← s.findSlot u
  let b ← s.findBase u n
  if !isSkerry u && cap ≤ s.regionSlots u root rcb then none else some (k, b)

/-- The budget under which a region can be filled now, if its RCB is usable and it is not contained (R325, R368). The RCB reads
of a fill that a home holds up wait before (R228). -/
def State.fillBudget (s : State) (root rcb : Word) : Option Budget :=
  if rcbUsable s root rcb && !s.isContained root rcb then effBudget s root treeDepth rcb else none

/-- Whether a fill can take place and where: slot and base (R118, R139, R368). `budgeted` asks for the cluster to be
in the region's budget. -/
def State.fillPlace (s : State) (u n : Nat) (root rcb : Word) (budgeted : Bool) : Option (Nat × Nat) := do
  let bud ← s.fillBudget root rcb
  if budgeted && !isSkerry u && !bud.hasCluster (dieOf u) (clusterOf u) then none
  else s.room u n bud.slotcap root rcb

/-- A newly filled thread (R11, R119). -/
def freshThread (pc root rcb : Word) (mode : Bool) (base lim uid : Nat) : Thread :=
  { status := .run, pc := pc, st := { mode := mode }, base := base, lim := lim, root := root, rcb := rcb, uid := uid }

/-- Registers set one after another, those at or above the limit not at all. -/
def Thread.setRegs (th : Thread) : List (Nat × Word) → Thread
  | [] => th
  | (n, v) :: r => ((if n < th.lim then th.setReg n v else th)).setRegs r

/-- What a slot that has become FREE draws: a buffered context, a spilled record, the handler's next record, a
delegated call, a near dispatch (R148, R194, R199, R200, R293). -/
def State.slotFreed (s : State) (u slot : Nat) : State :=
  let c := s.core u
  if slot = reservedSlot u then
    if isSkerry u then (if c.dlgq.isEmpty then s else s.push .delegationServe [u])
    else (if c.deliveries.isEmpty then s else s.push .handlerFill [u])
  else
    let s := if !c.inbound.isEmpty then s.push .bufferedContextFill [u]
      else if !c.spill.isEmpty then s.push .spillRestore [u] else s
    if isSkerry u then s.push .nearDispatch [(s.pkg.device * 16 + dieOf u) * 4096 + clusterOf u] else s

/-- A thread put into a slot, for which nothing has been fetched ahead; the slot's last issue still guards it, it has no
entry until the next rotation boundary, and those of an empty unit that have passed are past (R119, R122). -/
def State.fill (s : State) (t : Nat) (th : Thread) : State :=
  let k := s.passed (unitOfThread t)
  (s.updCore (unitOfThread t) (fun c => { c with rebuilt := max c.rebuilt k })).setTh t
    { th with lastIssue := (s.th t).lastIssue, ahead := [], landed := none, stopped := none, freezing := false, entries := k }

/-- A slot scrubbed to zero and FREE (R118). -/
def State.freeSlot (s : State) (t : Nat) : State :=
  (s.fill t {}).slotFreed (unitOfThread t) (slotOfThread t)

/-! ### The pairing table (R294) -/

/-- PAIRT as it stands: what was written, or the reset entry. -/
def State.pairt (s : State) (u : Nat) : Word :=
  match (s.core u).pairt with
  | some w => w
  | none =>
    let e : Nat :=
      if !isSkerry u then u % 2 ^ 18 / 2 * 2 + (1 - u % 2)
      else if dieOf u < 8 then mkCape (dieOf u) (clusterOf u % 98) 127
      else mkCape (2 * (dieOf u - 8)) (clusterOf u) 127
    BitVec.ofNat 64 (2 ^ 18 + e)

/-- The buddy unit, if PAIRT is VALID. -/
def State.buddy (s : State) (u : Nat) : Option Nat :=
  let w := s.pairt u
  if w.getLsbD 18 then some (bits w 17 0) else none

/-! ### Trap records (R297, R298) -/

/-- The eight doublewords of a record (R297). -/
def TrapRec.words (r : TrapRec) : List Word :=
  [BitVec.ofNat 64 (r.flags.toNat * 2 ^ 40 + r.cause * 2 ^ 32 + bits r.tid 31 0), r.pc,
   BitVec.ofNat 64 (r.word.toNat * 2 ^ 32 + r.info % 2 ^ 32), r.addr, r.time, r.rcb, r.data, r.st]

def recASYNC : BitVec 8 := 1
def recPFX : BitVec 8 := 2
def recDOUBLE : BitVec 8 := 4
def recNOBUDDY : BitVec 8 := 8
def recLOST : BitVec 8 := 16
def recJLOST : BitVec 8 := 32

/-- Doublewords stored one after another from a location. -/
def State.putWords (s : State) (l : Nat) : List Word → State
  | [] => s
  | w :: ws => State.putWords (s.putWord l w) (l + 8) ws

/-- The location of a doubleword that the device stores at a virtual address under a root, with the W right, if it
translates and can be reached. -/
def State.rootLoc (s : State) (root va : Word) : Option Nat :=
  if !isCanonical va || bits va 2 0 ≠ 0 then none
  else match walk s root va with
    | none => none
    | some (leaf, lvl) =>
      let l := locOfLeaf va leaf lvl
      if !leaf.getLsbD 4 || s.outOfReach l || s.hostAborts l then none else some l

/-- A doubleword stored at a virtual address under a root, if it has a location. -/
def State.rootWrite (s : State) (root va v : Word) : Option State := (s.rootLoc root va).map (fun l => s.putWord l v)

/-- Doublewords stored from a virtual address, each translated. -/
def State.rootWrites (s : State) (root va : Word) : List Word → Option State
  | [] => some s
  | w :: ws => do
    let s ← s.rootWrite root va w
    State.rootWrites s root (va + 8) ws

/-- The header of a fault-domain ring: BASE, record count, HEAD, TAIL and DROP, unless it is malformed (R298). -/
structure Ring where
  base : Word
  count : Nat
  head : Word
  tail : Word
  drop : Word
  deriving DecidableEq, Repr

def readRing (s : State) (root f : Word) : Option Ring := do
  let w := fun (o : Nat) => rootRead s root (f + BitVec.ofNat 64 o)
  let base ← w 0
  let size ← w 8
  let head ← w 16
  let tail ← w 24
  let drop ← w 32
  let z0 ← w 40
  let z1 ← w 48
  let z2 ← w 56
  if bits base 5 0 ≠ 0 || bits size 63 4 ≠ 0 || z0 ≠ 0 || z1 ≠ 0 || z2 ≠ 0 then none
  else pure { base := base, count := 2 ^ bits size 3 0, head := head, tail := tail, drop := drop }

/-- Where the next record of a ring goes. -/
def Ring.slot (r : Ring) : Word := r.base + BitVec.ofNat 64 (64 * (r.head.toNat % r.count))
def Ring.full (r : Ring) : Bool := r.count ≤ (r.head - r.tail).toNat

/-- A record put into the fault-domain ring of a region, or counted as dropped; none where it is lost (R298). -/
def State.ringPost (s : State) (root rcb : Word) (r : TrapRec) : Option State := do
  let f ← effFdom s root rcb
  if f = 0 || bits f 5 0 ≠ 0 then none
  let ring ← readRing s root f
  if !ring.full then
    let s ← s.rootWrites root ring.slot r.words
    s.rootWrite root (f + 16) (ring.head + 1)
  else s.rootWrite root (f + 32) (ring.drop + 1)

/-- What holds up an access of the device's own, numbered as it has come to its home before (R205, R228, R347). -/
def State.rootShut (s : State) (root va : Word) : Option Await :=
  (s.rootLoc root va).bind (fun l => s.ownHeld (s.numberAt 0 l) l)

/-- Where a record's way into its ring is held up: at its region's RCB, the ring's header or its next place. -/
def State.ringShut (s : State) (root rcb : Word) : Option Await :=
  (s.rcbShut root rcb (s.numberAt 0)).or <| match effFdom s root rcb with
  | none => none
  | some f => ((upTo 8).findSome? (fun k => s.rootShut root (f + BitVec.ofNat 64 (8 * k)))).or (match readRing s root f with
    | some ring => if ring.full then none
        else (upTo 8).findSome? (fun k => s.rootShut root (ring.slot + BitVec.ofNat 64 (8 * k)))
    | none => none)

/-- A record posted to the fault domain of a region, if that can be (R298). Behind a closed home it waits, and the
records after it wait for their turn. -/
def State.postFault (s : State) (root rcb : Word) (r : TrapRec) : State :=
  let queued := s.setPkg { s.pkg with faults := s.pkg.faults ++ [(root, rcb, r)] }
  if !s.pkg.faults.isEmpty then queued
  else match { s with ev := [] }.ringShut root rcb with
    | some a => queued.comeLater .trapRecordResend [] a
    | none => (s.ringPost root rcb r).getD s

/-- The records that wait for their ring, posted in order as far as their homes are open. -/
def State.postWaiting : Nat → State → State
  | 0, s => s
  | n + 1, s => match s.pkg.faults with
    | [] => s
    | (root, rcb, r) :: rest =>
      match s.ringShut root rcb with
      | some a => s.tryAgain .trapRecordResend [] a
      | none => State.postWaiting n (((s.setPkg { s.pkg with faults := rest }).ringPost root rcb r).getD
        (s.setPkg { s.pkg with faults := rest }))

/-- The record of a trap of a thread (R297). -/
def State.makeRec (s : State) (t cause info : Nat) (addr data : Word) (word : BitVec 32) (async : Bool) : TrapRec :=
  let th := s.th t
  { flags := (if async then recASYNC else 0) ||| (if th.st.ppFmt || th.st.ppRlx then recPFX else 0),
    cause := cause, tid := s.tid t, pc := th.pc, word := word, info := info, addr := addr,
    time := s.time (dieOf (unitOfThread t)), rcb := th.rcb, data := data, st := th.st.toWord }

/-- The same with further FLAGS bits. -/
def State.trapRec (s : State) (t cause info : Nat) (addr data : Word) (word : BitVec 32) (async : Bool)
    (extra : BitVec 8) : TrapRec :=
  let r := s.makeRec t cause info addr data word async
  { r with flags := r.flags ||| extra }

/-- A record of a unit sent on its way: to its buddy's handler slot, or to the fault domain when it is undeliverable (R292,
R293, R310). -/
def State.route (s : State) (u : Nat) (d : Delivery) : State :=
  match s.buddy u, effHandler s d.root d.rcb with
  | some b, some h =>
    if h = 0 || !rcbUsable s d.root d.rcb then s.postFault d.root d.rcb d.record
    else (s.updCore u (fun c => { c with resends := c.resends ++ [(b, { d with handler := h })] })).push
      .trapRecordDelivery [u]
  | none, _ => s.postFault d.root d.rcb { d.record with flags := d.record.flags ||| recNOBUDDY }
  | _, none => s.postFault d.root d.rcb d.record

/-- The same once HANDLER can be read: behind a closed home the record waits, and those after it for their turn (R140,
R228). -/
def State.sendOut (s : State) (u : Nat) (d : Delivery) : State :=
  let waiting := s.updCore u (fun c => { c with unsent := c.unsent ++ [d] })
  if !(s.core u).unsent.isEmpty then waiting
  else match s.rcbShut d.root d.rcb with
    | some a => waiting.comeLater .trapRecordDelivery [u, 1] a
    | none => s.route u d

/-- The records that wait for their HANDLER sent in order as far as it can be read. -/
def State.sendWaiting : Nat → State → Nat → State
  | 0, s, _ => s
  | n + 1, s, u => match (s.core u).unsent with
    | [] => s
    | d :: rest => match s.rcbShut d.root d.rcb (s.numberAt 2) with
      | some a => s.tryAgain .trapRecordDelivery [u, 1] a
      | none => State.sendWaiting n ((s.updCore u (fun c => { c with unsent := rest })).route u d) u

/-- A frozen thread's record sent (R292, R293). A handler slot that traps is scrubbed and freed, and the thread it handled stays
FROZEN. -/
def State.sendRecord (s : State) (t : Nat) (r : TrapRec) : State :=
  let u := unitOfThread t
  let th := s.th t
  if slotOfThread t = 63 && !isSkerry u then
    let s := s.postFault th.root th.rcb { r with flags := r.flags ||| recDOUBLE }
    let s := match th.handles with
      | some h => s.postFault (s.th h).root (s.th h).rcb (s.th h).record
      | none => s
    s.freeSlot t
  else s.sendOut u { record := r, frozen := some t, rcb := th.rcb, root := th.root }

/-- A thread FROZEN with a record and the journal entry it names (R292). DESIGN CHOICE (log 61): a frozen slot is not live, so
its yielding mark ends at once (R134, R292). -/
def Thread.freeze (th : Thread) (r : TrapRec) (entry : Option (Nat × Nat)) : Thread :=
  { th with status := .frozen, park := none, record := r, recEntry := entry, yielding := false, retried := false,
            matched := false, freezing := false }

/-- The word of a parked instruction; a fetch that waits has none yet (R297). -/
def Park.word (p : Park) : BitVec 32 := match p.await with | .fetch _ | .gateFirst => 0 | _ => encode p.instr

/-- The word of the instruction that a thread is parked on, or 0 (R297). -/
def State.parkWord (s : State) (t : Nat) : BitVec 32 :=
  match (s.th t).park with
  | some p => if (s.th t).status = .park then p.word else 0
  | none => 0

/-- PAIRDIFF delivered for a primary twin, which is FROZEN (R327). -/
def State.pairDiff (s : State) (t : Nat) : State :=
  let r := s.makeRec t cPAIRDIFF 0 0 0 (s.parkWord t) false
  (s.updTh t (fun th => th.freeze r none)).sendRecord t r

/-- The other twin of a thread that trapped is FROZEN with it, its instruction abandoned (R327). -/
def State.freezeTwin (s : State) (o : Nat) : State :=
  (s.abandon o).updTh o (fun th => th.freeze th.record th.recEntry)

/-- TAKING A TRAP (R27, R292): the thread is FROZEN with its PC at the instruction and PP, PFX as they are; nothing of
the instruction has happened; the record is built and sent. A trap in either twin freezes both, and one of the
secondary alone is delivered as PAIRDIFF for the primary, once the primary has its reply (R327, R367). -/
def State.takeTrap (s : State) (t cause info : Nat) (addr data : Word) (word : BitVec 32) (async : Bool := false)
    (entry : Option (Nat × Nat) := none) (extra : BitVec 8 := 0) : State :=
  match (s.th t).twin with
  | some (o, true) =>
    let s := s.updTh t (fun th => th.freeze th.record none)
    if s.mustWait o then s.updTh o (fun th => { th with freezing := true })
    else (s.abandon o).pairDiff o
  | some (o, false) =>
    let r := s.trapRec t cause info addr data word async extra
    ((s.freezeTwin o).updTh t (fun th => th.freeze r entry)).sendRecord t r
  | none =>
    let r := s.trapRec t cause info addr data word async extra
    (s.updTh t (fun th => th.freeze r entry)).sendRecord t r

/-- RETURN FROM A TRAP (R300): the frozen thread runs again with what the window holds, and the handler slot is
freed. The window is the thread's own state, so nothing is copied; a secondary twin takes the primary's context. -/
def State.resumeFrozen (s : State) (t : Nat) : State :=
  let th := s.th t
  let s := s.setTh t { th with status := .run, park := none, record := {}, recEntry := none }
  match th.twin with
  | some (o, false) =>
    let sec := s.th o
    s.setTh o { s.th t with base := sec.base, twin := some (t, true), uid := sec.uid, lastIssue := sec.lastIssue, ahead := [], landed := none }
  | _ => s

/-! ### Parking (R120, R299) -/

/-- Whether a park counts toward the region wait limit (R299). -/
def counted : Await → Bool
  | .home _ | .mboxRoom _ _ | .streamIn _ _ | .streamOut _ _ => true
  | .joinZero _ | .anyMbox _ | .sleep _ | .timeline _ _ | .buoy _ _ | .gateToken => true
  | _ => false

/-- A `wait` of any kind. -/
def isWait : Instr → Bool
  | .waitJz _ _ | .waitMbox _ _ _ | .waitSleep _ _ | .waitFe _ _ _ | .waitTl _ _ _ | .waitBuoy _ _ _ | .waitGate _ => true
  | _ => false

/-- Whether an instruction's park counts: by what it awaits, and every park of a `wait` but those on a memory reply, its own or
that of a load it needs, and on a page in transit (R299, R347). -/
def counts (i : Instr) (a : Await) : Bool :=
  counted a || (isWait i && match a with | .reply _ | .regs _ | .transit _ => false | _ => true)

/-- The timeout that an instruction's own te gives its parks: of a `wait` of any kind (R31, R158). -/
def ownTimeout : Instr → Option Nat
  | .waitJz _ te | .waitMbox _ _ te | .waitSleep _ te | .waitFe _ _ te | .waitTl _ _ te | .waitBuoy _ _ te
  | .waitGate te => timeoutOf te
  | _ => none

/-- The instructions that read table state as it is at their issue (R88). -/
def readsTable : Instr → Bool
  | .tblRd _ _ | .tblEnc _ _ | .tblDec _ _ | .vopEnc _ _ _ | .vopDec _ _ _ => true
  | .sysSrd _ n => n.toNat = 5
  | _ => false

/-- The core-shared registers an instruction names, as committed now (R34). -/
def State.sharedNow (s : State) (t : Nat) (i : Instr) : AMap Word :=
  ((upTo 4).filter (fun k => (srcRegs i).any (fun r => r.toNat = 120 + k))).map (fun k =>
    (k, AMap.get 0 (s.core (unitOfThread t)).c k))

/-- The entries of a unit's journal that are free (R182). -/
def State.freeEntries (s : State) (u : Nat) : Nat := 64 - (s.core u).journal.length

/-- Entries of a unit's journal that a thread has posted and that are not yet acknowledged (R184). -/
def State.posted (s : State) (t : Nat) : List (Nat × JEntry) :=
  (s.core (unitOfThread t)).journal.filter (fun p => p.2.uid = (s.th t).uid)

/-- Requests of a thread's RLX loads that have not returned (R181). -/
def Thread.outstanding (th : Thread) : List Nat := (th.pending.map (·.2)).eraseDups

/-- JRNL (R184). -/
def State.jrnl (s : State) (t : Nat) : Word :=
  BitVec.ofNat 64 (s.freeEntries (unitOfThread t) * 2 ^ 24 + (s.th t).outstanding.length * 2 ^ 16 + (s.posted t).length)

/-- What an instruction reads of its unit's state at its issue, as it stands now: JRNL, ENERGY, or XO, which every
expansion instruction reads too (R65, R260). -/
def State.keptNow (s : State) (t : Nat) (i : Instr) : Word :=
  match i with
  | .sysSrd _ n => match n.toNat with
    | 11 => s.jrnl t
    | 12 => BitVec.ofNat 64 (s.energyOf (s.th t).root (s.th t).rcb)
    | 14 => (s.core (unitOfThread t)).xo
    | _ => 0
  | .xpCtrm _ _ | .xpCtrl _ _ | .xpAdm _ _ _ => (s.core (unitOfThread t)).xo
  | .waitJz _ _ => BitVec.ofNat 64 (s.levelOf t (srcVal s t i 0))
  | _ => 0

/-- The same as it stood at the issue of a thread's instruction, if it has parked since (R65, R260). -/
def State.keptAt (s : State) (t : Nat) (i : Instr) : Word :=
  match s.parkOf t i with
  | some p => p.kept
  | none => s.keptNow t i

/-- Whether an instruction that awaits this has come past its operands. -/
def pastOperands : Await → Bool
  | .regs _ | .mbox _ | .streamIn _ _ | .streamOut _ _ | .fetch _ | .gateFirst => false
  | _ => true

/-- Whether an instruction reads stream k, and whether it writes it. -/
def popsStream (k : Nat) (i : Instr) : Bool :=
  (srcRegs i).any (fun r => streamOf r = some k) || (vecSrcs i).any (fun v => vstreamOf v = some k)
def pushesStream (k : Nat) (i : Instr) : Bool :=
  (destRegs i).any (fun r => streamOf r = some k) || (vecDsts i).any (fun v => vstreamOf v = some k)

/-- The bytes of each stream that an instruction reads, as they are its own now (log 53). -/
def State.elsNow (s : State) (t : Nat) (i : Instr) : AMap (List Nat) :=
  ((upTo 8).filter (fun k => popsStream k i)).map (fun k => (k, s.elsOf t i k))

/-- What a park starts from: nothing but the present moment, and what the instruction read at its issue. -/
def State.newPark (s : State) (t : Nat) (i : Instr) (a : Await) (timeout : Option Nat) (ns : Nat) : Park :=
  { instr := i, await := a, since := s.now, timeout := timeout, limit := if ns = 0 then none else some (s.now + 8 * ns),
    limNs := ns, ticket := s.fresh, cs := s.sharedNow t i, came := s.fresh, kept := s.keptNow t i,
    read := if pastOperands a then some s.fresh else none,
    els := if pastOperands a then s.elsNow t i else [],
    tab := if readsTable i then some (s.core (unitOfThread t)).table else none }

/-- The table that a parked instruction reads, `now` being its core's: as committed at its issue; once the seal that it found
running is over, as that left it, with the NANSUB of its issue (R88, R89). -/
def Park.table (p : Park) (now : CodeTable) : CodeTable := p.tab.getD now

/-- A park whose instruction's table was SEALING at its issue, with the table that the seal leaves (R89). -/
def Park.sealed (p : Park) (left : CodeTable) : Park :=
  { p with tab := p.tab.map (fun x => if x.state = .sealing then { left with nansub := x.nansub } else x) }

/-- A park of the same instruction that goes on with another await: what it read at its issue stays, and its number at a
closed home while it awaits the same home (R34, R65, R88, R228). -/
def Park.turn (p new : Park) (a : Await) : Park :=
  { new with since := p.since, ticket := p.ticket, timeout := p.timeout.or new.timeout, cs := p.cs, args := p.args,
             kept := (match a with | .joinZero _ => new.kept | _ => p.kept), read := p.read.or new.read,
             els := if p.read.isSome then p.els else new.els, woken := p.woken,
             came := if p.atHome.any (fun l => a.closedAt.any (sameArrival l)) then p.came else new.came,
             tab := p.tab }

/-- WAITLIM of a thread's region, in ns (R138, R299). -/
def State.waitLimNs (s : State) (t : Nat) : Nat := ((effWaitLim s (s.th t).root (s.th t).rcb).getD 0).toNat

/-- WAITLIM of a parked thread's region asked for again, where a home holds up its RCB (R140, R228, R299). -/
def State.askLimit (s : State) (t : Nat) (shut : Option Await) : State :=
  match shut, (s.th t).park with
  | some a, some p => if p.due.isSome then s.comeLater .waitlimitExpiry [t, p.ticket] a else s
  | _, _ => s

/-- The thread parked with its instruction; the wait limit is read at the start of the park (R140, R299). A park that
goes on for the same instruction keeps what it read at its issue, and one that is limited throughout its limit. -/
def State.parkOn (s : State) (t : Nat) (i : Instr) (a : Await) (timeout : Option Nat := none)
    (limited : Bool := counts i a) : State :=
  let th := s.th t
  let shut := if limited then s.rcbShut th.root th.rcb else none
  let new := s.newPark t i a timeout (if limited && shut.isNone then s.waitLimNs t else 0)
  let new := if shut.isSome then { new with due := some s.now } else new
  let p : Park := match th.park with
    | some p =>
      if p.instr ≠ i then new
      else
        let q := p.turn new a
        if limited && (p.limit.isSome || p.due.isSome) then { q with limit := p.limit, limNs := p.limNs, due := p.due } else q
    | none => new
  { (s.setTh t { th with status := .park, park := some p }) with fresh := s.fresh + 1 }.askLimit t shut

/-- The wait limit of a request's thread begins, where the request starts to wait at its home (R299). -/
def State.startLimit (s : State) (t k : Nat) : State :=
  let ns := s.waitLimNs t
  match (s.th t).park with
  | some p =>
    if p.await ≠ .reply k || p.limit.isSome || p.due.isSome then s
    else match s.rcbShut (s.th t).root (s.th t).rcb with
      | some a => (s.updTh t (fun th => { th with park := some { p with due := some s.now } })).askLimit t (some a)
      | none => if ns = 0 then s
        else s.updTh t (fun th => { th with park := some { p with limit := some (s.now + 8 * ns), limNs := ns } })
  | none => s

/-- A parked instruction taken up again; the cycle of its resumption is kept (R89, R120). -/
def State.wake (s : State) (t : Nat) : State :=
  let c := s.nextCycle (unitOfThread t)
  { (s.updTh t (fun th => { th with status := .run, park := th.park.map (fun p => { p with woken := some c }) })) with
    resume := some t }

/-! ### Completion (R15, R26) -/

/-- Pending prefixes consumed, with their payloads (R12, R13, R15). -/
def St.noPfx (x : St) : St :=
  { x with ppRlx := false, ppFmt := false, pfxF := if x.ppFmt then 0 else x.pfxF, pfxR := if x.ppRlx then 0 else x.pfxR }

/-- What the reply to a matched message of the primary leaves in the secondary, which waits with the same message
(R327). -/
def State.twinReply (s : State) (t o : Nat) (i : Instr) : State :=
  let p := s.th t
  let rs := ((destRegs i).map (·.toNat)).filter (· < 112) ++ (vecDsts i).flatMap aliasRegs
  let old := (AMap.get { primary := t, secondary := o } s.pairs t).fpf
  (s.consume o i).updTh o (fun q =>
    let q := rs.foldl (fun q r => q.setReg r (p.reg r)) q
    { q with status := .run, park := none, pc := p.pc, matched := false, msgNo := p.msgNo + 1, retried := false,
             pending := q.pending ++ p.pending.filter (fun x => rs.contains x.1),
             st := { q.st with wst := if plainMessage i then q.st.wst else p.st.wst,
                               fpf := q.st.fpf ||| (p.st.fpf &&& ~~~old) }.noPfx })

/-- A matched message of the primary is over: its reply goes to the secondary too, unless a trap has frozen it (R327). -/
def State.mirror (s : State) (t o : Nat) (i : Instr) : State :=
  let s := if (s.th o).paired then s.twinReply t o i else s
  { (s.updTh t (fun p => { p with matched := false, msgNo := p.msgNo + 1 })) with pairs := AMap.del s.pairs t }

/-- Whether an instruction is a `pfx`, which leaves prefixes pending (R42). -/
def isPrefix (i : Instr) : Bool := match i with | .pfxFmt _ _ _ _ | .pfxRlx => true | _ => false

/-- What follows a thread's completion of an instruction: a server routine that has returned ends; a matched message's
reply reaches the secondary; a twin that had to complete first is FROZEN (R194, R327, R367). -/
def State.settled (s : State) (t : Nat) (i : Instr) : State :=
  let th := s.th t
  let s := if th.pc = 0 && isSkerry (unitOfThread t) && slotOfThread t = 31 then
      s.push .delegationRoutineEnd [unitOfThread t] else s
  match th.twin with
  | some (o, false) =>
    let s := if th.matched then s.mirror t o i else s
    if th.freezing then s.pairDiff t else s
  | _ => s

/-- The instruction completes: sources consumed, prefixes consumed unless it is a pfx, control at `pc` (R15, R26). -/
def State.finishAt (s : State) (t : Nat) (i : Instr) (pc : Word) : State :=
  ((s.consume t i).updTh t (fun th =>
    { th with status := .run, park := none, pc := pc, retried := false,
              st := if isPrefix i then th.st else th.st.noPfx })).settled t i

/-- Completion with control at PC + 4 (R9). -/
def State.finish (s : State) (t : Nat) (i : Instr) : State := s.finishAt t i ((s.th t).pc + 4)

/-! ### Migration (R196-R201, R276) -/

/-- The context a message carries (R198): live registers only, or every register on a return trap (R276). -/
def carried (th : Thread) (whole : Bool) (live : BitVec 15) : Thread :=
  let keep : Nat → Bool := fun n => whole || (1 ≤ n && n ≤ 15 && n < th.lim && live.getLsbD (n - 1))
  { th with regs := th.regs.filter (fun p => keep p.1), pending := th.pending.filter (fun p => keep p.1),
            poisoned := th.poisoned.filter (fun p => keep p.1), park := none, lastIssue := none, yielding := false,
            ahead := [], landed := none, stopped := none }

/-- The thread sent to a unit as a context message (R198); its slot stays MIGRATING until it is accepted. -/
def State.sendContext (s : State) (t dest : Nat) (whole : Bool) (live : BitVec 15) : State :=
  let (k, s) := s.tick
  let th := s.th t
  let s := { s with msgs := AMap.set s.msgs k { thread := carried th whole live, source := t, dest := dest,
                                                whole := whole } }
  (s.setTh t { th with status := .migrating, park := none, msg := some k }).push .contextMessageArrival [k]

/-- Where a return trap lands: the buddy when the budget holds its cluster, else core 0 of the budget's lowest cluster
on the landing die (R276). -/
def State.landing (s : State) (t : Nat) : Nat :=
  let u := unitOfThread t
  let th := s.th t
  match effBudget s th.root treeDepth th.rcb with
  | none => (s.buddy u).getD 0
  | some b =>
    let lowDie := ((upTo 8).find? b.hasDie).getD 0
    let fallback := mkCape (if !isHolm u && b.hasDie (dieOf u) then dieOf u else lowDie) b.clo 0
    match s.buddy u with
    | some v => if b.hasCluster (dieOf v) (clusterOf v) then v else fallback
    | none => fallback

/-- Whether the drain of every other release than a fence is over (R182, R186). -/
def State.drained (s : State) (t : Nat) : Bool := (s.posted t).isEmpty

/-- A refused entry of the thread, which a draining instruction meets as POSTREF (R182). -/
def State.holdsPostref (s : State) (t : Nat) : Bool := (s.th t).held.any (fun h => h.cause = cPOSTREF)

/-- A thread and the context message that carries it, while it stands MIGRATING, changed alike (R198, R201). -/
def State.updMoving (s : State) (t : Nat) (f : Thread → Thread) : State :=
  let k := (s.th t).msg
  let s := s.updTh t f
  match k with
  | some k => { s with msgs := s.msgs.map (fun (x : Nat × Message) =>
      (x.1, if x.1 = k then { x.2 with thread := f x.2.thread } else x.2)) }
  | none => s

/-- The forwarding entries of a unit that are taken: those in use and those that contexts under way will need (R201). -/
def State.forwardsTaken (s : State) (u : Nat) : Nat :=
  (s.core u).forward.length +
    ((s.liveSlots u).filter (fun p => p.2.status = .migrating)).foldl (fun n p => n + p.2.pending.length) 0

/-- What keeps a thread from leaving its unit: posted entries, or too few free forwarding entries (R182, R201). -/
def State.heldBack (s : State) (t : Nat) : Option Await :=
  let p := (s.th t).pending
  if !s.drained t then some (.drain 2 false)
  else if !p.isEmpty && 16 < s.forwardsTaken (unitOfThread t) + p.length then some (.regs (p.map (·.1)))
  else none

/-- The return trap (R276): drain, then send every register to the landing core, PC at the instruction. -/
def State.returnTrap (s : State) (t : Nat) (i : Instr) : State :=
  match s.heldBack t with
  | some a => s.parkOn t i a
  | none => s.sendContext t (s.landing t) true 0

/-! ### The frame of an instruction (R26, R48) -/

/-- Whether the thread runs in the delegation server slot (R195). -/
def inServer (t : Nat) : Bool := isSkerry (unitOfThread t) && slotOfThread t = 31
/-- Whether the thread runs in the handler slot (R300). -/
def inHandler (t : Nat) : Bool := !isSkerry (unitOfThread t) && slotOfThread t = 63

/-- Row 2 of R48: a class the unit lacks (R46, R47, R195). -/
def absentClass (i : Instr) (t : Nat) : Option Res :=
  let u := unitOfThread t
  if isSkerry u then
    if engineOf i = some 7 && !isHolm u then some (.trap cNOUNIT 0 0 0)
    else if returnsOnSkerry i then some (if inServer t then .trap cNOUNIT 0 0 0 else .ret)
    else none
  else if engineOf i = some 6 || engineOf i = some 7 then some (.trap cNOUNIT 0 0 0)
  else none

/-- Rows 3 to 6 of R48 that the fields, the prefixes, the limit and the mode decide. -/
def decodeCause (i : Instr) (th : Thread) : Option Nat :=
  if !wellFormed i then some cILLFLD
  else if misusesPfx i th.st then some cILLFLD
  else if overLimit i th.lim then some cREGRANGE
  else if privileged i && !th.st.mode then some cPRIV
  else none

/-- The order of a thread's instruction among those of its unit that name a mailbox: when it parked, or now (R34,
R129). -/
def State.claimOf (s : State) (t : Nat) (i : Instr) : Nat :=
  match s.parkOf t i with
  | some p => p.ticket
  | none => s.fresh

/-- Whether an instruction that another slot of the unit issued earlier is parked and `takes` what a thread's instruction
asks for: a mailbox goes to the slot that issues first (R34, R129). -/
def State.claimed (s : State) (t : Nat) (i : Instr) (takes : Instr → Bool) : Bool :=
  (s.liveSlots (unitOfThread t)).any (fun (_, th) => th.status = .park && match th.park with
    | some p => p.ticket < s.claimOf t i && takes p.instr
    | none => false)

/-- Whether an earlier write of the unit to the same neighbour's mailbox is still to be made (R129). -/
def State.writesBefore (s : State) (t : Nat) (i : Instr) : Bool :=
  match i with
  | .thrNwr d _ => s.claimed t i (fun j => match j with | .thrNwr e _ => e = d | _ => false)
  | _ => false

/-- Whether a pop finds the stream exhausted, `bytes` being left for it: at its first field, at a second vector field, or at
a scalar field after the vector fields, which pop first (R35, R232). -/
def Stream.exhausts (x : Stream) (i : Instr) (k bytes : Nat) : Bool :=
  let vecs := ((vecSrcs i).filter (fun v => vstreamOf v = some k)).length
  let scal := ((srcRegs i).filter (fun r => streamOf r = some k)).length
  bytes = 0 || (2 ≤ vecs && bytes ≤ 32) || (1 ≤ scal && bytes < 32 * vecs + scal * x.esz)

/-- A stream an instruction reads or writes: STREAMERR, a park, or neither (R34, R35, R232). A pop for which elements are left,
all of them read by other slots' parked instructions, parks until they are popped or given back (log 53). -/
def streamState (s : State) (t : Nat) (i : Instr) (k : Nat) : Option Res :=
  let x := s.stream (streamKey t k)
  let pops := popsStream k i
  let pushes := pushesStream k i
  if !pops && !pushes then none
  else if !x.usable (s.th t).rcb || (pops && x.write) || (pushes && !x.write) then some (.trap cSTREAMERR 0 0 0)
  else if pops then
    let left := x.left * x.esz - (s.taken t k).length
    let n := min (popBytes i k x.esz) left
    if x.exhausts i k (x.left * x.esz) then some (.trap cSTREAMERR 0 0 0)
    else if x.exhausts i k left || (x.loose (s.taken t k)).length < n then some (.park (.streamIn k n))
    else none
  else
    let n := s.promised t i k x.esz + pushBytes i k x.esz
    if x.left * x.esz < n then some (.trap cSTREAMERR 0 0 0)
    else if 128 < x.fifo.length + n then some (.park (.streamOut k n))
    else none

/-- A mailbox an instruction reads that it must wait for: empty, or read by an instruction that issued earlier (R34). -/
def mailboxState (s : State) (t : Nat) (i : Instr) : Option Res :=
  match (srcRegs i).find? (fun r => isMailbox r &&
      ((AMap.get none (s.core (unitOfThread t)).mbox (r.toNat - 124)).isNone ||
        s.claimed t i (fun j => (srcRegs j).contains r))) with
  | some r => some (.park (.mbox (r.toNat - 124)))
  | none => none

/-- Pending registers park an instruction that touches one, and a poisoned source traps (R178, R181). -/
def regsState (th : Thread) (read touched : List Nat) : Option Res :=
  let pend := (th.pending.map (·.1)).filter (fun r => r ≠ 0 && touched.contains r)
  if !pend.isEmpty then some (.park (.regs pend))
  else match th.poisoned.find? (fun p => read.contains p.1) with
    | some (_, a) => some (.trap cPOISON 1 a 0)
    | none => none

/-- Parks and traps that come before an instruction's own execution: pending registers (R181), a poisoned source
(R178), streams (R34), an empty mailbox (R34). Operands that went out with a request are not looked at again. -/
def operandState (s : State) (t : Nat) (i : Instr) : Option Res :=
  match regsState (s.th t) (regsRead i) (regsTouched i) with
  | some r => some r
  | none =>
    if !(s.sentArgs t i).isEmpty then none
    else if (srcRegs i).any isSpecial || (destRegs i).any isSpecial || (vecSrcs i).any (fun v => (vstreamOf v).isSome) ||
        (vecDsts i).any (fun v => (vstreamOf v).isSome) then
      ((upTo 8).findSome? (streamState s t i)).or (mailboxState s t i)
    else none

/-- Rows 2 to 6 of R48: what the word, the unit and the mode decide. -/
def decodeState (s : State) (t : Nat) (i : Instr) : Option Res :=
  (absentClass i t).or ((decodeCause i (s.th t)).map (fun c => .trap c 0 0 0))

/-- The addresses at which an instruction accesses memory by its own fields, each with the right it asks for (R63). -/
def accessVas (s : State) (t : Nat) (i : Instr) : List (Word × Right) :=
  let src := srcVal s t i
  let units : Nat → Word → Word := fun n v => v * BitVec.ofNat 64 n
  let blocks : Word → Nat → List Word := fun a n => (upTo (n + 1)).map (fun j => a + BitVec.ofNat 64 (32 * j))
  match i with
  | .ld _ _ w _ _ imm => [(src 0 + units (2 ^ w.toNat) (sext imm), .r)]
  | .st _ _ w _ imm => [(src 1 + units (2 ^ w.toNat) (sext imm), .w)]
  | .vmemLd _ _ _ n imm => (blocks (src 0 + sext imm * 32) n.toNat).map (fun a => (a, .r))
  | .vmemSt _ _ _ n imm => (blocks (src 0 + sext imm * 32) n.toNat).map (fun a => (a, .w))
  | .felWfe _ _ _ o | .felWfs _ _ _ o | .felAny _ _ o => [(src 0 + BitVec.ofNat 64 (8 * o.toNat), .r)]
  | .fesWes _ _ _ o | .fesSetf _ _ o | .fesSete _ _ o => [(src 1 + BitVec.ofNat 64 (8 * o.toNat), .w)]
  | .waitFe _ _ _ | .waitBuoy _ _ _ => [(src 1, .r)]
  | .waitJz _ _ => [(src 0, .r)]
  | .amoAdd _ _ _ | .amoAnd _ _ _ | .amoOr _ _ _ | .amoXor _ _ _ | .amoMin _ _ _ | .amoMax _ _ _ | .amoMinu _ _ _
  | .amoMaxu _ _ _ | .amoSwap _ _ _ | .amoIncw _ _ _ | .amoFaddF32 _ _ _ => [(src 0, .rw)]
  | .amoCas _ _ _ | .amoFaddb _ _ _ => [(src 1, .rw)]
  | .rupdAdd _ _ | .rupdAnd _ _ | .rupdOr _ _ | .rupdXor _ _ | .rupdMin _ _ | .rupdMax _ _ | .rupdMinu _ _
  | .rupdMaxu _ _ | .rupdSwap _ _ | .rupdIncw _ _ | .rupdFaddF32 _ _ => [(src 0, .rw)]
  | .jcInit _ _ => [(src 0, .w)]
  | .jcAdd _ _ _ | .jcDec _ _ => [(src 0, .rw)]
  | .tqPush _ _ _ => [(src 0, .r)]
  | .tqTake _ _ _ | .tqSteal _ _ _ => [(src 1, .w)]
  | .tqCfg _ _ => [(src 1, .r)]
  | .tqDone => (match (s.queue (queueOfHandle (s.th t).task)).running.find? (fun r => r.seq = (s.th t).seq.toNat) with
    | some r => if r.join = 0 then [] else [(r.join, .rw)]
    | none => [])
  | _ => []

/-- The slot-window offset an address names for the handler slot of its own core (R296). -/
def slotWindow (t : Nat) (va : Word) : Option Nat :=
  if inHandler t && isWindow va && bits va 55 33 = 0 && locLocal va.toNat / 2 ^ 15 = unitOfThread t &&
      0x6000 ≤ bits va 14 0 && bits va 14 0 < 0x6500 then some (bits va 14 0 - 0x6000)
  else none

/-- An engine word whose command, if it is one, makes no access through a page table: it needs no ROOTPT (R140, R304). So
the close that ends a wait at a home does not wait there itself (R228, R282; log 57). -/
def makesNoAccess : Instr → Bool
  | .engClaim _ _ | .engRelease _ _ | .engClear _ _ | .ewr _ _ _ _ | .erd _ _ _ _ | .streamUnbind _ | .copyBclose _
  | .bmacOpen | .bmacAclr _ | .bmacClose | .mtxMma _ _ _ | .mtxMmas _ _ _ | .mtxAclr _ | .mtxAcopyIn _ _ _
  | .mtxAcopyOut _ _ _ | .mtxTset _ _ _ | .mtxTseal _ | .pmigCommit _ => true
  | _ => false

/-- Whether an instruction reads RCB fields of its own region: its budget for a window address, a child or a destination,
its grants, its save area, or its mode and root for a command (R63, R132, R135, R196, R220, R317, R329). A wait on a
timeline of a Holm die has no budget test (R223). -/
def readsRcb (s : State) (t : Nat) (i : Instr) : Bool :=
  (accessVas s t i).any (fun p => isWindow p.1 && (slotWindow t p.1).isNone) ||
  match i with
  | .thrSpawn _ _ _ | .thrNwr _ _ | .mig _ _ | .sysCapget _ _ _ | .sysPre _ _ _ | .waitBuoy _ _ _ | .buoySet _ _
  | .tqCfg _ _ => true
  | .waitTl _ _ _ => bits (srcVal s t i 1) 27 24 < 8
  | .ld _ _ _ _ g _ | .st _ _ _ g _ | .vmemLd _ _ g _ _ | .vmemSt _ _ g _ _ => g = 1
  | _ => (engineOf i).isSome && !makesNoAccess i

/-- An instruction that reads the RCB of its region parks while its home is closed (R228, R347). -/
def rcbState (s : State) (t : Nat) (i : Instr) : Option Res :=
  if s.allOpen || !(s.sentArgs t i).isEmpty || !readsRcb s t i then none
  else (s.rcbShut (s.th t).root (s.th t).rcb (s.arrivalOf t)).map .park

/-- Everything that decides an instruction before its own effect: R48 rows 2 to 6, then its operands, then its region's
RCB. -/
def precheck (s : State) (t : Nat) (i : Instr) : Option Res :=
  ((decodeState s t i).or (operandState s t i)).or (rcbState s t i)

/-- What an instruction's execution comes to, made the next state. -/
def applyRes (s : State) (t : Nat) (i : Instr) : Res → State
  | .done s' => s'.finish t i
  | .goto s' pc => s'.finishAt t i pc
  | .trap c info addr data => s.takeTrap t c info addr data (encode i)
  | .park a => s.parkOn t i a (ownTimeout i)
  | .sent s' => s'
  | .ret => s.returnTrap t i

/-- The kind of an instruction's message: the fields of its encoding that say what is asked, its registers, offsets and
widths left out; and whether it is an RLX form (R327). -/
def messageKind (i : Instr) (rlx : Bool) : Nat :=
  let w := (encode i).toNat
  let op := w / 2 ^ 26
  let form := match op with
    | 18 | 19 => w / 2 ^ 9 % 8
    | 26 => w / 4 % 32
    | 37 => w / 2 ^ 13 % 2
    | 48 | 49 | 50 => w / 2 ^ 14 % 2 ^ 12
    | 52 => w % 64
    | 16 | 17 => 0
    | _ => w % 32
  (op * 2 ^ 12 + form) * 2 + if rlx then 1 else 0

/-- The bytes that an instruction's message asks for at each address. -/
def messageSize : Instr → Nat
  | .ld _ _ w _ _ _ | .st _ _ w _ _ => 2 ^ w.toNat
  | .vmemLd _ _ _ _ _ | .vmemSt _ _ _ _ _ => 32
  | .amoFaddF32 _ _ _ | .rupdFaddF32 _ _ => 4
  | _ => 8

/-- The data of an instruction's message: what it stores, or the operands that are no address of its own (R327). -/
def messageData (s : State) (t : Nat) (i : Instr) : List Nat :=
  let src := fun (n : Nat) => (srcVal s t i n).toNat
  match i with
  | .ld _ _ _ _ _ _ | .vmemLd _ _ _ _ _ | .felWfe _ _ _ _ | .felWfs _ _ _ _ | .felAny _ _ _ => []
  | .st _ _ w _ _ => [src 0 % 2 ^ (8 * 2 ^ w.toNat)]
  | .vmemSt _ _ _ _ _ => (upTo (vecSrcs i).length).map (fun n => (vecVal s t i n).toNat)
  | .fesWes _ _ _ _ | .fesSetf _ _ _ | .fesSete _ _ _ => [src 0]
  | .amoFaddF32 _ _ _ | .rupdFaddF32 _ _ => [src 1 % 2 ^ 32]
  | _ => (upTo (srcRegs i).length).map src ++ (impliedRegs i).map (fun r => ((s.th t).reg r).toNat)

/-- What a twin's message is: its kind, size, addresses and data (R327). -/
def messageOf (s : State) (t : Nat) (i : Instr) : List Nat :=
  let vas := (accessVas s t i).map (fun p => p.1.toNat)
  [messageKind i (s.th t).st.ppRlx, messageSize i, vas.length] ++ vas ++ messageData s t i

/-- The hash of a twin's message left with the primary's router, where the other twin's of the same number is awaited for 100
microseconds (R327). -/
def State.postHash (s : State) (t o : Nat) (sec : Bool) (msg : List Nat) : State :=
  let key := if sec then o else t
  let h := Config.pairHash msg
  let m := AMap.get { primary := key, secondary := if sec then t else o, ticket := s.fresh } s.pairs key
  let m := if sec then { m with hashS := some h } else { m with hashP := some h }
  let s := { s with pairs := AMap.set s.pairs key m, fresh := s.fresh + 1 }
  if m.hashP.isSome && m.hashS.isSome then s.push .pairMessageMatch [key] else s.after 800000 .pairSilence [key, m.ticket]

/-- A twin's message is held until the other twin's message of the same number has arrived (R327): the twin parks. -/
def pairGate (s : State) (t : Nat) (i : Instr) : Option State :=
  match (s.th t).twin with
  | none => none
  | some (o, sec) =>
    if !sendsMessage i || (s.th t).matched then none
    else some ((s.parkOn t i .pair).postHash t o sec (messageOf s t i))

/-- The buffered translations that deny the accesses of an instruction that comes to its own effect leave their buffer, and
are walked again (R306). -/
def State.dropDenials (s : State) (t : Nat) (i : Instr) : State :=
  if (accessVas s t i).isEmpty || (precheck s t i).isSome then s
  else (accessVas s t i).foldl (fun s p =>
    s.dropDenied (tlbOfUnit (unitOfThread t)) (s.th t).root p.1 p.2 (!(s.th t).st.mode)) s

/-- One instruction word of the focus thread after fetch and decode: the checks of R48, then its own effect. -/
def runWord (i : Instr) (s : State) (body : State → Nat → Res) : Host.Outcome State Fault Refusal :=
  .next (match precheck s s.focus i with
    | some r => applyRes s s.focus i r
    | none => match pairGate s s.focus i with
      | some s' => s'
      | none => applyRes s s.focus i (body s s.focus))

end Sys2Proof.Machine
end

