-- ==== Sys2Proof/Machine/Home.lean ====
section
/-!
DEFINITION. Homes: when a home admits an access, how it performs one, the full/empty waiters, the slot window, the
journal, and what the answers do to the thread (R175-R195, R202-R205, R228, R282, R296, R347).
-/

namespace Sys2Proof.Machine

/-! ### The slot window (R296) -/

/-- The refused journal entry that a record shows, if it is still held. -/
def State.shownEntry (s : State) (th : Thread) : Option JEntry :=
  match th.recEntry with
  | some (u, k) => if AMap.has (s.core u).journal k then some (AMap.get {} (s.core u).journal k) else none
  | none => none

/-- A read of the slot window of the handler slot `h` at a doubleword offset (R296, R310). -/
def State.windowRead (s : State) (h o : Nat) : Word :=
  let hd := s.th h
  if 0x400 ≤ o && o < 0x440 then hd.record.words.getD ((o - 0x400) / 8) 0
  else match hd.handles with
    | none => 0
    | some t =>
      let th := s.th t
      if o < 0x380 then (if o / 8 < th.lim then th.reg (o / 8) else 0)
      else if o = 0x380 then th.pc
      else if o = 0x388 then th.st.toWord
      else if o = 0x390 then th.rnd.zeroExtend 64
      else if o = 0x398 then th.live.zeroExtend 64
      else if o = 0x3A0 then th.rcb
      else if o = 0x3A8 then th.task
      else if o = 0x3B0 then th.seq
      else if o = 0x3B8 then s.tid t
      else if o = 0x3C0 then BitVec.ofNat 64 th.lim
      else match s.shownEntry th with
        | some e =>
          if 0x440 ≤ o && o < 0x460 then BitVec.ofNat 64 (natOfBytes ((e.data.drop (o - 0x440)).take 8))
          else if o = 0x460 then e.mask.zeroExtend 64 else 0
        | none => 0

/-- A write of the slot window; read-only fields ignore it (R296). -/
def State.windowWrite (s : State) (h o : Nat) (v : Word) : State :=
  match (s.th h).handles with
  | none => s
  | some t =>
    if o < 0x380 then s.updTh t (fun th => if o / 8 < th.lim then th.setReg (o / 8) v else th)
    else if o = 0x380 then s.updTh t (fun th => { th with pc := v &&& ~~~3 })
    else if o = 0x388 then s.updTh t (fun th => { th with st := St.ofWord v })
    else if o = 0x390 then s.updTh t (fun th => { th with rnd := v.truncate 2 })
    else if o = 0x398 then s.updTh t (fun th => { th with live := v.truncate 15 })
    else s

/-- Whether a slot-window access meets a pending register of the frozen thread (R296). -/
def State.windowPending (s : State) (l : Nat) : Bool :=
  isSlotWin l && winOff l < 0x380 && match (s.th (winHandler l)).handles with
    | some t => winOff l / 8 ≠ 0 && (s.th t).pending.any (fun p => p.1 = winOff l / 8)
    | none => false

/-! ### Performing an access (R62, R178, R186, R190, R202) -/

/-- n bytes at a location, a slot window included. -/
def State.fetchNat (s : State) (l n : Nat) : Nat :=
  if isSlotWin l then (s.windowRead (winHandler l) (winOff l)).toNat else s.read l n
def State.fetch64 (s : State) (l : Nat) : Word := BitVec.ofNat 64 (s.fetchNat l 8)
/-- An 8-byte word written at a location: its poison clears (R178). -/
def State.store64 (s : State) (l : Nat) (v : Word) : State :=
  if isSlotWin l then s.windowWrite (winHandler l) (winOff l) v else s.putWord l v

/-- The new word and the WST of an `amo` function on 8 bytes (R190, R191). -/
def amoWord (fn : Nat) (m v cmp : Word) : Word × Option (BitVec 3) :=
  match fn with
  | 0 => (m + v, none)
  | 1 => (m &&& v, none)
  | 2 => (m ||| v, none)
  | 3 => (m ^^^ v, none)
  | 4 => (if v.slt m then v else m, none)
  | 5 => (if m.slt v then v else m, none)
  | 6 => (if v.ult m then v else m, none)
  | 7 => (if m.ult v then v else m, none)
  | 8 => (v, none)
  | 9 => if m = cmp then (v, some wstOK) else (m, some wstREFUSED)
  | 10 => (if v.toNat ≤ m.toNat then 0 else m + 1, none)
  | _ => if m.toNat + v.toNat ≤ cmp.toNat then (m + v, some wstOK) else (m, some wstREFUSED)

/-- The k-th word of a posted entry: value and byte mask (R182). -/
def postPart (data : List Byte) (mask : BitVec 32) (k : Nat) : Nat × BitVec 8 :=
  (natOfBytes ((data.drop (8 * k)).take 8), mask.extractLsb' (8 * k) 8)

/-- Bytes under a mask written from a location. -/
def State.writeMasked (s : State) (l : Nat) (m : Nat) : List Byte → State
  | [] => s
  | b :: bs => (if m % 2 = 1 then s.write l 1 b.toNat else s).writeMasked (l + 1) (m / 2) bs

/-- Whether the word's full/empty bit lets an operation go on (R186, R189). -/
def State.feReady (s : State) (op : MemOp) (l : Nat) : Bool :=
  match op with
  | .fel m _ => m = 2 || s.full l
  | .fes m _ => m ≠ 0 || !s.full l
  | .feBit f => s.full l = f
  | _ => true

/-- One part of an operation performed at its home in one step; waiters are not looked at yet. -/
def State.performRaw (s : State) (op : MemOp) (k l : Nat) : State × Reply :=
  let bad := s.outOfReach l || s.hostAborts l
  let poisoned := !isSlotWin l && s.isPoison l 1
  match op with
  | .load n sx _ =>
    if bad || poisoned then (s, { poison := true })
    else
      let v := s.fetchNat l n
      (s, { val := if sx && v.testBit (8 * n - 1) then BitVec.ofInt 64 ((v : Int) - 2 ^ (8 * n)) else BitVec.ofNat 64 v })
  | .store n v =>
    if bad || (poisoned && n < 8) then (s, { poison := true })
    else if n = 8 then (s.store64 l v, {}) else (s.write l n v.toNat, {})
  | .amo fn v cmp _ =>
    if bad || poisoned then (s, { poison := true })
    else if fn = 12 then
      let m := s.read l 4
      let (r, f) := fadd32 (BitVec.ofNat 32 m) (v.truncate 32)
      (s.write l 4 r.toNat, { val := BitVec.ofNat 64 m, flags := f })
    else
      let m := s.fetch64 l
      let (r, w) := amoWord fn m v cmp
      (s.store64 l r, { val := m, wst := w })
  | .fel m _ =>
    if bad || poisoned then (s, { poison := true })
    else
      let v := s.read64 l
      let w := if m = 2 && !s.full l then wstEMPTY else wstOK
      (if m = 1 then s.setFull l false else s, { val := v, wst := some w })
  | .fes m v => if bad then (s, { poison := true }) else ((s.putWord l v).setFull l (m ≠ 2), { wst := some wstOK })
  | .feBit _ => if bad then (s, { poison := true }) else (s, { wst := some wstOK })
  | .vload _ _ => if bad || poisoned then (s, { val := s.read64 l, poison := true }) else (s, { val := s.read64 l })
  | .words => (s, { val := s.read64 l })
  | .vstore ws => if bad then (s, { poison := true }) else (s.putWord l (ws.getD k 0), {})
  | .taken ws _ _ _ _ => (if bad then s else s.putWord l (ws.getD k 0), {})
  | .post data mask =>
    let (v, m) := postPart data mask k
    if bad || (poisoned && m ≠ 255) then (s, { poison := true })
    else if m = 255 then (s.putWord l (BitVec.ofNat 64 v), {})
    else (s.writeMasked l m.toNat (bytesOfNat 8 v), {})

/-- The oldest waiter of a word that the present bit satisfies is served and its reply sent (R187). -/
def State.serveOne (s : State) (l : Nat) : Option State :=
  let h := homeOf l
  match (s.home h).waiters.find? (fun k => wordOf ((s.req k).parts.headD 0) = wordOf l && s.feReady (s.req k).op l) with
  | none => none
  | some k =>
    let r := s.req k
    let (s, a) := s.performRaw r.op 0 l
    some (((s.setReq k { r with got := [(0, a)] }).updHome h (fun x =>
      { x with waiters := x.waiters.filter (· ≠ k) })).push .memoryReply [k])

/-- Waiters served one after another, each judged against the state the step before it left (R187). -/
def State.serveWaiters : Nat → State → Nat → State
  | 0, s, _ => s
  | n + 1, s, l => match s.serveOne l with
    | none => s
    | some s' => State.serveWaiters n s' l

/-- One part performed, and the waiters that the new bit satisfies served. -/
def State.performPart (s : State) (op : MemOp) (k l : Nat) : State × Reply :=
  let (s', a) := s.performRaw op k l
  match op with
  | .fel _ _ | .fes _ _ => (State.serveWaiters ((s'.home (homeOf l)).waiters.length) s' l, a)
  | _ => (s', a)

/-- Parts performed one after another. -/
def State.performParts (s : State) (op : MemOp) (k : Nat) : List Nat → State × List Reply
  | [] => (s, [])
  | l :: ls =>
    let (s1, a) := s.performPart op k l
    let (s2, as) := s1.performParts op (k + 1) ls
    (s2, a :: as)

/-! ### What the answers do (R23, R63, R178, R191) -/

/-- Four words as a vector register's value. -/
def vecOfWords (ws : List Word) : BitVec 256 := ws.getD 3 0 ++ ws.getD 2 0 ++ ws.getD 1 0 ++ ws.getD 0 0

/-- The registers of a vector load written from its words. -/
def State.writeVecs (s : State) (t : Nat) (v : BitVec 5) : Nat → List Word → State
  | 0, _ => s
  | n + 1, ws => (s.writeVec t v (vecOfWords ws)).writeVecs t (v + 1) n (ws.drop 4)

/-- An operation's answers as the instruction's result. POISON names the access, 1 read or 2 write, and the address of
the first poisoned word (R297). -/
def finishOp (s : State) (t : Nat) (va : Word) (op : MemOp) (as : List Reply) : Res :=
  let a := as.headD {}
  let bad := (as.takeWhile (fun a => !a.poison)).length
  if bad < as.length then
    .trap cPOISON (match op with | .store _ _ | .fes _ _ | .vstore _ | .post _ _ => 2 | _ => 1)
      (va + BitVec.ofNat 64 (8 * bad)) 0
  else match op with
    | .load _ _ d => .done (s.writeDest t d a.val)
    | .amo _ _ _ d =>
      let s := (s.writeDest t d a.val).flag t a.flags
      .done (match a.wst with | some w => s.wst t w | none => s)
    | .fel _ d => .done ((if a.wst = some wstTIMEOUT then s else s.writeDest t d a.val).wst t (a.wst.getD wstOK))
    | .fes _ _ | .feBit _ => .done (s.wst t (a.wst.getD wstOK))
    | .vload v n => .done (s.writeVecs t v (n + 1) (as.map (·.val)))
    | .words => .done s
    | .taken _ h seq d w =>
      .done (((s.updTh t (fun th => { th with task := h, seq := BitVec.ofNat 64 seq })).writeDest t d
        (BitVec.ofNat 64 seq)).wst t w)
    | .store _ _ | .vstore _ | .post _ _ => .done s

/-! ### What keeps an access from being performed (R183, R205) -/

/-- The egress queue that an access to some locations stands behind (R205). -/
def State.egressAhead (s : State) (parts : List Nat) : Option Await :=
  ((parts.filterMap s.destOf).find? (fun d => s.egressBefore d 0)).map .egress

/-- What keeps a request of a thread from being performed now. A closed home comes first: an access behind a store of its
own thread that the home holds up is held up there too (R228, R229). -/
def State.heldUp (s : State) (t : Nat) (parts : List Nat) : Option Await :=
  match parts.findSome? (fun l => s.shutFor (s.arrivalOf t l) l none) with
  | some a => some a
  | none => match parts.find? (fun l => s.earlier (s.th t).uid s.fresh [wordOf l]) with
    | some l => some (.sameWord (wordOf l))
    | none => (s.egressAhead parts).or ((parts.find? s.windowPending).map .window)

/-- Whether an access of several words is held up at the home of one: its words then go out one by one, and each is
performed as soon as its own home lets it (R171). -/
def State.partlyHeld (s : State) (t : Nat) (parts : List Nat) : Bool :=
  1 < parts.length && parts.any (fun l => (s.shutFor (s.arrivalOf t l) l none).isSome)

/-- The thread parked on the reply to a new request (R23, R187). -/
def State.sendReq (s : State) (t : Nat) (i : Instr) (r : Req) (timeout : Option Nat) (limited : Bool) :
    Nat × State :=
  let (k, s) := s.tick
  (k, (s.setReq k r).parkOn t i (.reply k) timeout limited)

/-- A request's parts sent as messages to their homes (R180). -/
def State.sendParts (s : State) (t : Nat) (i : Instr) (r : Req) (timeout : Option Nat) : State :=
  let (k, s) := s.sendReq t i r timeout false
  (upTo r.parts.length).foldl (fun s p =>
    s.push (if isSlotWin (r.parts.headD 0) then .slotWindowAccess else .homeRequest) [k, p]) s

/-- When a thread's instruction began, for its timeout: at its first park, or now (R31). -/
def State.startOf (s : State) (t : Nat) (i : Instr) : Nat :=
  match s.parkOf t i with
  | some p => p.since
  | none => s.now

/-- An ordinary access of a thread (R23, R180): held up at its home, performed within the step, sent as messages, or
left waiting at its home for a full/empty bit (R187). -/
def access (s : State) (t : Nat) (i : Instr) (va : Word) (op : MemOp) (parts : List Nat)
    (timeout : Option Nat := none) : Res :=
  let r : Req := { thread := t, uid := (s.th t).uid, va := va, root := (s.th t).root, op := op, parts := parts,
                   levels := s.levelsOf t va parts.length, deadline := timeout.map (s.startOf t i + ·) }
  if s.partlyHeld t parts then .sent (s.sendParts t i r timeout)
  else match s.heldUp t parts with
  | some a => .sent (s.parkOn t i a timeout)
  | none =>
    let l := parts.headD 0
    if !s.outOfReach l && !s.feReady op l then
      let (k, s) := s.sendReq t i r timeout true
      .sent (s.updHome (homeOf l) (fun x => { x with waiters := x.waiters ++ [k] }))
    else if s.split then .sent (s.sendParts t i r timeout)
    else
      let (s', as) := s.performParts op 0 parts
      match finishOp s' t va op as with
      | .trap c info addr data => .trap c info addr data
      | r => r

/-! ### Posting (R182) -/

/-- The unit of a journal and the lowest free index. -/
def State.freeEntry (s : State) (u : Nat) : Option Nat := (upTo 64).find? (fun k => !AMap.has (s.core u).journal k)

/-- One entry put into a thread's journal, with its request on the way (R182, R205). -/
def State.postOne (s : State) (t : Nat) (va : Word) (op : MemOp) (data : List Byte) (mask : BitVec 32)
    (rupd : Option Nat) (parts : List Nat) : State :=
  let u := unitOfThread t
  let th := s.th t
  let e := (s.freeEntry u).getD 0
  let (k, s) := s.tick
  let l := parts.headD 0
  let x : JEntry := {
    va := va, loc := l, data := data, mask := mask, pc := th.pc, uid := th.uid, thread := t, rcb := th.rcb, rupd := rupd }
  let s := s.updCore u (fun c => { c with journal := AMap.set c.journal e x })
  let s := s.setReq k { thread := t, uid := th.uid, va := va, root := th.root, op := op, parts := parts,
                        levels := s.levelsOf t va parts.length, posted := some (u, e) }
  let s := if (s.destOf l).isSome then s.push .egressAcceptance [u, e] else s
  if isHost l then (upTo parts.length).foldl (fun s p => s.push .hostAcceptance [u, e, p]) s
  else (upTo parts.length).foldl (fun s p => s.push .homeRequest [k, p]) s

/-- Entries posted all in one step, once enough are free (R182). -/
def postAll (s : State) (t : Nat) (es : List (Word × MemOp × List Byte × BitVec 32 × Option Nat × List Nat)) : Res :=
  if s.freeEntries (unitOfThread t) < es.length then .park (.journalRoom es.length)
  else .done (es.foldl (fun s (va, op, data, mask, fn, parts) => s.postOne t va op data mask fn parts) s)

/-- A store of n bytes as an entry's 32 bytes, which begin at the word, with their mask (log 14). -/
def blockOf (l n : Nat) (v : Nat) : List Byte × BitVec 32 :=
  let o := l % 8
  (bytesOfNat 32 (v % 2 ^ (8 * n) * 2 ^ (8 * o)), BitVec.ofNat 32 ((2 ^ n - 1) * 2 ^ o))

/-! ### RLX loads (R181) -/

/-- An RLX load: its registers become pending and the thread goes on (R181). -/
def rlxLoad (s : State) (t : Nat) (va : Word) (op : MemOp) (dests : List Nat) (parts : List Nat) : Res :=
  let th := s.th t
  if 4 ≤ th.outstanding.length then .park .rlxRoom
  else
    let (k, s) := s.tick
    let s := s.setReq k { thread := t, uid := th.uid, va := va, root := th.root, op := op, parts := parts,
                          levels := s.levelsOf t va parts.length, rlx := true }
    let s := (upTo parts.length).foldl (fun s p => s.push .homeRequest [k, p]) s
    let ds := if dests.isEmpty then [0] else dests
    .done (s.updTh t (fun th => { th with pending := th.pending ++ ds.map (fun d => (d, k)) }))

/-! ### Releases (R182, R186) -/

/-- A release that drains the thread's posted entries at system scope before it goes on (R182). A refused entry is met
as POSTREF at the next step boundary, the release abandoned with its PC (R182). -/
def drainThen (s : State) (t : Nat) (k : State → Res) : Res := if s.drained t then k s else .park (.drain 2 false)

/-! ### Leaving for another unit (R46, R196-R198, R201, R276) -/

/-- A destination that R196 refuses: host memory, another device, a Cape core outside the budget, an HBM4E skerry of a
die not in DIES. A twin's migration is refused too (R327). DESIGN CHOICE (log 49): so is every one where no RCB chain
can be read. -/
def State.destRefused (s : State) (t l : Nat) : Bool :=
  match s.homeUnit l with
  | none => true
  | some u => (s.th t).twin.isSome ||
    match effBudget s (s.th t).root treeDepth (s.th t).rcb with
    | none => true
    | some b => if isSkerry u then !isHolm u && !b.hasDie (dieOf u) else !b.hasCluster (dieOf u) (clusterOf u)

/-- The drain of a migration, the wait for forwarding entries where too few are free, and the sending (R182, R198,
R201). -/
def leaveFor (s : State) (t dest : Nat) (live : BitVec 15) : Res :=
  match s.heldBack t with
  | some a => .park a
  | none => .sent (s.sendContext t dest false live)

/-- Whether an instruction carries a set `.g` bit (R197). -/
def isG : Instr → Bool
  | .ld _ _ _ _ g _ | .st _ _ _ g _ | .vmemLd _ _ g _ _ | .vmemSt _ _ g _ _ => g = 1
  | _ => false

/-- The move of an access with g = 1 (R195, R197): none where the access is performed from here. -/
def gMove (s : State) (t : Nat) (g : BitVec 1) (l : Nat) : Option Res :=
  if g = 0 || s.homeUnit l = some (unitOfThread t) then none
  else if s.destRefused t l then some (.trap cMIGREF 0 0 0)
  else some (leaveFor s t ((s.homeUnit l).getD 0) (s.th t).live)

/-! ### Addresses of a thread's accesses (R20, R63, R174, R296) -/

/-- The location of an n-byte access, or its trap: ALIGN, then R63 orders 2 to 5. `win` admits the slot window. -/
def addrOf (s : State) (t : Nat) (va : Word) (n : Nat) (need : Right) (win : Bool) : Except Res Nat :=
  if va.toNat % n ≠ 0 then .error (.trap cALIGN (accessInfo need) va 0)
  else match (if win && n = 8 then slotWindow t va else none) with
    | some o => .ok (locWindow t o)
    | none => match threadResolve s t va need with
      | .ok l => .ok l
      | .error c => .error (.trap c (accessInfo need) va 0)

/-- The same for an access that host memory refuses with PROT (R179, R188, R189, R192). -/
def addrAtDevice (s : State) (t : Nat) (va : Word) (n : Nat) (need : Right) (win : Bool) : Except Res Nat :=
  match addrOf s t va n need win with
  | .error r => .error r
  | .ok l => if isHost l then .error (.trap cPROT (accessInfo need) va 0) else .ok l

end Sys2Proof.Machine
end

