-- ==== Sys2Proof/Machine/Alu.lean ====
section
/-!
DEFINITION. The `alu` and `shi` majors, the immediates, `lui` and `auipc`, and the shared divider (R50-R55, R85).
-/

namespace Sys2Proof.Machine

/-! ### Shared operations -/

/-- Write a value computed from the state into a destination (R50). -/
def writes (i : Instr) (d : BitVec 7) (f : State → Nat → Word) (s : State) : Host.Outcome State Fault Refusal :=
  runWord i s (fun s t => .done (s.writeDest t d (f s t)))

/-- A function of two sources (R50). -/
def writes2 (i : Instr) (d : BitVec 7) (f : Word → Word → Word) (s : State) : Host.Outcome State Fault Refusal :=
  writes i d (fun s t => f (srcVal s t i 0) (srcVal s t i 1)) s

/-- A function of one source. -/
def writes1 (i : Instr) (d : BitVec 7) (f : Word → Word) (s : State) : Host.Outcome State Fault Refusal :=
  writes i d (fun s t => f (srcVal s t i 0)) s

/-- Zero bits above the highest one among the low n bits; n if there is none (R50). -/
def leadingZeros (x : Word) : Nat → Nat
  | 0 => 0
  | n + 1 => if x.getLsbD n then 0 else leadingZeros x n + 1

/-- Zero bits from bit k up to the lowest one, among n bits (R50). -/
def trailingZeros (x : Word) (k : Nat) : Nat → Nat
  | 0 => 0
  | n + 1 => if x.getLsbD k then 0 else trailingZeros x (k + 1) n + 1

/-- One bits among the low n (R50). -/
def onesIn (x : Word) : Nat → Nat
  | 0 => 0
  | n + 1 => (if x.getLsbD n then 1 else 0) + onesIn x n

/-- The signed quotient of R51. -/
def divSigned (x y : Word) : Word :=
  if y = 0 then BitVec.allOnes 64
  else if x.toInt = -2 ^ 63 && y.toInt = -1 then x
  else BitVec.ofInt 64 (x.toInt.tdiv y.toInt)

/-- The signed remainder of R51. -/
def remSigned (x y : Word) : Word :=
  if y = 0 then x
  else if x.toInt = -2 ^ 63 && y.toInt = -1 then 0
  else BitVec.ofInt 64 (x.toInt - y.toInt * x.toInt.tdiv y.toInt)

/-- The unsigned quotient and remainder of R51. -/
def divUnsigned (x y : Word) : Word := if y = 0 then BitVec.allOnes 64 else BitVec.ofNat 64 (x.toNat / y.toNat)
def remUnsigned (x y : Word) : Word := if y = 0 then x else BitVec.ofNat 64 (x.toNat % y.toNat)

/-- A request to the unit's shared divider: the thread parks until DIVIDER_RESULT serves it, in order of issue
(R52, R85). -/
def divide (i : Instr) (d : BitVec 7) (r : Word) (f : Flags) (s : State) (t : Nat) : Res :=
  let u := unitOfThread t
  .sent (((s.parkOn t i .divider).updCore u (fun c =>
    { c with div := c.div ++ [{ thread := t, d := d, result := r, flags := f }] })).push .dividerResult [u])

/-! ### `alu` (R50-R52) -/

/-- add: x + y (R50). -/
def execAluAdd (d a b : BitVec 7) (s : State) : Host.Outcome State Fault Refusal :=
  writes2 (.aluAdd d a b) d (fun x y => x + y) s

/-- sub: x - y (R50). -/
def execAluSub (d a b : BitVec 7) (s : State) : Host.Outcome State Fault Refusal :=
  writes2 (.aluSub d a b) d (fun x y => x - y) s

/-- mul: x * y (R50). -/
def execAluMul (d a b : BitVec 7) (s : State) : Host.Outcome State Fault Refusal :=
  writes2 (.aluMul d a b) d (fun x y => x * y) s

/-- mulh: BitVec.ofInt 64 (x.toInt * y.toInt / 2 ^ 64) (R50). -/
def execAluMulh (d a b : BitVec 7) (s : State) : Host.Outcome State Fault Refusal :=
  writes2 (.aluMulh d a b) d (fun x y => BitVec.ofInt 64 (x.toInt * y.toInt / 2 ^ 64)) s

/-- mulhu: BitVec.ofNat 64 (x.toNat * y.toNat / 2 ^ 64) (R50). -/
def execAluMulhu (d a b : BitVec 7) (s : State) : Host.Outcome State Fault Refusal :=
  writes2 (.aluMulhu d a b) d (fun x y => BitVec.ofNat 64 (x.toNat * y.toNat / 2 ^ 64)) s

/-- and: x &&& y (R50). -/
def execAluAnd (d a b : BitVec 7) (s : State) : Host.Outcome State Fault Refusal :=
  writes2 (.aluAnd d a b) d (fun x y => x &&& y) s

/-- or: x ||| y (R50). -/
def execAluOr (d a b : BitVec 7) (s : State) : Host.Outcome State Fault Refusal :=
  writes2 (.aluOr d a b) d (fun x y => x ||| y) s

/-- xor: x ^^^ y (R50). -/
def execAluXor (d a b : BitVec 7) (s : State) : Host.Outcome State Fault Refusal :=
  writes2 (.aluXor d a b) d (fun x y => x ^^^ y) s

/-- andn: x &&& ~~~y (R50). -/
def execAluAndn (d a b : BitVec 7) (s : State) : Host.Outcome State Fault Refusal :=
  writes2 (.aluAndn d a b) d (fun x y => x &&& ~~~y) s

/-- sll: x <<< bits y 5 0 (R50). -/
def execAluSll (d a b : BitVec 7) (s : State) : Host.Outcome State Fault Refusal :=
  writes2 (.aluSll d a b) d (fun x y => x <<< bits y 5 0) s

/-- srl: x >>> bits y 5 0 (R50). -/
def execAluSrl (d a b : BitVec 7) (s : State) : Host.Outcome State Fault Refusal :=
  writes2 (.aluSrl d a b) d (fun x y => x >>> bits y 5 0) s

/-- sra: x.sshiftRight (bits y 5 0) (R50). -/
def execAluSra (d a b : BitVec 7) (s : State) : Host.Outcome State Fault Refusal :=
  writes2 (.aluSra d a b) d (fun x y => x.sshiftRight (bits y 5 0)) s

/-- rol: x.rotateLeft (bits y 5 0) (R50). -/
def execAluRol (d a b : BitVec 7) (s : State) : Host.Outcome State Fault Refusal :=
  writes2 (.aluRol d a b) d (fun x y => x.rotateLeft (bits y 5 0)) s

/-- slt: if x.slt y then 1 else 0 (R50). -/
def execAluSlt (d a b : BitVec 7) (s : State) : Host.Outcome State Fault Refusal :=
  writes2 (.aluSlt d a b) d (fun x y => if x.slt y then 1 else 0) s

/-- sltu: if x.ult y then 1 else 0 (R50). -/
def execAluSltu (d a b : BitVec 7) (s : State) : Host.Outcome State Fault Refusal :=
  writes2 (.aluSltu d a b) d (fun x y => if x.ult y then 1 else 0) s

/-- min: if y.slt x then y else x (R50). -/
def execAluMin (d a b : BitVec 7) (s : State) : Host.Outcome State Fault Refusal :=
  writes2 (.aluMin d a b) d (fun x y => if y.slt x then y else x) s

/-- max: if x.slt y then y else x (R50). -/
def execAluMax (d a b : BitVec 7) (s : State) : Host.Outcome State Fault Refusal :=
  writes2 (.aluMax d a b) d (fun x y => if x.slt y then y else x) s

/-- minu: if y.ult x then y else x (R50). -/
def execAluMinu (d a b : BitVec 7) (s : State) : Host.Outcome State Fault Refusal :=
  writes2 (.aluMinu d a b) d (fun x y => if y.ult x then y else x) s

/-- maxu: if x.ult y then y else x (R50). -/
def execAluMaxu (d a b : BitVec 7) (s : State) : Host.Outcome State Fault Refusal :=
  writes2 (.aluMaxu d a b) d (fun x y => if x.ult y then y else x) s

/-- div on the shared divider (R51, R52). -/
def execAluDiv (d a b : BitVec 7) (s : State) : Host.Outcome State Fault Refusal :=
  runWord (.aluDiv d a b) s (fun s t =>
    divide (.aluDiv d a b) d (divSigned (srcVal s t (.aluDiv d a b) 0) (srcVal s t (.aluDiv d a b) 1)) 0 s t)

/-- divu on the shared divider (R51, R52). -/
def execAluDivu (d a b : BitVec 7) (s : State) : Host.Outcome State Fault Refusal :=
  runWord (.aluDivu d a b) s (fun s t =>
    divide (.aluDivu d a b) d (divUnsigned (srcVal s t (.aluDivu d a b) 0) (srcVal s t (.aluDivu d a b) 1)) 0 s t)

/-- rem on the shared divider (R51, R52). -/
def execAluRem (d a b : BitVec 7) (s : State) : Host.Outcome State Fault Refusal :=
  runWord (.aluRem d a b) s (fun s t =>
    divide (.aluRem d a b) d (remSigned (srcVal s t (.aluRem d a b) 0) (srcVal s t (.aluRem d a b) 1)) 0 s t)

/-- remu on the shared divider (R51, R52). -/
def execAluRemu (d a b : BitVec 7) (s : State) : Host.Outcome State Fault Refusal :=
  runWord (.aluRemu d a b) s (fun s t =>
    divide (.aluRemu d a b) d (remUnsigned (srcVal s t (.aluRemu d a b) 0) (srcVal s t (.aluRemu d a b) 1)) 0 s t)

/-- clz (R50). -/
def execAluClz (d a : BitVec 7) (s : State) : Host.Outcome State Fault Refusal :=
  writes1 (.aluClz d a) d (fun x => BitVec.ofNat 64 (leadingZeros x 64)) s

/-- ctz (R50). -/
def execAluCtz (d a : BitVec 7) (s : State) : Host.Outcome State Fault Refusal :=
  writes1 (.aluCtz d a) d (fun x => BitVec.ofNat 64 (trailingZeros x 0 64)) s

/-- popc (R50). -/
def execAluPopc (d a : BitVec 7) (s : State) : Host.Outcome State Fault Refusal :=
  writes1 (.aluPopc d a) d (fun x => BitVec.ofNat 64 (onesIn x 64)) s

/-- The unit's divider delivers its oldest result; the parked instruction completes (R52, R85). Argument: the unit. -/
def execDividerResult (s : State) : Host.Outcome State Fault Refusal :=
  let u := s.arg 0
  .next (match (s.core u).div with
    | [] => s
    | r :: rest =>
      let s := s.updCore u (fun c => { c with div := rest })
      match (s.th r.thread).park with
      | some p => if p.await = .divider then ((s.writeDest r.thread r.d r.result).flag r.thread r.flags).finish r.thread p.instr
                  else s
      | none => s)

/-! ### Immediates and shifts (R53-R55) -/

/-- addi: x + sext i (R53). -/
def execAddi (d a : BitVec 7) (i : BitVec 12) (s : State) : Host.Outcome State Fault Refusal :=
  writes1 (.addi d a i) d (fun x => x + sext i) s

/-- andi: x &&& sext i (R53). -/
def execAndi (d a : BitVec 7) (i : BitVec 12) (s : State) : Host.Outcome State Fault Refusal :=
  writes1 (.andi d a i) d (fun x => x &&& sext i) s

/-- ori: x ||| sext i (R53). -/
def execOri (d a : BitVec 7) (i : BitVec 12) (s : State) : Host.Outcome State Fault Refusal :=
  writes1 (.ori d a i) d (fun x => x ||| sext i) s

/-- xori: x ^^^ sext i (R53). -/
def execXori (d a : BitVec 7) (i : BitVec 12) (s : State) : Host.Outcome State Fault Refusal :=
  writes1 (.xori d a i) d (fun x => x ^^^ sext i) s

/-- slli: x <<< n.toNat (R54). -/
def execShiSlli (d a : BitVec 7) (n : BitVec 6) (s : State) : Host.Outcome State Fault Refusal :=
  writes1 (.shiSlli d a n) d (fun x => x <<< n.toNat) s

/-- srli: x >>> n.toNat (R54). -/
def execShiSrli (d a : BitVec 7) (n : BitVec 6) (s : State) : Host.Outcome State Fault Refusal :=
  writes1 (.shiSrli d a n) d (fun x => x >>> n.toNat) s

/-- srai: x.sshiftRight n.toNat (R54). -/
def execShiSrai (d a : BitVec 7) (n : BitVec 6) (s : State) : Host.Outcome State Fault Refusal :=
  writes1 (.shiSrai d a n) d (fun x => x.sshiftRight n.toNat) s

/-- roli: x.rotateLeft n.toNat (R54). -/
def execShiRoli (d a : BitVec 7) (n : BitVec 6) (s : State) : Host.Outcome State Fault Refusal :=
  writes1 (.shiRoli d a n) d (fun x => x.rotateLeft n.toNat) s

/-- sext(imm19 << 12, 31) (R31, R55). -/
def upper (i : BitVec 19) : Word := (i ++ (0 : BitVec 12)).signExtend 64

/-- lui: the upper immediate (R55). -/
def execLui (d : BitVec 7) (i : BitVec 19) (s : State) : Host.Outcome State Fault Refusal :=
  writes (.lui d i) d (fun _ _ => upper i) s

/-- auipc: PC plus the upper immediate (R55). -/
def execAuipc (d : BitVec 7) (i : BitVec 19) (s : State) : Host.Outcome State Fault Refusal :=
  writes (.auipc d i) d (fun s t => (s.th t).pc + upper i) s

end Sys2Proof.Machine
end

