-- ==== Sys2Proof/Machine/Atomics.lean ====
section
/-!
DEFINITION. Full/empty words, atomics and remote updates (R185-R193).
-/

namespace Sys2Proof.Machine

/-! ### `fel` and `fes` (R185-R188) -/

/-- A `fel` in a mode, with its timeout if it waits: acquire a word and its bit at its home (R186, R188). -/
def felOp (i : Instr) (mode : Nat) (d : BitVec 7) (o : BitVec 4) (te : BitVec 5) (s : State) :
    Host.Outcome State Fault Refusal :=
  runWord i s (fun s t =>
    let va := srcVal s t i 0 + BitVec.ofNat 64 (8 * o.toNat)
    match addrAtDevice s t va 8 .r false with
    | .error r => r
    | .ok l => access s t i va (.fel mode d) [l] (timeoutOf te))

/-- A `fes` in a mode: drain, then write a word and its bit at its home (R186, R188). -/
def fesOp (i : Instr) (mode : Nat) (o : BitVec 4) (te : BitVec 5) (s : State) : Host.Outcome State Fault Refusal :=
  runWord i s (fun s t =>
    let va := srcVal s t i 1 + BitVec.ofNat 64 (8 * o.toNat)
    match addrAtDevice s t va 8 .w false with
    | .error r => r
    | .ok l => drainThen s t (fun s => access s t i va (.fes mode (srcVal s t i 0)) [l] (timeoutOf te)))

/-- fel.wfe: wait until full, read (R186). -/
def execFelWfe (d a : BitVec 7) (te : BitVec 5) (o : BitVec 4) (s : State) : Host.Outcome State Fault Refusal :=
  felOp (.felWfe d a te o) 0 d o te s

/-- fel.wfs: wait until full, read and set empty (R186). -/
def execFelWfs (d a : BitVec 7) (te : BitVec 5) (o : BitVec 4) (s : State) : Host.Outcome State Fault Refusal :=
  felOp (.felWfs d a te o) 1 d o te s

/-- fel.any: read, and WST EMPTY where the word was empty (R186). -/
def execFelAny (d a : BitVec 7) (o : BitVec 4) (s : State) : Host.Outcome State Fault Refusal :=
  felOp (.felAny d a o) 2 d o 31 s

/-- fes.wes: wait until empty, write and set full (R186). -/
def execFesWes (b a : BitVec 7) (te : BitVec 5) (o : BitVec 4) (s : State) : Host.Outcome State Fault Refusal :=
  fesOp (.fesWes b a te o) 0 o te s

/-- fes.setf: write and set full (R186). -/
def execFesSetf (b a : BitVec 7) (o : BitVec 4) (s : State) : Host.Outcome State Fault Refusal :=
  fesOp (.fesSetf b a o) 1 o 31 s

/-- fes.sete: write and set empty (R186). -/
def execFesSete (b a : BitVec 7) (o : BitVec 4) (s : State) : Host.Outcome State Fault Refusal :=
  fesOp (.fesSete b a o) 2 o 31 s

/-- wait.fe d, a: until the bit of the word at s[a] equals bit 0 of s[d] (R189). -/
def execWaitFe (d a : BitVec 7) (te : BitVec 5) (s : State) : Host.Outcome State Fault Refusal :=
  let i : Instr := .waitFe d a te
  runWord i s (fun s t =>
    let va := srcVal s t i 1
    match addrAtDevice s t va 8 .r false with
    | .error r => r
    | .ok l => access s t i va (.feBit ((srcVal s t i 0).getLsbD 0)) [l] (timeoutOf te))

/-! ### `amo` (R190-R192) -/

/-- Bytes an atomic acts on (R190). -/
def amoSize (fn : Nat) : Nat := if fn = 12 then 4 else 8

/-- `amo` function fn: one read-modify-write at home(s[a]); s[d] gets the old value (R190, R192). -/
def amoOp (i : Instr) (fn : Nat) (d : BitVec 7) (va v cmp : State → Nat → Word) (s : State) :
    Host.Outcome State Fault Refusal :=
  runWord i s (fun s t =>
    match addrAtDevice s t (va s t) (amoSize fn) .rw true with
    | .error r => r
    | .ok l => access s t i (va s t) (.amo fn (v s t) (cmp s t) d) [l])

/-- amo fn 0 (R190). -/
def execAmoAdd (d a b : BitVec 7) (s : State) : Host.Outcome State Fault Refusal :=
  let i : Instr := .amoAdd d a b
  amoOp i 0 d (fun s t => srcVal s t i 0) (fun s t => srcVal s t i 1) (fun _ _ => 0) s

/-- amo fn 1 (R190). -/
def execAmoAnd (d a b : BitVec 7) (s : State) : Host.Outcome State Fault Refusal :=
  let i : Instr := .amoAnd d a b
  amoOp i 1 d (fun s t => srcVal s t i 0) (fun s t => srcVal s t i 1) (fun _ _ => 0) s

/-- amo fn 2 (R190). -/
def execAmoOr (d a b : BitVec 7) (s : State) : Host.Outcome State Fault Refusal :=
  let i : Instr := .amoOr d a b
  amoOp i 2 d (fun s t => srcVal s t i 0) (fun s t => srcVal s t i 1) (fun _ _ => 0) s

/-- amo fn 3 (R190). -/
def execAmoXor (d a b : BitVec 7) (s : State) : Host.Outcome State Fault Refusal :=
  let i : Instr := .amoXor d a b
  amoOp i 3 d (fun s t => srcVal s t i 0) (fun s t => srcVal s t i 1) (fun _ _ => 0) s

/-- amo fn 4 (R190). -/
def execAmoMin (d a b : BitVec 7) (s : State) : Host.Outcome State Fault Refusal :=
  let i : Instr := .amoMin d a b
  amoOp i 4 d (fun s t => srcVal s t i 0) (fun s t => srcVal s t i 1) (fun _ _ => 0) s

/-- amo fn 5 (R190). -/
def execAmoMax (d a b : BitVec 7) (s : State) : Host.Outcome State Fault Refusal :=
  let i : Instr := .amoMax d a b
  amoOp i 5 d (fun s t => srcVal s t i 0) (fun s t => srcVal s t i 1) (fun _ _ => 0) s

/-- amo fn 6 (R190). -/
def execAmoMinu (d a b : BitVec 7) (s : State) : Host.Outcome State Fault Refusal :=
  let i : Instr := .amoMinu d a b
  amoOp i 6 d (fun s t => srcVal s t i 0) (fun s t => srcVal s t i 1) (fun _ _ => 0) s

/-- amo fn 7 (R190). -/
def execAmoMaxu (d a b : BitVec 7) (s : State) : Host.Outcome State Fault Refusal :=
  let i : Instr := .amoMaxu d a b
  amoOp i 7 d (fun s t => srcVal s t i 0) (fun s t => srcVal s t i 1) (fun _ _ => 0) s

/-- amo fn 8 (R190). -/
def execAmoSwap (d a b : BitVec 7) (s : State) : Host.Outcome State Fault Refusal :=
  let i : Instr := .amoSwap d a b
  amoOp i 8 d (fun s t => srcVal s t i 0) (fun s t => srcVal s t i 1) (fun _ _ => 0) s

/-- amo fn 9 (R190): s[d] is read as the comparand before the request leaves. -/
def execAmoCas (d a b : BitVec 7) (s : State) : Host.Outcome State Fault Refusal :=
  let i : Instr := .amoCas d a b
  amoOp i 9 d (fun s t => srcVal s t i 1) (fun s t => srcVal s t i 2) (fun s t => srcVal s t i 0) s

/-- amo fn 10 (R190). -/
def execAmoIncw (d a b : BitVec 7) (s : State) : Host.Outcome State Fault Refusal :=
  let i : Instr := .amoIncw d a b
  amoOp i 10 d (fun s t => srcVal s t i 0) (fun s t => srcVal s t i 1) (fun _ _ => 0) s

/-- amo fn 11 (R190): s[d] is read as the comparand before the request leaves. -/
def execAmoFaddb (d a b : BitVec 7) (s : State) : Host.Outcome State Fault Refusal :=
  let i : Instr := .amoFaddb d a b
  amoOp i 11 d (fun s t => srcVal s t i 1) (fun s t => srcVal s t i 2) (fun s t => srcVal s t i 0) s

/-- amo fn 12 (R190). -/
def execAmoFaddF32 (d a b : BitVec 7) (s : State) : Host.Outcome State Fault Refusal :=
  let i : Instr := .amoFaddF32 d a b
  amoOp i 12 d (fun s t => srcVal s t i 0) (fun s t => srcVal s t i 1) (fun _ _ => 0) s

/-! ### `rupd` (R193) -/

/-- `rupd` function fn: checked as `amo`, then posted to the home of s[a] (R193). An update through the slot window is
no posted access: the window takes only ld, st and amo (R296). -/
def rupdOp (i : Instr) (fn : Nat) (s : State) : Host.Outcome State Fault Refusal :=
  runWord i s (fun s t =>
    let va := srcVal s t i 0
    let v := srcVal s t i 1
    match addrAtDevice s t va (amoSize fn) .rw false with
    | .error r => r
    | .ok l =>
      let (data, mask) := blockOf l (amoSize fn) v.toNat
      postAll s t [(va, .amo fn v 0 0, data, mask, some fn, [l])])

/-- rupd fn 0 (R193). -/
def execRupdAdd (a b : BitVec 7) (s : State) : Host.Outcome State Fault Refusal := rupdOp (.rupdAdd a b) 0 s

/-- rupd fn 1 (R193). -/
def execRupdAnd (a b : BitVec 7) (s : State) : Host.Outcome State Fault Refusal := rupdOp (.rupdAnd a b) 1 s

/-- rupd fn 2 (R193). -/
def execRupdOr (a b : BitVec 7) (s : State) : Host.Outcome State Fault Refusal := rupdOp (.rupdOr a b) 2 s

/-- rupd fn 3 (R193). -/
def execRupdXor (a b : BitVec 7) (s : State) : Host.Outcome State Fault Refusal := rupdOp (.rupdXor a b) 3 s

/-- rupd fn 4 (R193). -/
def execRupdMin (a b : BitVec 7) (s : State) : Host.Outcome State Fault Refusal := rupdOp (.rupdMin a b) 4 s

/-- rupd fn 5 (R193). -/
def execRupdMax (a b : BitVec 7) (s : State) : Host.Outcome State Fault Refusal := rupdOp (.rupdMax a b) 5 s

/-- rupd fn 6 (R193). -/
def execRupdMinu (a b : BitVec 7) (s : State) : Host.Outcome State Fault Refusal := rupdOp (.rupdMinu a b) 6 s

/-- rupd fn 7 (R193). -/
def execRupdMaxu (a b : BitVec 7) (s : State) : Host.Outcome State Fault Refusal := rupdOp (.rupdMaxu a b) 7 s

/-- rupd fn 8 (R193). -/
def execRupdSwap (a b : BitVec 7) (s : State) : Host.Outcome State Fault Refusal := rupdOp (.rupdSwap a b) 8 s

/-- rupd fn 10 (R193). -/
def execRupdIncw (a b : BitVec 7) (s : State) : Host.Outcome State Fault Refusal := rupdOp (.rupdIncw a b) 10 s

/-- rupd fn 12 (R193). -/
def execRupdFaddF32 (a b : BitVec 7) (s : State) : Host.Outcome State Fault Refusal := rupdOp (.rupdFaddF32 a b) 12 s

end Sys2Proof.Machine
end

