-- ==== Sys2Proof/Machine/Control.lean ====
section
/-!
DEFINITION. Compare-skips, branches and jumps (R39-R41, R56-R61), and the prefixes (R15, R42).
-/

namespace Sys2Proof.Machine

/-- The integer conditions of R56: eq ne lt ge ltu geu, and bit n of x set or clear. -/
def condHolds (c : Nat) (x y : Word) (n : Nat) : Bool :=
  match c with
  | 0 => x = y
  | 1 => x ≠ y
  | 2 => x.slt y
  | 3 => !x.slt y
  | 4 => x.ult y
  | 5 => !x.ult y
  | 6 => x.getLsbD n
  | _ => !x.getLsbD n

/-- The floating-point conditions feq fne flt fge fun on FP32 patterns, and their flags (R57). -/
def fcondHolds (c : Nat) (x y : Nat) : Bool × Flags :=
  let a := Fmt.fp32.value x
  let b := Fmt.fp32.value y
  let nan := a.isNan || b.isNan
  let quiet : Flags := if a.isSnan || b.isSnan then flagNV else 0
  let loud : Flags := if nan then flagNV else 0
  let o := Fmt.fp32.cmp x y
  match c with
  | 8 => (o = some .eq, quiet)
  | 9 => (o ≠ some .eq, quiet)
  | 10 => (o = some .lt, loud)
  | 11 => (o = some .eq || o = some .gt, loud)
  | _ => (nan, quiet)

/-- Where a compare-skip goes: past `skip` further words, or on (R41). -/
def skipTo (s : State) (t : Nat) (holds : Bool) (skip : BitVec 2) : Res :=
  let pc := (s.th t).pc
  .goto s (if holds then pc + 4 + 4 * skip.zeroExtend 64 else pc + 4)

/-- csk: compare two registers and skip (R56, R57). -/
def execCsk (c : BitVec 4) (k : BitVec 2) (a b : BitVec 7) (s : State) : Host.Outcome State Fault Refusal :=
  runWord (.csk c k a b) s (fun s t =>
    let x := srcVal s t (.csk c k a b) 0
    let y := srcVal s t (.csk c k a b) 1
    if c.toNat < 8 then skipTo s t (condHolds c.toNat x y (bits y 5 0)) k
    else
      let (h, f) := fcondHolds c.toNat (bits x 31 0) (bits y 31 0)
      skipTo (s.flag t f) t h k)

/-- cski: compare with an immediate and skip (R56). -/
def execCski (c : BitVec 4) (k : BitVec 2) (a : BitVec 7) (i : BitVec 13) (s : State) :
    Host.Outcome State Fault Refusal :=
  runWord (.cski c k a i) s (fun s t =>
    skipTo s t (condHolds c.toNat (srcVal s t (.cski c k a i) 0) (sext i) (i.toNat % 64)) k)

/-- The conditions of `br` on s[a] against zero (R40, R58). -/
def brHolds (c : Nat) (x : Word) : Bool :=
  match c with
  | 0 => x = 0
  | 1 => x ≠ 0
  | 2 => x.slt 0
  | 3 => !x.slt 0
  | 4 => (0 : Word).slt x
  | 5 => !(0 : Word).slt x
  | _ => true

/-- br (R58). -/
def execBr (c : BitVec 4) (a : BitVec 7) (o : BitVec 15) (s : State) : Host.Outcome State Fault Refusal :=
  runWord (.br c a o) s (fun s t =>
    .goto s ((s.th t).pc + (if brHolds c.toNat (srcVal s t (.br c a o) 0) then sext o * 4 else 4)))

/-- j (R59). -/
def execJ (o : BitVec 26) (s : State) : Host.Outcome State Fault Refusal :=
  runWord (.j o) s (fun s t => .goto s ((s.th t).pc + sext o * 4))

/-- jl: j with s1 := pc + 4 (R59). -/
def execJl (o : BitVec 26) (s : State) : Host.Outcome State Fault Refusal :=
  runWord (.jl o) s (fun s t =>
    .goto (s.updTh t (fun th => th.setReg 1 (th.pc + 4))) ((s.th t).pc + sext o * 4))

/-- jr: to s[a] + imm; a misaligned target traps ALIGN with INFO 4 and ADDR the target (R60, R297). -/
def execJr (d a : BitVec 7) (i : BitVec 12) (s : State) : Host.Outcome State Fault Refusal :=
  runWord (.jr d a i) s (fun s t =>
    let x := srcVal s t (.jr d a i) 0 + sext i
    if bits x 1 0 ≠ 0 then .trap cALIGN 4 x 0
    else .goto (s.writeDest t d ((s.th t).pc + 4)) x)

/-- The 23-bit payload of an FMT prefix (R42). -/
def fmtPayload (a d : BitVec 4) (sc r : BitVec 2) : BitVec 23 := a ++ d ++ sc ++ r ++ (0 : BitVec 11)

/-- pfx FMT: the payload is kept and pending (R15, R42). -/
def execPfxFmt (a d : BitVec 4) (sc r : BitVec 2) (s : State) : Host.Outcome State Fault Refusal :=
  runWord (.pfxFmt a d sc r) s (fun s t =>
    .done (s.updTh t (fun th => { th with st := { th.st with ppFmt := true, pfxF := fmtPayload a d sc r } })))

/-- pfx RLX: pending, with a payload of zeros (R15, R42). -/
def execPfxRlx (s : State) : Host.Outcome State Fault Refusal :=
  runWord .pfxRlx s (fun s t =>
    .done (s.updTh t (fun th => { th with st := { th.st with ppRlx := true, pfxR := 0 } })))

end Sys2Proof.Machine
end

