-- ==== Sys2Proof/Machine/Requests.lean ====
section
/-!
DEFINITION. Requests under way: their arrival at homes, replies, acknowledgements and refusals, the egress queues, and
what an interruption does to a parked instruction (R180-R184, R187, R201, R205, R296, R342, R349, R367).
-/

namespace Sys2Proof.Machine

/-! ### Requests and their parts -/

/-- A journal entry of a unit. -/
def State.jentry (s : State) (u e : Nat) : JEntry := AMap.get {} (s.core u).journal e
def State.updEntry (s : State) (u e : Nat) (f : JEntry → JEntry) : State :=
  s.updCore u (fun c => { c with journal := AMap.set c.journal e (f (AMap.get {} c.journal e)) })
/-- An entry freed (R182). -/
def State.freeJournal (s : State) (u e : Nat) : State :=
  s.updCore u (fun c => { c with journal := AMap.del c.journal e })
/-- The request of a posted entry. -/
def State.reqOfEntry (s : State) (u e : Nat) : Option Nat :=
  (s.reqs.find? (fun (_, r) => r.posted = some (u, e))).map (·.1)
/-- Why a posted entry is refused: 1 unreachable, 2 host error, 0 poison (R297). -/
def State.refusalReason (s : State) (l : Nat) : Nat :=
  if s.outOfReach l then 1 else if isHost l then 2 else 0

/-- A thread's place, wherever it now stands: its slot, by its number (R201). -/
def State.placeOfUid (s : State) (uid : Nat) : Option Nat :=
  if uid = 0 then none else (s.threads.find? (fun (_, th) => th.uid = uid && th.status ≠ .free)).map (·.1)

/-- A POSTREF or ENGFAULT held by a thread, which carries it if it migrates (R291). -/
def State.hold (s : State) (t : Nat) (h : Held) : State := s.updMoving t (fun th => { th with held := th.held ++ [h] })

/-! ### What keeps a request from being performed at its home -/

/-- The number of a part's arrival at its home, or a new one. -/
def State.comeAt (s : State) (r : Req) (p : Nat) : Nat := if AMap.has r.arrived p then AMap.get 0 r.arrived p else s.fresh

/-- Whether a part may be performed now: earlier requests of the thread to the word, the home closed, accesses that
arrived earlier, the egress queue (R180, R183, R205, R228). -/
def State.mayPerform (s : State) (k : Nat) (r : Req) (p : Nat) : Bool :=
  let l := r.parts.getD p 0
  !s.earlier r.uid k [wordOf l] && !s.windowPending l && (s.shutFor (s.comeAt r p) l none).isNone &&
  match s.destOf l with
  | none => true
  | some d => !s.egressBefore d k && (match r.posted with
      | some (u, e) => (s.jentry u e).accepted
      | none => true)

/-- The end of a request whose parts are all performed: a reply, an RLX reply, an acknowledgement or a refusal. -/
def State.answered (s : State) (k : Nat) (r : Req) : State :=
  if !r.complete then s
  else match r.posted with
    | some (u, e) =>
      if r.answers.any (·.poison) then (s.endReq k).push .postedRefusal [u, e, s.refusalReason (r.parts.headD 0)]
      else ((s.endReq k).updEntry u e (fun x => { x with performed := true })).push .postedAck [u, e]
    | none => s.push (if r.rlx then .rlxLoadReply else .memoryReply) [k]

/-- One part of a request performed at its home, or left to wait there, when its thread's wait limit begins (R180, R187,
R299). -/
def State.arrive (s : State) (k p : Nat) (again : Instr) : State :=
  if !AMap.has s.reqs k then s
  else
    let r := s.req k
    let l := r.parts.getD p 0
    if r.parts.length ≤ p || AMap.has r.got p then s
    else if !s.mayPerform k r p then
      let s := match s.shutFor (s.comeAt r p) l none with
        | some a => { (match a with | .home _ => s.startLimit r.thread k | _ => s).setReq k
            { r with arrived := AMap.set r.arrived p (s.comeAt r p) } with fresh := s.fresh + 1 }
        | none => s
      s.after 8 again [k, p]
    else if !s.outOfReach l && !s.feReady r.op l then
      (s.startLimit r.thread k).updHome (homeOf l) (fun x => { x with waiters := x.waiters.filter (· ≠ k) ++ [k] })
    else
      let (s, a) := s.performPart r.op p l
      let r := { r with got := AMap.set r.got p a, arrived := AMap.del r.arrived p }
      (s.setReq k r).answered k r

/-- A one-word request reaches its home (R180). Arguments: the request, the part. -/
def execHomeRequest (s : State) : Host.Outcome State Fault Refusal :=
  .next (s.arrive (s.arg 0) (s.arg 1) .homeRequest)

/-- A slot-window request is performed at the frozen thread's unit (R296). Arguments: the request, the part. -/
def execSlotWindowAccess (s : State) : Host.Outcome State Fault Refusal :=
  .next (s.arrive (s.arg 0) (s.arg 1) .slotWindowAccess)

/-! ### Replies -/

/-- The operands of a thread's parked instruction, as they go out with its request (R34, R240). -/
def State.sendArgs (s : State) (t : Nat) (i : Instr) (vals : List Word) : State :=
  s.updTh t (fun th => { th with park := th.park.map (fun p => if p.instr = i then { p with args := vals } else p) })

/-- The parked instruction completes, or traps, with the answers of its request (R23, R63); a queue operation that has read
its descriptor or QCB goes on with the words (R154, R155). -/
def State.takeReply (s : State) (k : Nat) : State :=
  let r := s.req k
  if !AMap.has s.reqs k || !r.complete then s
  else
    let t := r.thread
    let s := s.endReq k
    match (s.th t).park with
    | some p =>
      if p.await ≠ .reply k then s
      else match r.op, finishOp s t r.va r.op r.answers with
        | .words, .done s => (s.sendArgs t p.instr (p.args ++ r.answers.map (·.val))).wake t
        | _, res => applyRes s t p.instr res
    | none => s

/-- The reply to a thread's request arrives (R23). Argument: the request. -/
def execMemoryReply (s : State) : Host.Outcome State Fault Refusal := .next (s.takeReply (s.arg 0))

/-- The registers that an RLX load's answers go to, in order. -/
def rlxDests (op : MemOp) : List Nat :=
  match op with
  | .load _ _ d => [d.toNat]
  | .vload v n => (upTo (n + 1)).flatMap (fun j => aliasRegs (v + BitVec.ofNat 5 j))
  | _ => []

/-- A thread's pending registers of a request written, or poisoned; what would go to s0 is discarded (R178, R181). -/
def Thread.land (th : Thread) (k : Nat) (r : Req) : Thread :=
  let th := (rlxDests r.op).zip r.answers |>.foldl (fun (th : Thread) (n, a) =>
    if !th.pending.contains (n, k) then th
    else if a.poison && n = 0 then th
    else if a.poison then { th with poisoned := (th.poisoned.filter (fun p => p.1 ≠ n)) ++ [(n, r.va)] }
    else th.setReg n a.val) th
  { th with pending := th.pending.filter (fun p => p.2 ≠ k) }

/-- The registers written in the thread at a place, in the context message that carries it, and in its twin (R181, R201,
R327). -/
def State.landAt (s : State) (t k : Nat) (r : Req) : State :=
  let s := s.updMoving t (fun th => th.land k r)
  match (s.th t).twin with
  | some (o, _) => s.updTh o (fun th => th.land k r)
  | none => s

/-- The reply to an RLX load arrives at the unit it was sent from: it writes its registers, is forwarded, or is
discarded (R181, R201). Argument: the request. -/
def execRlxLoadReply (s : State) : Host.Outcome State Fault Refusal :=
  let k := s.arg 0
  let r := s.req k
  .next (if !AMap.has s.reqs k then s
    else if (s.th r.thread).uid = r.uid && (s.th r.thread).pending.any (fun p => p.2 = k) then
      (s.landAt r.thread k r).endLoad k
    else if (s.core (unitOfThread r.thread)).forward.any (fun f => f.1 = k) then s.push .replyForward [k]
    else s.endReq k)

/-- A forwarded reply reaches the thread's present place, in a slot or in a buffer, and its forwarding entries are freed
(R201). Argument: the request. -/
def execReplyForward (s : State) : Host.Outcome State Fault Refusal :=
  let k := s.arg 0
  let r := s.req k
  let s' := match s.placeOfUid r.uid with
    | some t => s.landAt t k r
    | none => { s with msgs := s.msgs.map (fun (x : Nat × Message) =>
        (x.1, if x.2.thread.uid = r.uid then { x.2 with thread := x.2.thread.land k r } else x.2)) }
  .next (s'.endLoad k)

/-! ### Posted entries (R182, R205, R342) -/

/-- The acknowledgement of a posted entry frees it (R182). Arguments: unit, entry. -/
def execPostedAck (s : State) : Host.Outcome State Fault Refusal := .next (s.freeJournal (s.arg 0) (s.arg 1))

/-- A refused entry stays, and its POSTREF is held by the posting thread (R182, R297). DESIGN CHOICE (log 54): the entry of
a thread that has gone without a drain stays occupied, and no POSTREF is raised. -/
def State.refuse (s : State) (u e reason : Nat) : State :=
  let x := s.jentry u e
  let s := s.updEntry u e (fun x => { x with refused := some reason })
  match s.placeOfUid x.uid with
  | some t => s.hold t { cause := cPOSTREF, info := e + reason * 256, addr := x.va, data := x.pc, entry := some (u, e) }
  | none => s

/-- A posted entry is refused (R182). Arguments: unit, entry, reason. -/
def execPostedRefusal (s : State) : Host.Outcome State Fault Refusal :=
  .next (if AMap.has (s.core (s.arg 0)).journal (s.arg 1) then s.refuse (s.arg 0) (s.arg 1) (s.arg 2) else s)

/-- The Sound die accepts a store into an ordered egress queue (R205). Arguments: unit, entry. -/
def execEgressAcceptance (s : State) : Host.Outcome State Fault Refusal :=
  .next (match s.reqOfEntry (s.arg 0) (s.arg 1) with
    | none => s
    | some k =>
      if s.earlier (s.req k).uid k ((s.req k).parts.map wordOf) then s.after 8 .egressAcceptance s.ev
      else (s.updEntry (s.arg 0) (s.arg 1) (fun x => { x with accepted := true })).setPkg
        { s.pkg with egress := s.pkg.egress.filter (· ≠ k) ++ [k] })

/-- The host accepts a word of a device write, or aborts it; the last acknowledges the posted store or refuses it (R182,
R211, R342). Arguments: unit, entry, the word. -/
def execHostAcceptance (s : State) : Host.Outcome State Fault Refusal :=
  let u := s.arg 0
  let e := s.arg 1
  let p := s.arg 2
  .next (match s.reqOfEntry u e with
    | none => s
    | some k =>
      let r := s.req k
      let l := r.parts.getD p 0
      if r.parts.length ≤ p || AMap.has r.got p then s
      else if !s.mayPerform k r p then s.after 8 .hostAcceptance s.ev
      else
        let (s, a) := s.performPart r.op p l
        let r := { r with got := AMap.set r.got p a }
        if !r.complete then s.setReq k r
        else if r.answers.any (·.poison) then (s.endReq k).refuse u e 2 else (s.endReq k).freeJournal u e)

/-- Whether a posted entry still holds a fence of a scope: 0 dev, 1 dom, 2 sys (R205). -/
def State.holdsFence (s : State) (scope : Nat) (x : JEntry) : Bool :=
  match s.destOf x.loc with
  | none => true
  | some d => !(x.accepted && (scope = 0 || (scope = 1 && d = 128)))

/-- Whether a drain is over: the entries at a scope, and for a fence the RLX loads too (R70, R182, R205). -/
def State.drainOver (s : State) (t scope : Nat) (loads : Bool) : Bool :=
  !(s.posted t).any (fun (_, x) => s.holdsFence scope x) && (!loads || (s.th t).pending.isEmpty)

/-- The last posted entry that a release waits for is acknowledged, and the release proceeds (R182). Argument: the
thread. -/
def execDrainComplete (s : State) : Host.Outcome State Fault Refusal :=
  let t := s.arg 0
  .next (match (s.th t).park with
    | some p => match p.await with
      | .drain scope loads => if (s.th t).status = .park && s.drainOver t scope loads then s.wake t else s
      | _ => s
    | none => s)

/-! ### Waiting at a home (R187) -/

/-- The deadline of a waiting request passes: the home answers TIMEOUT (R187). Argument: the request. -/
def execFeDeadline (s : State) : Host.Outcome State Fault Refusal :=
  let k := s.arg 0
  let r := s.req k
  let h := homeOf (r.parts.headD 0)
  .next (if !s.waiting k then s
    else ((s.updHome h (fun x => { x with waiters := x.waiters.filter (· ≠ k) })).setReq k
      { r with got := [(0, { wst := some wstTIMEOUT })] }).push .memoryReply [k])

/-- A cancel reaches the home of a waiting request: unserved, it is forgotten and the instruction re-issues (R187).
Argument: the thread. -/
def execFeCancel (s : State) : Host.Outcome State Fault Refusal :=
  let t := s.arg 0
  .next (match (s.th t).park with
    | some p => match p.await with
      | .reply k => if s.waiting k then
          (s.cancelReq k).updTh t (fun th => { th with status := .run, park := none }) else s
      | _ => s
    | none => s)

end Sys2Proof.Machine
end

