-- ==== Sys2Proof/Machine/Queues.lean ====
section
/-!
DEFINITION. Task queues and join words at their homes: what each operation does in its one step, gates, near dispatch,
steals, alerts and notifications (R138-R151, R326, R349).
-/

namespace Sys2Proof.Machine

/-! ### Descriptors (R142) -/

/-- A 56-bit address field of a descriptor. -/
def desc56 (w : Word) : Word := (w.truncate 56 : BitVec 56).signExtend 64

/-- A descriptor as a task record with a sequence number. -/
def TaskRec.ofWords (seq since : Nat) (ws : List Word) : TaskRec :=
  let w := fun k => ws.getD k 0
  { seq := seq, abase := desc56 (w 0), alen := bits (w 3) 63 56 * 256 + bits (w 2) 63 56,
    flags := (w 0).extractLsb' 56 8, prio := (w 1).extractLsb' 56 8, join := desc56 (w 1), near := desc56 (w 2),
    far := desc56 (w 3), args := [w 4, w 5, w 6, w 7], desc := ws, since := since }

def TaskRec.nmx (r : TaskRec) : Bool := r.flags.getLsbD 0
def TaskRec.replay (r : TaskRec) : Bool := r.flags.getLsbD 1
def TaskRec.fregs (r : TaskRec) : Nat := (r.flags.extractLsb' 4 4).toNat
def TaskRec.nregs (r : TaskRec) : Nat := (r.prio.extractLsb' 4 4).toNat

/-- Whether two anchors share a byte (R142). -/
def overlaps (a b : TaskRec) : Bool :=
  a.alen ≠ 0 && b.alen ≠ 0 && a.abase.toNat < b.abase.toNat + b.alen && b.abase.toNat < a.abase.toNat + a.alen

/-! ### Queues (R144-R147) -/

def Queue.depth (q : Queue) : Nat := q.queued.length
def Queue.occupancy (q : Queue) : Nat := q.queued.length + q.running.length
def Queue.capacity (q : Queue) : Nat := 2 ^ (6 + q.rsize)

/-- Whether a task is gated (R146). -/
def Queue.gates (q : Queue) (r : TaskRec) : Bool :=
  !q.free && (q.queued ++ q.running).any (fun x => x.seq < r.seq && overlaps x r)

/-- A task that has become head waits from now on (R148). -/
def headSince (ns : Nat) : List TaskRec → List TaskRec
  | [] => []
  | r :: rs => { r with since := ns } :: rs

/-- The home of a queue as the events name it, and its device, die and index. -/
def queueDev (q : Nat) : Nat := homeOfQueue q / 2 ^ 16
def queueDie (q : Nat) : Nat := homeOfQueue q / 2 ^ 12 % 16
def queueHomeIx (q : Nat) : Nat := homeOfQueue q % 4096

/-- Alerts to the subscribed clusters with none outstanding, once depth exceeds TH (R150). -/
def State.alert (s : State) (q : Nat) : State :=
  let x := s.queue q
  if x.depth ≤ x.th || queueDev q ≠ s.pkg.device then s
  else
    let new := x.subs.filter (fun c => !x.alerts.contains c)
    new.foldl (fun s c => s.push .depthAlert [q, c]) (s.setQueue q { x with alerts := x.alerts ++ new })

/-- The alert that a steal's reply carries to its own cluster while depth exceeds TH; the one before it is cleared
(R150). -/
def State.replyAlert (s : State) (q c : Nat) : State :=
  let x := s.queue q
  let others := x.alerts.filter (· ≠ c)
  if x.th < x.depth && x.subs.contains c && queueDev q = s.pkg.device then
    (s.setQueue q { x with alerts := others ++ [c] }).push .depthAlert [q, c]
  else s.setQueue q { x with alerts := others }

/-- A change of a queue may let its home dispatch (R148). -/
def State.stir (s : State) (q : Nat) : State :=
  if queueDev q = s.pkg.device then s.push .nearDispatch [homeOfQueue q] else s

/-- push (R145): the sequence number given, none where refused. -/
def State.pushTask (s : State) (q : Nat) (ws : List Word) : Option (Nat × State) :=
  let x := s.queue q
  if !x.configured || x.quarantined || x.capacity ≤ x.occupancy then none
  else
    let r := TaskRec.ofWords x.next s.ns ws
    some (x.next, ((s.setQueue q { x with next := x.next + 1, queued := x.queued ++ [r] }).alert q).stir q)

/-- take (R145): the WST, and the task if taken. A quarantined queue serves none (R325). -/
def State.takeTask (s : State) (q : Nat) : BitVec 3 × Option TaskRec × State :=
  let x := s.queue q
  if x.quarantined then (wstREFUSED, none, s)
  else match x.queued with
    | [] => (wstEMPTY, none, s)
    | r :: rest =>
      if x.gates r then (wstGATED, none, s)
      else (wstOK, some r, (s.setQueue q { x with queued := headSince s.ns rest, running := x.running ++ [r] }).stir q)

/-- Whether every task of a queue's region counts as NMX (R139). -/
def State.regionNmx (s : State) (x : Queue) : Bool :=
  match effSched s x.root x.rcb with | some w => w.getLsbD 0 | none => false

/-- steal (R145): the WST, and the task if taken, marked where it is gated. -/
def State.stealTask (s : State) (q : Nat) (nmxOnly : Bool) : BitVec 3 × Option TaskRec × State :=
  let x := s.queue q
  if x.quarantined then (wstREFUSED, none, s)
  else match x.queued.getLast? with
    | none => (wstEMPTY, none, s)
    | some r =>
      if x.depth ≤ x.th then (wstSHALLOW, none, s)
      else if r.far = 0 || (nmxOnly && !r.nmx && !s.regionNmx x) then (wstREFUSED, none, s)
      else
        let g := x.gates r
        let r := { r with gated := g }
        (if g then wstGATED else wstOK, some r,
          (s.setQueue q { x with queued := x.queued.dropLast, running := x.running ++ [r] }).stir q)

/-- The record of a started task. -/
def State.runningTask (s : State) (q seq : Nat) : Option TaskRec := (s.queue q).running.find? (fun r => r.seq = seq)

/-- retire (R145, R147): the task leaves the queue and its gate tokens are sent. -/
def State.retireTask (s : State) (q seq : Nat) : State :=
  let x := s.queue q
  let x := { x with running := x.running.filter (fun r => r.seq ≠ seq) }
  let s := s.setQueue q x
  let freed := x.running.filter (fun r => r.gated && !x.gates r)
  (freed.foldl (fun s r => s.push .gateToken [q, r.seq]) s).stir q

/-- replay (R324): the task is queued again under its own number, in order. -/
def insertSeq (r : TaskRec) : List TaskRec → List TaskRec
  | [] => [r]
  | x :: xs => if r.seq < x.seq then r :: x :: xs else x :: insertSeq r xs

def State.replayTask (s : State) (q seq : Nat) : State :=
  match s.runningTask q seq with
  | none => s
  | some r =>
    let x := s.queue q
    let r := { r with gated := false, since := s.ns }
    (s.setQueue q { x with running := x.running.filter (fun y => y.seq ≠ seq), queued := insertSeq r x.queued }).stir q

/-- Whether a thread's task still awaits its gate token (R147, R158): its home's record says so. -/
def State.gateDue (s : State) (t : Nat) : Bool :=
  let th := s.th t
  th.seq ≠ 0 && match s.runningTask (queueOfHandle th.task) th.seq.toNat with
    | some r => r.gated
    | none => false

/-- Where a queue's operations arrive (R145). -/
def queuePort (q : Nat) : Nat := portOf (queueDev q) (queueDie q) (queueHomeIx q)

/-- What keeps a queue operation numbered `k` from being performed now: all-bank mode at its home and the operations and
accesses that arrived there earlier (R145, R282), or stores that left for its device earlier (R205). -/
def State.queueShut (s : State) (k q : Nat) : Option Await :=
  if queueDev q = s.pkg.device then s.shutFor k (queuePort q) none
  else if s.egressBefore (queueDev q) 0 then some (.egress (queueDev q)) else none

/-! ### Bodies (R149, R151) -/

/-- MODE of a region's bodies (R139, R149). -/
def regionMode (s : State) (root rcb : Word) : Bool :=
  match effSched s root rcb with | some w => w.getLsbD 2 | none => false

/-- STACK and its size as a body's fill reads them (R149). -/
def stackOf (s : State) (root rcb : Word) : Option (Word × Word) := do
  let base ← rcbEff s root 104 13 treeDepth rcb
  let sz ← rcbEff s root 112 14 treeDepth rcb
  pure (base, sz)

/-- s2 of a body: its slot's stack top (R149). -/
def stackTop (s : State) (root rcb : Word) (t : Nat) : Word :=
  match stackOf s root rcb with
  | some (base, sz) =>
    let tid := tidOfPlace s.pkg.device t
    if sz = 0 then 0
    else base + BitVec.ofNat 64 ((if tid.getLsbD 31 then 2 ^ 24 else 0) + bits tid 23 0 + 1) * sz
  | none => 0

/-- Whether the RCB fields that a body's fill needs can be read; where one cannot, the fill does not take place (R368). -/
def bodyReads (s : State) (root rcb : Word) : Bool :=
  rcbUsable s root rcb && (effSched s root rcb).isSome && (stackOf s root rcb).isSome

/-- A body's thread in a slot at a base (R11, R119, R149). -/
def State.fillBody (s : State) (t base lim : Nat) (pc : Word) (q : Nat) (r : TaskRec) : State :=
  let x := s.queue q
  let th := freshThread pc x.root x.rcb (regionMode s x.root x.rcb) base lim s.fresh
  let th := th.setRegs ([(2, stackTop s x.root x.rcb t), (3, r.abase), (4, BitVec.ofNat 64 r.alen), (5, r.args.getD 0 0),
    (6, r.args.getD 1 0), (7, r.args.getD 2 0), (8, r.args.getD 3 0), (9, BitVec.ofNat 64 r.seq), (10, handleOfQueue q)])
  let th := { th with task := handleOfQueue q, seq := BitVec.ofNat 64 r.seq }
  { (s.fill t th) with fresh := s.fresh + 1 }

/-! ### Near dispatch (R148) -/

/-- The effective level of a head (R148). -/
def State.headLevel (s : State) (x : Queue) (r : TaskRec) : Nat :=
  let base := if r.prio.getLsbD 3 then (r.prio.extractLsb' 0 3).toNat else x.pri
  let level := if base > 0 && x.age > 0 then base + (s.ns - r.since) / 1000 / x.age else base
  let cap := match effSched s x.root x.rcb with | some w => bits w 18 16 | none => 7
  min (min level 7) cap

/-- The queues of a home that could dispatch: number, head, level, slot and base (R148). -/
def State.candidates (s : State) (h : Nat) : List (Nat × TaskRec × Nat × Nat × Nat) :=
  let u := mkSkerry (h / 2 ^ 12 % 16) (h % 4096)
  (upTo 64).filterMap (fun n =>
    let q := h * 64 + n
    let x := s.queue q
    match x.queued with
    | [] => none
    | r :: _ =>
      if !x.configured || x.quarantined || x.gates r || (s.rcbShut x.root x.rcb (s.numberAt 2)).isSome ||
          !bodyReads s x.root x.rcb then none
      else match s.fillPlace u (r.nregs * 8) x.root x.rcb false with
        | some (k, b) => some (q, r, s.headLevel x r, k, b)
        | none => none)

/-- The candidate with the largest credit; ties to the lowest number (R148). -/
def bestCredit (s : State) : List (Nat × TaskRec × Nat × Nat × Nat) → Option (Nat × TaskRec × Nat × Nat × Nat)
  | [] => none
  | c :: cs => match bestCredit s cs with
    | none => some c
    | some b => if (s.queue b.1).credit > (s.queue c.1).credit then some b else some c

/-- What holds up the RCB reads of a queue with a task to dispatch, so that the queue is looked at again (R228). -/
def State.dispatchShut (s : State) (h : Nat) : Option Await :=
  if s.allOpen then none
  else (upTo 64).findSome? (fun n =>
    let x := s.queue (h * 64 + n)
    if x.queued.isEmpty then none else s.rcbShut x.root x.rcb (s.numberAt 2))

/-- A home serves one head by near dispatch, and looks again (R148); it comes to its queues in its turn among their operations
(R145, R282). Arguments: the home, and 1 where the power controller draws on its level-0 queues (R353); then its number and a
location, once it waits at a closed home. -/
def execNearDispatch (s : State) : Host.Outcome State Fault Refusal :=
  let h := s.arg 0
  let u := mkSkerry (h / 2 ^ 12 % 16) (h % 4096)
  let l := portOf (h / 2 ^ 16) (h / 2 ^ 12 % 16) (h % 4096)
  let again := [h, s.arg 1]
  .next (match s.shutFor (s.numberAt 2 l) l none with
    | some a => s.tryAgain .nearDispatch again a
    | none =>
      let s := match s.dispatchShut h with | some a => s.tryAgain .nearDispatch again a | none => s
      let cs := s.candidates h
      let top := if s.arg 1 = 1 then 0 else cs.foldl (fun m c => max m c.2.2.1) 0
      let cs := cs.filter (fun c => c.2.2.1 = top)
      let sum := cs.foldl (fun n c => n + (s.queue c.1).weight) 0
      let s := cs.foldl (fun s c => s.updQueue c.1 (fun x => { x with credit := x.credit + x.weight })) s
      match bestCredit s cs with
      | none => s
      | some (q, r, _, k, b) =>
        let s := s.updQueue q (fun x => { x with
          credit := x.credit - sum, queued := headSince s.ns (x.queued.drop 1), running := x.running ++ [r] })
        let s := if s.arg 1 = 1 then s.setPkg { s.pkg with fillers := s.pkg.fillers ++ [(q, r.seq)] } else s
        (s.fillBody (u * 64 + k) b (r.nregs * 8) r.near q r).push .nearDispatch again)

/-! ### Steal agents (R150, R326) -/

/-- Column and row of a cluster, and the hops between two of a die (R128). -/
def meshHops (a b : Nat) : Nat :=
  let dx := (a % 14 : Int) - b % 14
  let dy := (a / 14 : Int) - b / 14
  dx.natAbs + dy.natAbs

/-- The cores of a cluster where a region's thread of n registers can be filled: place and base of each. -/
def State.coresFor (s : State) (c n : Nat) (root rcb : Word) : List (Nat × Nat) :=
  (upTo 128).filterMap (fun j =>
    let u := mkCape (c / 128) (c % 128) j
    (s.fillPlace u n root rcb true).map (fun p => (u * 64 + p.1, p.2)))

/-- The cores where the secondary of a pair may be placed: in clusters of the same die at least two hops away (R326). -/
def State.secondCores (s : State) (c n : Nat) (root rcb : Word) : List (Nat × Nat) :=
  ((upTo 98).filter (fun d => meshHops d (c % 128) ≥ 2)).flatMap (fun d => s.coresFor (c / 128 * 128 + d) n root rcb)

/-- A slot reserved with all the entries a far body may need (R150). -/
def State.reserve (s : State) (t base : Nat) (root rcb : Word) : State :=
  s.setTh t { (s.th t) with reserved := true, base := base, lim := 112, rcb := rcb, root := root }

/-- Whether far bodies of a queue's region run as twins (R326). -/
def State.regionPair (s : State) (x : Queue) : Bool :=
  match effSched s x.root x.rcb with | some w => w.getLsbD 1 | none => false

/-- A cluster's steal agent acts on a depth alert: it reserves a slot, two for a region of pairs, and sends a steal, or
declines; which of several cores it takes is not defined (R150, R326, log 4). Where a home holds up its reads of the region's RCB
it waits (R228). Arguments: the queue, the cluster; then its number and a location. -/
def execDepthAlert (s : State) : Host.Outcome State Fault Refusal :=
  let q := s.arg 0
  let c := s.arg 1
  let x := s.queue q
  let decline := s.setQueue q { x with alerts := x.alerts.filter (· ≠ c) }
  .next (match s.rcbShut x.root x.rcb (s.numberAt 2), s.choose (s.coresFor c 112 x.root x.rcb) with
    | some a, _ => s.tryAgain .depthAlert [q, c] a
    | none, none => decline
    | none, some ((t, b), s1) =>
      let s1 := s1.reserve t b x.root x.rcb
      let second := if !s.regionPair x then some (none, s1)
        else (s1.choose (s1.secondCores c 112 x.root x.rcb)).map (fun p => (some p.1, p.2))
      match second with
      | none => decline
      | some (two, s1) =>
        let (k, s1) := s1.tick
        let s1 := match two with | some (t2, b2) => s1.reserve t2 b2 x.root x.rcb | none => s1
        let steal : Steal := {
          queue := q, cluster := c, place := t, second := two.map (·.1), nmx := (s.cluster c).failed }
        { s1 with steals := AMap.set s1.steals k steal }.push .stealReply [k])

/-- A reserved slot given back (R150). -/
def State.unreserve (s : State) (t : Nat) : State := (s.fill t {}).slotFreed (unitOfThread t) (slotOfThread t)

/-- A far body in its reserved slot; a gated one waits before its first instruction (R149, R150). -/
def State.fillFar (s : State) (t q : Nat) (r : TaskRec) : State :=
  let base := (s.th t).base
  let s := s.fillBody t base (r.fregs * 8) r.far q r
  if r.gated then s.parkOn t .thrYield .gateFirst none false else s

/-- The secondary twin of a far body put into its reserved slot, with the primary's entry registers (R326). -/
def State.fillSecond (s : State) (t t2 : Nat) : State :=
  let b2 := (s.th t2).base
  let p := s.th t
  let s := s.fill t2 { p with base := b2, uid := s.fresh, twin := some (t, true) }
  { (s.updTh t (fun th => { th with twin := some (t2, false) })) with fresh := s.fresh + 1 }

/-- Whether a region may be filled into a reserved slot of a Cape core now: its budget holds the cluster, and its threads in
the core's other slots leave SLOTCAP one (R139, R140). -/
def State.mayFill (s : State) (root rcb : Word) (t : Nat) : Bool :=
  let u := unitOfThread t
  match s.fillBudget root rcb with
  | some b => b.hasCluster (dieOf u) (clusterOf u) && ((s.liveSlots u).filter (fun (k, th) =>
      k ≠ slotOfThread t && k ≠ reservedSlot u && th.rcb = rcb && th.root = root)).length < b.slotcap
  | none => false

/-- What a steal performed at its queue comes to: a far body in the reserved slot, twins for a pair, or the reservations
given back. One whose region's RCB cannot be used, or does not let the slots be filled any more, takes nothing (R139, R140,
R150, R326, R368; log 52). -/
def State.endSteal (s : State) (x : Steal) : State :=
  let q := s.queue x.queue
  let ok := bodyReads s q.root q.rcb && s.mayFill q.root q.rcb x.place && x.second.toList.all (s.mayFill q.root q.rcb)
  let (_, got, s) := if ok then s.stealTask x.queue x.nmx else (wstREFUSED, none, s)
  let s := match got, x.second with
    | none, none => s.unreserve x.place
    | none, some t2 => (s.unreserve x.place).unreserve t2
    | some r, none => s.fillFar x.place x.queue r
    | some r, some t2 => (s.fillFar x.place x.queue r).fillSecond x.place t2
  s.replyAlert x.queue x.cluster

/-- The number of a steal's arrival at a location's home, or a new one (R145). -/
def Steal.numberAt (x : Steal) (s : State) (l : Nat) : Nat :=
  match x.arrived with
  | some (k, l') => if sameArrival l' l then k else s.fresh
  | none => s.fresh

/-- A steal arrives at its queue and its reply returns; behind a closed home it keeps its place (R145, R150). Argument:
the steal. -/
def execStealReply (s : State) : Host.Outcome State Fault Refusal :=
  let k := s.arg 0
  .next (match s.steals.find? (fun p => p.1 = k) with
    | none => s
    | some (_, x) =>
      let q := s.queue x.queue
      match (s.queueShut (x.numberAt s (queuePort x.queue)) x.queue).or (s.rcbShut q.root q.rcb (x.numberAt s)) with
      | some a => { s with steals := AMap.set s.steals k { x with arrived := a.closedAt.map (fun l => (x.numberAt s l, l)) },
                           fresh := s.fresh + 1 }.after 8 .stealReply [k]
      | none => { s with steals := AMap.del s.steals k }.endSteal x)

/-- A gate token arrives: the task may begin, and stays so wherever its thread is (R147, R158). Arguments: the queue,
the sequence number. -/
def execGateToken (s : State) : Host.Outcome State Fault Refusal :=
  .next (s.updQueue (s.arg 0) (fun x => { x with
    running := x.running.map (fun r => if r.seq = s.arg 1 then { r with gated := false } else r) }))

/-- The retire or the replay of a task whose thread has been removed, once its home lets it (R145, R282, R324). -/
def State.retireOrReplay (s : State) (q seq : Nat) (replay : Bool) (k : Nat) : State :=
  match s.queueShut k q with
  | some _ => s.comeAgain .retire [q, seq, if replay then 1 else 0] k (queuePort q)
  | none => if replay then s.replayTask q seq else s.retireTask q seq

/-- A task is retired at its home, or queued again by a replay (R145, R147, R324). Arguments: the queue, the sequence number,
1 for a replay; then its number and a location, once it waits at a closed home. -/
def execRetire (s : State) : Host.Outcome State Fault Refusal :=
  .next (s.retireOrReplay (s.arg 0) (s.arg 1) (s.arg 2 = 1) (s.ev.getD 3 s.fresh))

/-! ### Join words and notifications (R151) -/

/-- Where a region's notification goes and what it stores: NDATA at NADDR, a window address or a translated one; none
where NADDR is 0, or the RCB or the address cannot be used (R151, R368). -/
def State.notifyAt (s : State) (root rcb : Word) : Option (Nat × Word) :=
  match rcbEff s root 80 10 treeDepth rcb, rcbEff s root 88 11 treeDepth rcb with
  | some addr, some data =>
    if addr = 0 || bits addr 2 0 ≠ 0 || !rcbUsable s root rcb then none
    else if isWindow addr then (if windowOk s root rcb addr then some (locLocal addr.toNat, data) else none)
    else (s.rootLoc root addr).map (fun l => (l, data))
  | _, _ => none

/-- TIME at a home, in ns (R151, R337). -/
def State.homeTime (s : State) (home : Nat) : Int := s.dieTime (if home < 2 ^ 40 then home / 2 ^ 12 % 16 else home / 2 ^ 14 % 16)

/-- Whether a notification posted earlier waits to be stored at a location. -/
def State.storesBefore (s : State) (n l : Nat) : Bool :=
  s.timers.any (fun (_, e, args) => e = .nwinExpiry && args.getD 1 0 = l && 2 ^ 65 ≤ args.getD 2 0 && args.getD 2 0 < 2 ^ 65 + n)

/-- The store of a posted notification, the n-th: behind a closed home, behind stores that left for its destination earlier, or
behind an earlier notification it waits (R151, R205, R228, R347). -/
def State.storeNotified (s : State) (n l : Nat) (data : Word) : State :=
  match s.ownHeld (s.numberAt 3 l) l with
  | some a => s.tryAgain .nwinExpiry [data.toNat, l, 2 ^ 65 + n] a
  | none => if s.storesBefore n l then s.after 8 .nwinExpiry [data.toNat, l, 2 ^ 65 + n] else s.putWord l data

/-- A notification posted, which opens a coalescing window (R151). -/
def State.postNotify (s : State) (home key l : Nat) (data : Word) : State :=
  let s := s.updHome home (fun h => { h with
    notified := AMap.set h.notified key (s.homeTime home), deferred := setErase h.deferred key })
  { s with ev := [], fresh := s.fresh + 1 }.storeNotified s.fresh l data

/-- What is left of a region's coalescing window at a home, in ns of Beacon time (R151). -/
def State.windowLeft (s : State) (home : Nat) (root rcb : Word) (win : Nat) : Nat :=
  let h := s.home home
  let key := regionKey root rcb
  if AMap.has h.notified key then (AMap.get 0 h.notified key + win * 1000 - s.homeTime home).toNat else 0

/-- A notification put off, to be looked at again after `d` units of 1/8 ns; those of one region become one store (R151). -/
def State.deferNotify (s : State) (home d : Nat) (root rcb : Word) : State :=
  let key := regionKey root rcb
  if (s.home home).deferred.contains key then s
  else (s.updHome home (fun h => { h with deferred := setInsert h.deferred key })).after d .nwinExpiry
    [home, root.toNat, rcb.toNat]

/-- How long a home waits before it looks at a window of so many ns again: TIME gains at most 200 ppm on elapsed time
(R337). -/
def windowWait (left : Nat) : Nat := 8 * max 1 (left - left / 4000)

/-- The notification of an RCB by a home: posted at once or deferred to the end of the window; while a home holds up the reads of
the RCB it waits, each for itself (R151, R228, R347). -/
def State.notify (s : State) (home : Nat) (root rcb : Word) : State :=
  match s.rcbShut root rcb (s.numberAt 3) with
  | some a => s.tryAgain .nwinExpiry [home, root.toNat, 2 ^ 64 + rcb.toNat] a
  | none => match s.notifyAt root rcb, effNwin s root rcb with
    | some (l, data), some win =>
      let left := s.windowLeft home root rcb win
      if 0 < left then s.deferNotify home (windowWait left) root rcb
      else s.postNotify home (regionKey root rcb) l data
    | _, _ => s

/-- The end of a coalescing window: the notifications deferred into it are posted as one store (R151). -/
def State.windowEnd (s : State) (home : Nat) (root rcb : Word) : State :=
  let key := regionKey root rcb
  let args := [home, root.toNat, rcb.toNat]
  if !(s.home home).deferred.contains key then s
  else match s.rcbShut root rcb (s.numberAt 3) with
    | some a => s.tryAgain .nwinExpiry args a
    | none =>
      let left := match effNwin s root rcb with | some win => s.windowLeft home root rcb win | none => 0
      if 0 < left then s.after (windowWait left) .nwinExpiry args
      else match s.notifyAt root rcb with
        | some (l, data) => s.postNotify home key l data
        | none => s.updHome home (fun h => { h with deferred := setErase h.deferred key })

/-- The RCB address that a notifying join word has in the doubleword behind it, `next`, if that can be read (R151). -/
def State.joinRcb (s : State) (next : Option Nat) : Option Word :=
  match next with
  | some l => if s.outOfReach l || s.isPoison l 8 then none else some (s.read64 l)
  | none => none

/-- The notification of a join word whose RCB address stands at a location, which may be held up there (R151, R228). -/
def State.notifyJoin (s : State) (home : Nat) (root : Word) (next : Nat) : State :=
  match s.ownHeld (s.numberAt 3 next) next with
  | some a => s.tryAgain .nwinExpiry [home, root.toNat, 2 ^ 66 + next] a
  | none => match s.joinRcb (some next) with
    | some rcb => { s with ev := [] }.notify home root rcb
    | none => s

/-- The end of a coalescing window, and notifications that have waited (R151). Arguments: the home, the root, the RCB address;
2^64 above the RCB address where its reads were held up, 2^66 above the location of the address itself; or the data, the
location, and 2^65 above the number of a store that was held up; then a number and a location, once it waits at a closed home. -/
def execNwinExpiry (s : State) : Host.Outcome State Fault Refusal :=
  let home := s.arg 0
  let root := BitVec.ofNat 64 (s.arg 1)
  let x := s.arg 2
  .next (if x < 2 ^ 64 then s.windowEnd home root (BitVec.ofNat 64 x)
    else if x < 2 ^ 65 then s.notify home root (BitVec.ofNat 64 x)
    else if x < 2 ^ 66 then s.storeNotified (x - 2 ^ 65) (s.arg 1) (BitVec.ofNat 64 home)
    else s.notifyJoin home root (x - 2 ^ 66))

/-- COUNT of a join word (R151). -/
def joinCount (w : Word) : Nat := bits w 62 0

/-- A decrement at the join word's home: the old word, none where COUNT is 0; on reaching 0 with N set it notifies
(R151, R157). DESIGN CHOICE (log 52): a poisoned join word is decremented as its stored bits stand. -/
def State.joinDec (s : State) (root : Word) (l : Nat) (next : Option Nat) : Option (Word × State) :=
  let w := s.read64 l
  if joinCount w = 0 then none
  else
    let s := s.write64 l (w - 1)
    some (w, if joinCount w = 1 && w.getLsbD 63 then
      (match next with | some l' => { s with ev := [] }.notifyJoin (homeOf l) root l' | none => s) else s)

end Sys2Proof.Machine
end

