-- ==== Sys2Proof/Machine/Fp.lean ====
section
/-!
DEFINITION. The scalar floating-point instructions (R72-R85). Operands are FP32 patterns in the low 32 bits of their
registers (R73); a result is zero-extended; its flags go to FPF when the instruction completes (R77).
-/

namespace Sys2Proof.Machine

/-- The mode an instruction rounds in: RND, or what a pending FMT prefix overrides it with (R76). -/
def effMode (th : Thread) : Mode :=
  if th.st.ppFmt then
    match pfxRnd th.st.pfxF with | 1 => .rne | 2 => .rtz | _ => modeOfNat th.rnd.toNat
  else modeOfNat th.rnd.toNat

/-- The format codes of an instruction: those of a pending FMT prefix, or its defaults (R42, R83, R95). -/
def fmtsOf (th : Thread) (ab d : Nat) : Nat × Nat :=
  if th.st.ppFmt then (pfxAB th.st.pfxF, pfxD th.st.pfxF) else (ab, d)

/-- The n-th source as an FP32 pattern and as a value (R73). -/
def srcF (s : State) (t : Nat) (i : Instr) (n : Nat) : Nat := bits (srcVal s t i n) 31 0
def srcFV (s : State) (t : Nat) (i : Instr) (n : Nat) : FVal := Fmt.fp32.value (srcF s t i n)

/-- A pattern and flags as the instruction's result (R73, R77). -/
def fpResult (s : State) (t : Nat) (d : BitVec 7) (r : Nat × Flags) : Res :=
  .done ((s.writeDest t d (BitVec.ofNat 64 r.1)).flag t r.2)

/-- A function of two FP32 values in the effective mode. -/
def fpTwo (i : Instr) (d : BitVec 7) (f : Mode → FVal → FVal → Nat × Flags) (s : State) :
    Host.Outcome State Fault Refusal :=
  runWord i s (fun s t => fpResult s t d (f (effMode (s.th t)) (srcFV s t i 0) (srcFV s t i 1)))

/-- fp.add (R80, R81). -/
def execFpAdd (d a b : BitVec 7) (s : State) : Host.Outcome State Fault Refusal :=
  fpTwo (.fpAdd d a b) d (fun m x y => Fmt.fp32.add m x y) s

/-- fp.sub: the sum with the second operand's sign flipped (R80, R81). -/
def execFpSub (d a b : BitVec 7) (s : State) : Host.Outcome State Fault Refusal :=
  fpTwo (.fpSub d a b) d (fun m x y => Fmt.fp32.add m x y.flip) s

/-- fp.mul (R80, R81). -/
def execFpMul (d a b : BitVec 7) (s : State) : Host.Outcome State Fault Refusal :=
  fpTwo (.fpMul d a b) d (fun m x y => Fmt.fp32.mul m x y) s

/-- fp.div on the shared divider (R80, R81, R85). -/
def execFpDiv (d a b : BitVec 7) (s : State) : Host.Outcome State Fault Refusal :=
  let i : Instr := .fpDiv d a b
  runWord i s (fun s t =>
    let r := Fmt.fp32.div (effMode (s.th t)) (srcFV s t i 0) (srcFV s t i 1)
    divide i d (BitVec.ofNat 64 r.1) r.2 s t)

/-- fp.sqrt on the shared divider (R80, R81, R85). -/
def execFpSqrt (d a : BitVec 7) (s : State) : Host.Outcome State Fault Refusal :=
  let i : Instr := .fpSqrt d a
  runWord i s (fun s t =>
    let r := Fmt.fp32.sqrt (effMode (s.th t)) (srcFV s t i 0)
    divide i d (BitVec.ofNat 64 r.1) r.2 s t)

/-- fp.fma: s[d] + s[a] × s[b] with one rounding (R80, R81). -/
def execFpFma (d a b : BitVec 7) (s : State) : Host.Outcome State Fault Refusal :=
  let i : Instr := .fpFma d a b
  runWord i s (fun s t =>
    fpResult s t d (Fmt.fp32.fma (effMode (s.th t)) (srcFV s t i 1) (srcFV s t i 2) (srcFV s t i 0)))

/-- fp.min (R82). -/
def execFpMin (d a b : BitVec 7) (s : State) : Host.Outcome State Fault Refusal :=
  let i : Instr := .fpMin d a b
  runWord i s (fun s t => fpResult s t d (Fmt.fp32.minmax false (srcF s t i 0) (srcF s t i 1)))

/-- fp.max (R82). -/
def execFpMax (d a b : BitVec 7) (s : State) : Host.Outcome State Fault Refusal :=
  let i : Instr := .fpMax d a b
  runWord i s (fun s t => fpResult s t d (Fmt.fp32.minmax true (srcF s t i 0) (srcF s t i 1)))

/-- fp.cvt from fmtAB to fmtD, FP32 to FP32 without a prefix (R78, R79, R83). -/
def execFpCvt (d a : BitVec 7) (s : State) : Host.Outcome State Fault Refusal :=
  let i : Instr := .fpCvt d a
  runWord i s (fun s t =>
    let (ab, fd) := fmtsOf (s.th t) 0 0
    let (w, f) := convert fd (effMode (s.th t)) (valueOfCode ab (srcVal s t i 0).toNat)
    .done ((s.writeDest t d w).flag t f))

/-- fp.ftoi to a signed 64-bit integer (R79, R81). -/
def execFpFtoi (d a : BitVec 7) (s : State) : Host.Outcome State Fault Refusal :=
  let i : Instr := .fpFtoi d a
  runWord i s (fun s t =>
    let (v, f) := toInt 64 (effMode (s.th t)) (srcFV s t i 0)
    .done ((s.writeDest t d (wordOfInt v)).flag t f))

/-- fp.itof from a signed 64-bit integer (R81). -/
def execFpItof (d a : BitVec 7) (s : State) : Host.Outcome State Fault Refusal :=
  let i : Instr := .fpItof d a
  runWord i s (fun s t =>
    fpResult s t d (Fmt.fp32.roundVal (effMode (s.th t)) (ofInt (srcVal s t i 0).toInt)))

end Sys2Proof.Machine
end

