-- ==== Sys2Proof/Machine/Tbl.lean ====
section
/-!
DEFINITION. The code table of a core: the `tbl` instructions, the commit of its changes and the end of a seal (R86-R95).
TBLD is written in Sys.lean.
-/

namespace Sys2Proof.Machine

/-- The cycle a change of table state counts from: its instruction's issue, or its resumption if it has parked (R88,
R89). -/
def State.changeCycle (s : State) (t : Nat) : Nat :=
  match (s.th t).park with
  | some p => p.woken.getD (s.issueCycle t)
  | none => s.issueCycle t

/-- A change of table state or of XO that commits 12 cycles later (R88, R260). One that takes effect at its resumption has
issued then, so that its thread's next instruction sees it (R24, R89). -/
def State.commitLater (s : State) (t : Nat) (c : Commit) : State :=
  let n := s.changeCycle t
  (s.updCore (unitOfThread t) (fun k => { k with commits := insertTimed k.commits (n + 12) c })).updTh t
    (fun th => { th with lastIssue := th.lastIssue.map (fun _ => n) })

/-- The table of a thread's core as its instruction reads it: as committed at its issue (R88); for an encode that has
waited for a seal, as the seal left it (R89). -/
def State.table (s : State) (t : Nat) : CodeTable :=
  let now := (s.core (unitOfThread t)).table
  match (s.th t).park with
  | some p => p.table now
  | none => now

/-- What waits for a running seal to end: writes, seals and encodes (R89). -/
def unlessSealing (s : State) (t : Nat) (r : Res) : Res := if (s.table t).state = .sealing then .park .seal else r

/-- tbl.wr: the entry commits 12 cycles later and unseals (R88, R89, R94). -/
def execTblWr (a b : BitVec 7) (s : State) : Host.Outcome State Fault Refusal :=
  let i : Instr := .tblWr a b
  runWord i s (fun s t => unlessSealing s t
    (.done (s.commitLater t (.entry (bits (srcVal s t i 0) 7 0) ((srcVal s t i 1).truncate 19)))))

/-- tbl.rd (R94). -/
def execTblRd (d a : BitVec 7) (s : State) : Host.Outcome State Fault Refusal :=
  let i : Instr := .tblRd d a
  runWord i s (fun s t =>
    .done (s.writeDest t d (((s.table t).entry (bits (srcVal s t i 0) 7 0)).zeroExtend 64)))

/-- tbl.seal: the seal starts 12 cycles later and the thread parks until it completes (R88, R89, R92, R94). -/
def execTblSeal (s : State) : Host.Outcome State Fault Refusal :=
  runWord .tblSeal s (fun s t => unlessSealing s t (
    let (k, s) := s.tick
    .sent ((s.commitLater t (.startSeal k)).parkOn t .tblSeal (.sealOwn k))))

/-- tbl.nansub: TBLERR outside the codes in use; else it commits 12 cycles later (R88, R94). -/
def execTblNansub (a : BitVec 7) (s : State) : Host.Outcome State Fault Refusal :=
  let i : Instr := .tblNansub a
  runWord i s (fun s t =>
    let v := bits (srcVal s t i 0) 7 0
    if entriesOf (s.table t).width ≤ v then .trap cTBLERR 0 0 0 else .done (s.commitLater t (.nansub v)))

/-- tbl.enc of an exact value to the format in force (R89, R93, R95). -/
def execTblEnc (d a : BitVec 7) (s : State) : Host.Outcome State Fault Refusal :=
  let i : Instr := .tblEnc d a
  runWord i s (fun s t =>
    let c := s.table t
    unlessSealing s t (
      let (ab, fd) := fmtsOf (s.th t) 0 c.inForce
      if c.state ≠ .sealed || fd ≠ c.inForce then .trap cTBLERR 0 0 0
      else
        let (k, f) := c.enc (valueOfCode ab (srcVal s t i 0).toNat)
        .done ((s.writeDest t d (BitVec.ofNat 64 k)).flag t f)))

/-- An entry delivered in a format: E8M10 unchanged, else converted (R95). -/
def deliverEntry (e : BitVec 19) (fd : Nat) (m : Mode) : Word × Flags :=
  if fd = 3 then (e.zeroExtend 64, 0) else convert fd m (Fmt.e8m10.value e.toNat)

/-- tbl.dec of a code in the format in force (R91, R95). -/
def execTblDec (d a : BitVec 7) (s : State) : Host.Outcome State Fault Refusal :=
  let i : Instr := .tblDec d a
  runWord i s (fun s t =>
    let c := s.table t
    let (ab, fd) := fmtsOf (s.th t) c.inForce 0
    if ab ≠ c.inForce then .trap cTBLERR 0 0 0
    else
      let (w, f) := deliverEntry (c.entry ((srcVal s t i 0).toNat % 2 ^ codeWidth ab)) fd (effMode (s.th t))
      .done ((s.writeDest t d w).flag t f))

/-- A change applied to the state a core's slots share (R34, R88, R260); the start of a seal is followed by its end,
and a start that finds a seal running waits for it. -/
def State.commit (s : State) (u : Nat) (c : Commit) : State :=
  match c with
  | .shared k v => s.updCore u (fun x => { x with c := AMap.set x.c k v })
  | .entry k v => s.updCore u (fun x => { x with table := x.table.writeEntry k v })
  | .nansub v => s.updCore u (fun x => { x with table := { x.table with nansub := v } })
  | .width v => s.updCore u (fun x => { x with table := x.table.writeWidth v })
  | .xo v => s.updCore u (fun x => { x with xo := v })
  | .startSeal k =>
    if (s.core u).table.state = .sealing then
      s.updCore u (fun x => { x with commits := insertTimed x.commits (x.cycle + 1) (.startSeal k) })
    else (s.updCore u (fun x => { x with table := x.table.startSeal })).push .sealComplete [u, k]

/-- A change of table state or of XO commits (R88, R260). Argument: the unit. -/
def execTableCommit (s : State) : Host.Outcome State Fault Refusal :=
  let u := s.arg 0
  .next (match (s.core u).commits with
    | [] => s
    | (n, c) :: rest => match c with
      | .shared _ _ => s
      | _ => if n ≤ (s.core u).cycle then (s.updCore u (fun x => { x with commits := rest })).commit u c else s)

/-- A seal completes: ORD, NANV, NANLO, GEN and STATE, and the tbl.seal that started it (R89, R92, R94).
Arguments: the unit, the tbl.seal's ticket. -/
def execSealComplete (s : State) : Host.Outcome State Fault Refusal :=
  let u := s.arg 0
  .next (if (s.core u).table.state ≠ .sealing then s
    else
      let s := s.updCore u (fun x => { x with table := x.table.endSeal })
      let s := (s.liveSlots u).foldl (fun s x => if x.2.park.any (fun p => p.tab.any (·.state = .sealing)) then
        s.updTh (u * 64 + x.1) (fun th => { th with park := th.park.map (fun p => p.sealed (s.core u).table) }) else s) s
      match (s.liveSlots u).find? (fun (_, th) => match th.park with
        | some p => p.await = .sealOwn (s.arg 1)
        | none => false) with
      | some (k, _) => s.finish (u * 64 + k) .tblSeal
      | none => s)

end Sys2Proof.Machine
end

