-- ==== Sys2Proof/Machine/Sys.lean ====
section
/-!
DEFINITION. The `sys` major but for its trap-handler and pre-emption functions: state registers, traps called by
software, fences, capabilities and translation buffers (R12-R19, R64-R70, R87, R126, R184, R241, R260, R294, R308,
R329).
-/

namespace Sys2Proof.Machine

/-! ### State registers (R16, R65, R66) -/

/-- An entry of the slot table as a word (R121). -/
def SlotEntry.word (e : SlotEntry) : Nat := (if e.pin then 2 ^ 15 else 0) + (if e.valid then 2 ^ 14 else 0) + e.slot

/-- A state register as `sys.srd` reads it (R16, R65). -/
def State.readReg (s : State) (t n : Nat) : Word :=
  let th := s.th t
  let u := unitOfThread t
  let c := s.core u
  match n with
  | 0 => th.st.toWord
  | 1 => s.tid t
  | 2 => th.rcb
  | 3 => th.live.zeroExtend 64
  | 4 => th.rnd.zeroExtend 64
  | 5 => (s.table t).descriptor
  | 6 => BitVec.ofNat 64 (s.issueCycle t)
  | 7 => s.time (dieOf u)
  | 8 => s.terr
  | 9 => th.task
  | 10 => th.seq
  | 11 => s.jrnl t
  | 12 => BitVec.ofNat 64 (s.energyOf th.root th.rcb)
  | 13 => s.pkg.caplist
  | 14 => c.xo
  | 15 => BitVec.ofNat 64 (c.tabIndex * 2 ^ 16 + (AMap.get {} c.slotTab c.tabIndex : SlotEntry).word)
  | _ => s.pairt u

/-- sys.srd: the register as it stood at the issue (R65). -/
def execSysSrd (d a : BitVec 7) (s : State) : Host.Outcome State Fault Refusal :=
  let i : Instr := .sysSrd d a
  runWord i s (fun s t => .done (s.writeDest t d
    (match s.parkOf t i with
     | some p => if a.toNat = 11 || a.toNat = 12 || a.toNat = 14 then p.kept else s.readReg t a.toNat
     | none => s.readReg t a.toNat)))

/-- What a write of ST leaves: WST and FPF, and in supervisor mode MODE (R13). -/
def St.written (x : St) (v : Word) : St :=
  { x with mode := if x.mode then v.getLsbD 63 else x.mode, wst := v.extractLsb' 12 3, fpf := v.extractLsb' 7 5 }

/-- Whether a unit may hold a PAIRT value (R294). -/
def pairtOk (u : Nat) (v : Word) : Bool :=
  bits v 63 19 = 0 && bits v 17 14 ≤ 7 && bits v 13 7 ≤ 97 && bits v 17 0 ≠ u &&
  (!isSkerry u || isHolm u || bits v 17 14 = dieOf u)

/-- A state register written (R13, R16, R87, R126, R260, R294). -/
def writeReg (s : State) (t n : Nat) (v : Word) : Res :=
  let th := s.th t
  let u := unitOfThread t
  match n with
  | 0 => if !th.st.mode && v.getLsbD 63 then .trap cPRIV 0 0 0
         else .done (s.updTh t (fun th => { th with st := th.st.written v }))
  | 3 => .done (s.updTh t (fun th => { th with live := v.truncate 15 }))
  | 4 => .done (s.updTh t (fun th => { th with rnd := v.truncate 2 }))
  | 5 => unlessSealing s t (if bits v 1 0 = 3 then .trap cILLFLD 0 0 0
         else .done (s.commitLater t (.width (bits v 1 0))))
  | 14 => if bits v 31 4 ≠ 0 || 9 < bits v 3 0 then .trap cILLFLD 0 0 0 else .done (s.commitLater t (.xo v))
  | 15 => .done (s.updCore u (fun c => { c with tabIndex := bits v 21 16 % slotsOf u }))
  | _ => if pairtOk u v then .done (s.updCore u (fun c => { c with pairt := some v })) else .trap cILLFLD 0 0 0

/-- sys.swr (R66). -/
def execSysSwr (d a : BitVec 7) (s : State) : Host.Outcome State Fault Refusal :=
  runWord (.sysSwr d a) s (fun s t => writeReg s t d.toNat (srcVal s t (.sysSwr d a) 0))

/-! ### Software traps and fences (R67-R70) -/

/-- sys.trap: TRAPCALL (R67). -/
def execSysTrap (a : BitVec 7) (s : State) : Host.Outcome State Fault Refusal :=
  runWord (.sysTrap a) s (fun _ _ => .trap cTRAPCALL 0 0 0)

/-- sys.break: BREAK (R67). -/
def execSysBreak (s : State) : Host.Outcome State Fault Refusal :=
  runWord .sysBreak s (fun _ _ => .trap cBREAK 0 0 0)

/-- Where a unit's fetched words are kept: its cluster's cache, or a skerry's fetch buffer (R68). -/
def cacheOf (u : Nat) : Nat := if isSkerry u then 2 ^ 20 + u else clusterKey u

/-- sys.ifence: every earlier store acknowledged, then the cluster's cached words and those fetched ahead for the thread
discarded (R68). -/
def execSysIfence (s : State) : Host.Outcome State Fault Refusal :=
  runWord .sysIfence s (fun s t => drainThen s t (fun s =>
    .done ((s.updCluster (cacheOf (unitOfThread t)) (fun c => { c with icache := [] })).updTh t
      (fun th => { th with ahead := [] }))))

/-- A fence of a scope, 0 dev, 1 dom, 2 sys (R70, R205). -/
def fence (i : Instr) (scope : Nat) (s : State) : Host.Outcome State Fault Refusal :=
  runWord i s (fun s t => if s.drainOver t scope true then .done s else .park (.drain scope true))

/-- sys.fence.dev (R70). -/
def execSysFenceDev (s : State) : Host.Outcome State Fault Refusal := fence .sysFenceDev 0 s

/-- sys.fence.dom (R70). -/
def execSysFenceDom (s : State) : Host.Outcome State Fault Refusal := fence .sysFenceDom 1 s

/-- sys.fence.sys (R70). -/
def execSysFenceSys (s : State) : Host.Outcome State Fault Refusal := fence .sysFenceSys 2 s

/-! ### Capabilities (R241, R328, R329) -/

/-- The tag of a capability under the present engine key (R241). -/
def State.capTag (s : State) (rcb : Word) (rights die cluster : Nat) : Nat :=
  (Config.tagHash s.pkg.keyEpoch rcb 4 rights die cluster).toNat

/-- sys.capget: a capability within the region's grants, or 0 and REFUSED (R329). -/
def execSysCapget (d a b : BitVec 7) (s : State) : Host.Outcome State Fault Refusal :=
  let i : Instr := .sysCapget d a b
  runWord i s (fun s t =>
    let th := s.th t
    let x := srcVal s t i 0
    let q := srcVal s t i 1
    let g := (effGrants s th.root th.rcb).getD 0
    let rights := bits q 35 32
    if bits x 63 11 ≠ 0 || 7 < bits x 10 7 || 97 < bits x 6 0 || bits q 63 48 ≠ 0 || bits q 39 36 ≠ 0 ||
        bits q 31 0 ≠ 0 || bits q 47 40 ≠ 4 || rights &&& bits g 3 0 ≠ rights || !g.getLsbD (8 + bits x 10 7) then
      .done ((s.writeDest t d 0).wst t wstREFUSED)
    else
      let cap := bits th.rcb 21 6 * 2 ^ 48 + 4 * 2 ^ 40 + rights * 2 ^ 32 + s.capTag th.rcb rights (bits x 10 7) (bits x 6 0)
      .done ((s.writeDest t d (BitVec.ofNat 64 cap)).wst t wstOK))

/-! ### Translation buffers (R306-R308) -/

/-- The accesses under way that were translated with a leaf that `covers` names by root, address and level: requests, and
the `wait.jz` that wait at their homes (R308). -/
def State.sentUnder (s : State) (covers : Word → Word → Nat → Bool) : List Nat :=
  (s.reqs.filter (fun p => p.2.unperformed.any (fun k =>
    p.2.levels.getD k 0 ≠ 0 && covers p.2.root (p.2.va + BitVec.ofNat 64 (8 * k)) (p.2.levels.getD k 0)))).map (·.1) ++
  s.threads.filterMap (fun p => match p.2.park with
    | some q => (match q.await, q.instr with
      | .joinZero _, .waitJz _ _ =>
        if q.kept ≠ 0 && covers p.2.root (srcVal s p.1 q.instr 0) q.kept.toNat then some q.came else none
      | _, _ => none)
    | none => none)

/-- The drop of buffered translations, and the wait for the accesses translated with them, also before a re-issue, whose
drops stand (R308). -/
def dropTlbs (s : State) (t : Nat) (i : Instr) (drop : Word → Nat → Nat → Bool)
    (covers : Word → Word → Nat → Bool) : Res :=
  drainThen s t (fun s =>
    let ks := s.sentUnder covers
    let keep : Nat × List TlbEntry → Nat × List TlbEntry := fun p =>
      (p.1, p.2.filter (fun e => !drop e.root e.page e.level))
    let s := { s with tlbs := (s.tlbs.map keep).filter (fun p => !p.2.isEmpty) }
    if ks.isEmpty then .done (s.wst t wstOK) else .sent (s.parkOn t i (.performed ks)))

/-- sys.tlb.inv: the page of s[a], of either size, under the thread's ROOTPT (R308). -/
def execSysTlbInv (a : BitVec 7) (s : State) : Host.Outcome State Fault Refusal :=
  let i : Instr := .sysTlbInv a
  runWord i s (fun s t =>
    let va := srcVal s t i 0
    let root := (s.th t).root
    dropTlbs s t i (fun r page l => isCanonical va && r = root && page = pageOf va l)
      (fun r x l => isCanonical va && r = root && pageOf x l = pageOf va l))

/-- sys.tlb.all: every entry of a root, or of every root (R308). -/
def execSysTlbAll (a : BitVec 7) (s : State) : Host.Outcome State Fault Refusal :=
  let i : Instr := .sysTlbAll a
  runWord i s (fun s t =>
    let r := srcVal s t i 0
    dropTlbs s t i (fun x _ _ => r = 0 || x = r) (fun x _ _ => r = 0 || x = r))

end Sys2Proof.Machine
end

