-- ==== Sys2Proof/Machine/Engine.lean ====
section
/-!
DEFINITION. Command contexts of every engine: their registers, ownership, acceptance, order, faults and timelines, and
the accesses their commands make (R217-R223, R240, R241, R304-R310).
-/

namespace Sys2Proof.Machine

/-! ### Contexts -/

/-- The context that an engine word of a thread names (R217, R240). -/
def State.ctxOf (s : State) (t e c : Nat) : Nat :=
  let u := unitOfThread t
  match e with
  | 4 =>
    let w := AMap.get 0 (s.core u).target c
    ctxKey 4 (bits w 10 7) (bits w 6 0) c
  | 5 | 7 => ctxKey e (dieOf u) 0 c
  | 6 => ctxKey 6 (dieOf u) (clusterOf u) 0
  | _ => ctxKey e (dieOf u) (clusterOf u) c

/-- The copy context c of a core's cluster. -/
def copyCtx (u c : Nat) : Nat := ctxKey 0 (dieOf u) (clusterOf u) c

/-- Commands waiting in the queue, and whether one is running or parked (R218). -/
def Ctx.queued (c : Ctx) : Nat := (c.cmds.filter (fun x => x.state = .queued)).length
def Ctx.busy (c : Ctx) : Bool := c.cmds.any (fun x => x.state = .running || x.state = .parked || x.state = .suspended)
def Ctx.running (c : Ctx) : Bool := c.cmds.any (fun x => x.state = .running)

/-- STAT (R218). -/
def Ctx.stat (c : Ctx) : Word :=
  BitVec.ofNat 64 ((16 - c.queued) * 2 ^ 16 + (if c.busy then 4 else 0) + (if c.fault then 2 else 0)
    + if c.own ≠ 0 then 1 else 0)

/-- The selector word of a context (R223). -/
def selOf (k : Nat) : Word :=
  BitVec.ofNat 64 (ctxEng k * 2 ^ 28 + ctxDie k * 2 ^ 24 + ctxCluster k * 2 ^ 17 + ctxNo k)

/-- Whether a page-migration context holds a moved frame: HELD, 0 while its move still copies (R345, R346). -/
def Ctx.isHeld (c : Ctx) : Bool :=
  c.held.isSome && !c.cmds.any (fun x => x.opn = 3 && x.progress ≠ 0 && x.state ≠ .done)

/-- A command of a context. -/
def Ctx.cmd (c : Ctx) (n : Nat) : Option Cmd := c.cmds.find? (fun x => x.n = n)
def Ctx.setCmd (c : Ctx) (x : Cmd) : Ctx := { c with cmds := c.cmds.map (fun y => if y.n = x.n then x else y) }
def State.setCmd (s : State) (k : Nat) (x : Cmd) : State := s.updCtx k (fun c => c.setCmd x)

/-- The die-local cluster that a cluster-wide context belongs to. -/
def clusterOfCtx (k : Nat) : Nat := ctxDie k * 128 + ctxCluster k

/-- A register of a context as `erd` reads it (R218, R224, R237, R242, R279, R345). -/
def State.ctxReg (s : State) (k r : Nat) : Word :=
  let c := s.ctx k
  let view : Option Word :=
    match ctxEng k, r with
    | 0, 13 => some (match c.bank with | some (_, a) => BitVec.ofNat 64 (2 ^ 63 + bits a 62 0) | none => 0)
    | 4, 12 => some (s.cluster (clusterOfCtx k)).table.descriptor
    | 4, 15 => some (((s.cluster (clusterOfCtx k)).table.entry (bits (AMap.get 0 c.regs 14) 7 0)).zeroExtend 64)
    | 4, 16 => some (BitVec.ofNat 64 c.mq.length)
    | 6, 12 => some (if (s.core (mkSkerry (ctxDie k) (ctxCluster k))).bankOn then 1 else 0)
    | 7, 8 => some (BitVec.ofNat 64 ((if c.isHeld then 256 else 0) + c.moveOut))
    | 7, 9 => some (if c.isHeld then c.moved else 0)
    | _, _ => none
  match r with
  | 0 => c.stat
  | 1 => c.own
  | 2 => BitVec.ofNat 64 c.issued
  | 3 => BitVec.ofNat 64 c.tl
  | 4 => BitVec.ofNat 64 c.fcmd
  | 5 => selOf k
  | _ => view.getD (AMap.get 0 c.regs r)

/-! ### Starting commands (R221, R228, R244, R281, R345) -/

/-- Commands that run one at a time in number order: gather/scatter and copy run theirs together. -/
def serial (k : Nat) : Bool := ctxEng k = 4 || ctxEng k = 6 || ctxEng k = 7

/-- The ordered copy commands, `bopen` and `bclose` (R228). -/
def ordered (k : Nat) (x : Cmd) : Bool := ctxEng k = 0 && (x.opn = 5 || x.opn = 6)

/-- The copy command that serves a stream binding (R231). -/
def streamOpn : Nat := 8

/-- Whether a queued command may start as far as its own context goes. -/
def State.mayStart (s : State) (k : Nat) (x : Cmd) : Bool :=
  let c := s.ctx k
  let before := c.cmds.filter (fun y => y.n < x.n && y.state ≠ .done)
  x.state = .queued && !c.fault &&
  (if serial k || ordered k x then before.isEmpty else !before.any (ordered k))

/-- The queued commands of a context given a chance to start. -/
def State.kick (s : State) (k : Nat) : State :=
  ((s.ctx k).cmds.filter (fun x => x.state = .queued)).foldl (fun s x => s.push .engineCommandStart [k, x.n]) s

/-- The four contexts of a matrix unit. -/
def unitCtxs (k : Nat) : List Nat := (upTo 4).map (fun c => k / 8 * 8 + c)

/-- Every context that waits for what context k holds. -/
def State.kickAll (s : State) (k : Nat) : State :=
  if ctxEng k = 4 then (unitCtxs k).foldl State.kick s else s.kick k

/-! ### The timeline (R221-R223) -/

/-- TL passes the completed commands that follow it (R221). -/
def Ctx.advance : Nat → Ctx → Ctx
  | 0, c => c
  | n + 1, c =>
    match c.cmd (c.tl + 1) with
    | some x => if x.state = .done then
        Ctx.advance n { c with tl := c.tl + 1, cmds := c.cmds.filter (fun y => y.n ≠ x.n) } else c
    | none => c

/-- A command completes (R221). -/
def State.completeCmd (s : State) (k n : Nat) : State :=
  match (s.ctx k).cmd n with
  | none => s
  | some x =>
    let s := s.updCtx k (fun c => { c with cmds := (c.setCmd { x with state := .done }).cmds })
    (s.updCtx k (fun c => Ctx.advance c.cmds.length c)).kickAll k

/-- Every `wait.tl` on a context above its TL completes with REFUSED (R219, R222). -/
def State.refuseWaits (s : State) (k : Nat) : State :=
  let tl := (s.ctx k).tl
  (s.threads.filter (fun (p : Nat × Thread) => match p.2.park with
    | some q => (match q.await with | .timeline k' n => k' = k && tl < n | _ => false)
    | none => false)).foldl (fun s p => match (s.th p.1).park with
      | some q => (s.wst p.1 wstREFUSED).finish p.1 q.instr
      | none => s) s

/-! ### Faults (R222, R310, R319) -/

/-- A tile lost with a started matrix command that is not over is set to NaN and unlocked (R246). -/
def State.loseTile (s : State) (k : Nat) (x : Cmd) : State :=
  if ctxEng k = 4 && (x.opn = 3 || x.opn = 4 || x.opn = 5 || x.opn = 6) &&
      x.started && x.state ≠ .faulted && x.state ≠ .done then
    let tile := bits (AMap.get 0 x.regs 8) 3 0
    let nan : AMap (BitVec 32) := (upTo 4096).map (fun i => (tile * 4096 + i, BitVec.ofNat 32 Fmt.fp32.nanPat))
    let s := s.updCluster (clusterOfCtx k) (fun c => { c with
      tiles := c.tiles.filter (fun p => p.1 / 4096 < tile) ++ nan ++ c.tiles.filter (fun p => tile < p.1 / 4096) })
    s.updCtx k (fun c => { c with lock := none, stall := none, portA := [], portB := [], entry := none, flags := 0 })
  else s

/-- The array freed if it ran this context's command. -/
def State.freeArray (s : State) (k : Nat) : State :=
  if ctxEng k = 4 then
    s.updCluster (clusterOfCtx k) (fun c => if c.current = some k then { c with current := none } else c)
  else s

/-- The record an engine's report makes when no thread can hold it: asynchronous, and no instruction's (R222, R310). -/
def State.engRecord (s : State) (k : Nat) (x : Cmd) (cause : Nat) (addr : Word) : TrapRec :=
  { flags := recASYNC, cause := cENGFAULT, tid := tidOfPlace s.pkg.device x.thread,
    info := ctxEng k + ctxNo k * 16 + cause * 256, addr := addr, time := s.time (dieOf (unitOfThread x.thread)),
    rcb := x.rcb, data := BitVec.ofNat 64 x.n }

/-- The saved thread of a number, with its unit (R315, R316). -/
def State.savedAt (s : State) (uid : Nat) : Option (Nat × Saved) :=
  s.units.findSome? (fun (p : Nat × Core) => (p.2.cache.find? (fun c => c.thread.uid = uid)).map (fun c => (p.1, c)))

/-- The location of a byte of a saved thread's record (R314, R315). -/
def Saved.at (c : Saved) (off : Nat) : Nat := locOfLeaf (c.va + BitVec.ofNat 64 off) c.leaf c.level

/-- The record of a cause that a saved thread holds (R297, R315). -/
def State.heldRec (s : State) (th : Thread) (tid : Word) (die : Nat) (h : Held) : TrapRec :=
  { flags := recASYNC ||| (if th.st.ppFmt || th.st.ppRlx then recPFX else 0) ||| (if h.jlost then recJLOST else 0),
    cause := h.cause, tid := tid, pc := th.pc, info := h.info, addr := h.addr, time := s.time die, rcb := th.rcb,
    data := h.data, st := th.st.toWord }

/-- A cause held by a saved thread, in its cached context and in HREC of its record, if HELD is 0; with HELD = 1 the record that
it would have held goes to the fault domain (R297, R315, R319). -/
def State.holdSaved (s : State) (u : Nat) (c : Saved) (h : Held) : State :=
  let w := s.read64 c.loc
  let r := s.heldRec c.thread (s.read64 (c.at 0x3B8)) (dieOf u) h
  if w.getLsbD 62 then s.postFault c.thread.root c.thread.rcb r
  else
    let s := s.updCore u (fun x => { x with cache := x.cache.map (fun y =>
      if y.loc = c.loc then { y with thread := { y.thread with held := [h] } } else y) })
    let s := ((upTo 8).zip r.words).foldl (fun s (p : Nat × Word) => s.putWord (c.at (0x3C0 + 8 * p.1)) p.2) s
    s.putWord c.loc (w ||| 0x4000000000000000)

/-- Where the home of META or HREC of a save record holds up a cause, which comes under the number that `k` gives (R228,
R347). -/
def State.savedShut (s : State) (c : Saved) (k : Nat → Nat) : Option Await :=
  (c.loc :: c.at 0x3B8 :: (upTo 8).map (fun j => c.at (0x3C0 + 8 * j))).findSome? (fun l => s.ownHeld (k l) l)

/-- A cause for a thread, wherever it is: in a slot, on its way, or saved, where it waits for the homes of its record. If the
thread has ended, the record goes to its region's fault domain (R222, R291, R319). -/
def State.tellThread (s : State) (x : Report) (k : Nat → Nat) : State :=
  match s.placeOfUid x.uid with
  | some t => s.hold t x.held
  | none =>
    if s.msgs.any (fun (p : Nat × Message) => p.2.thread.uid = x.uid) then
      { s with msgs := s.msgs.map (fun (p : Nat × Message) => (p.1, if p.2.thread.uid = x.uid then
          { p.2 with thread := { p.2.thread with held := p.2.thread.held ++ [x.held] } } else p.2)) }
    else match s.savedAt x.uid with
      | some (u, c) => (match s.savedShut c k with
        | some a =>
          let s' := s.setPkg { s.pkg with reports := s.pkg.reports ++ [x] }
          if !s.pkg.reports.isEmpty then s'
          else match a.closedAt with
            | some l => s'.comeAgain .trapRecordResend [0] (k l) l
            | none => s'.after 8 .trapRecordResend [0, 0, 0]
        | none => s.holdSaved u c x.held)
      | none => s.postFault x.root x.rcb x.record

/-- ENGFAULT for the issuer of a command (R222). -/
def State.reportEng (s : State) (k : Nat) (x : Cmd) (cause : Nat) (addr : Word) : State :=
  let r := s.engRecord k x cause addr
  let h : Held := { cause := cENGFAULT, info := r.info, addr := addr, data := r.data }
  s.tellThread { uid := x.uid, root := x.root, rcb := x.rcb, held := h, record := r } (fun _ => s.fresh)

/-- A context faulted by a command: FCMD, FAULT, the tile lost, the waiters refused, the issuer told (R222, R246). -/
def State.faultCtx (s : State) (k n cause : Nat) (addr : Word) : State :=
  match (s.ctx k).cmd n with
  | none => s
  | some x =>
    let s := s.loseTile k x
    let s := s.updCtx k (fun c => { (c.setCmd { x with state := .faulted }) with fcmd := n, fault := true })
    (((s.freeArray k).refuseWaits k).reportEng k x cause addr).kickAll k

/-- A page request sent to the handler slot of the buddy of the unit that issued the command; an undeliverable one goes
to the fault domain and the command stays parked (R310). -/
def State.sendPageRequest (s : State) (k n cause : Nat) (addr : Word) : State :=
  match (s.ctx k).cmd n with
  | none => s
  | some x =>
    let s := s.setCmd k { x with state := .parked }
    let r := s.engRecord k x cause addr
    s.sendOut (unitOfThread x.thread) { record := r, frozen := none, command := some (k, n), rcb := x.rcb, root := x.root }

/-- A parked command goes on (R222, R310). -/
def State.retryCmd (s : State) (k n : Nat) : State :=
  match (s.ctx k).cmd n with
  | some x => if x.state = .parked then
      (s.setCmd k { x with state := .running }).push .engineCommandComplete [k, n] else s
  | none => s

/-! ### Claim, release, clear (R219) -/

/-- claim. -/
def claimAt (s : State) (t k : Nat) : Res :=
  let c := s.ctx k
  let rcb := (s.th t).rcb
  if c.own = 0 || c.own = rcb then .done ((s.setCtx k { c with own := rcb }).wst t wstOK) else .done (s.wst t wstREFUSED)

/-- Whether a context keeps something its release must not drop: a bank, all-bank mode, a held frame (R219, R280,
R345). -/
def State.ctxHolds (s : State) (k : Nat) : Bool :=
  let c := s.ctx k
  (ctxEng k = 0 && c.bank.isSome) || (ctxEng k = 6 && (s.core (mkSkerry (ctxDie k) (ctxCluster k))).bankOn) ||
  (ctxEng k = 7 && c.isHeld)

/-- release: parks until every command is complete. -/
def releaseAt (s : State) (t k : Nat) : Res :=
  let c := s.ctx k
  if c.own ≠ (s.th t).rcb || s.ctxHolds k then .done (s.wst t wstREFUSED)
  else if c.tl ≠ c.issued || c.busy then .park (.ctxIdle k)
  else .done ((s.setCtx k { c with own := 0, regs := [], moveOut := 0 }).wst t wstOK)

/-- A frame leaves transit (R346, R347). -/
def State.dropHeld (s : State) (k : Nat) : State := s.updCtx k (fun c => { c with held := none, moved := 0 })

/-- The stream bindings that a copy context serves have lost their commands (R231). -/
def State.orphanStreams (s : State) (k : Nat) : State :=
  { s with streams := s.streams.map (fun (p : Nat × Stream) =>
    (p.1, if ctxEng k = 0 && p.2.bound && ctxKey 0 (dieOf (p.1 / 8)) (clusterOf (p.1 / 8)) p.2.fill = k then
      { p.2 with cmd := 0 } else p.2)) }

/-- Whether the csr command whose turn a metadata queue has still has entries to push (R251). DESIGN CHOICE (log 58): one
that was discarded or has faulted since its first entry keeps its turn until the queue's context is cleared. -/
def State.csrLive (s : State) (o : Nat × Nat) : Bool :=
  match (s.ctx o.1).cmd o.2 with | some x => x.state = .running || x.state = .parked | none => false

/-- The commands of a context discarded: tiles lost, a metadata queue emptied, a page taken out of transit, ISSUED and
FAULT reset, waits refused (R219, R246, R251, R347). The csr command whose turn it is at the queue keeps it. -/
def State.discard (s : State) (k : Nat) : State :=
  let owner := match (s.ctx k).mqOwner with | some o => if s.csrLive o then some o else none | none => none
  let s := ((s.ctx k).cmds.filter (fun x => x.state ≠ .done)).foldl (fun s x => s.loseTile k x) s
  let s := s.updCtx k (fun c => { c with
    cmds := [], issued := c.tl, fault := false, lock := none, stall := none, portA := [], portB := [], entry := none,
    flags := 0, mq := [], mqOwner := owner })
  let s := if ctxEng k = 7 then s.dropHeld k else s.orphanStreams k
  ((s.freeArray k).refuseWaits k).kickAll k

/-- clear: parks while a command is running. DESIGN CHOICE (log 58): a suspended matrix command, which BUSY counts, is not
running here, and is discarded as a parked one is (R219, R245). -/
def clearAt (s : State) (t k : Nat) : Res :=
  let c := s.ctx k
  if c.own ≠ (s.th t).rcb then .done (s.wst t wstREFUSED)
  else if c.running then .park (.ctxQuiet k)
  else .done ((s.discard k).wst t wstOK)

/-! ### Registers and commands (R220) -/

/-- ewr of a context register. -/
def ewrAt (s : State) (t k r : Nat) (v : Word) : Res :=
  let c := s.ctx k
  if c.own ≠ (s.th t).rcb then .done (s.wst t wstREFUSED)
  else .done ((s.setCtx k { c with regs := AMap.set c.regs r v }).wst t wstOK)

/-- erd of a context register; 0 and REFUSED for another region's registers from 8 up. -/
def erdAt (s : State) (t k r : Nat) (d : BitVec 7) : Res :=
  if 8 ≤ r && (s.ctx k).own ≠ (s.th t).rcb then .done ((s.writeDest t d 0).wst t wstREFUSED)
  else .done (s.writeDest t d (s.ctxReg k r))

/-- ROOTPT of a region's root, as read now (R220, R304). -/
def State.rootptOf (s : State) (root rcb : Word) : Word :=
  match rcbRoot s root treeDepth rcb with
  | some r => (rcbOwn s root r 8).getD root
  | none => root

/-- A command numbered, captured and queued (R220). -/
def State.enqueue (s : State) (t k opn : Nat) (a b : Word) (fmtAB fmtD scale : Nat) : State :=
  let th := s.th t
  let c := s.ctx k
  let x : Cmd := {
    n := c.issued + 1, opn := opn, a := a, b := b, regs := c.regs, fmtAB := fmtAB, fmtD := fmtD, scale := scale,
    rcb := th.rcb, root := s.rootptOf th.root th.rcb, super := regionMode s th.root th.rcb, uid := th.uid, thread := t,
    pc := th.pc }
  (s.setCtx k { c with issued := c.issued + 1, cmds := c.cmds ++ [x] }).push .engineCommandStart [k, c.issued + 1]

/-- A command offered to its context: refused, made to wait for room, or accepted (R220). -/
def acceptAt (s : State) (t k opn : Nat) (a b : Word) (geometry : Bool) (fmtAB : Nat := 3) (fmtD : Nat := 0)
    (scale : Nat := 0) : Res :=
  let c := s.ctx k
  if c.own ≠ (s.th t).rcb || c.fault || !geometry then .done (s.wst t wstREFUSED)
  else if 16 ≤ c.queued then .park (.cmdRoom k)
  else .done ((s.enqueue t k opn a b fmtAB fmtD scale).wst t wstOK)

/-! ### Accesses of commands (R205, R222, R304-R306, R349) -/

/-- Why an access cannot be made: a translation fault, another fault, or a home or egress queue that holds it up. -/
inductive EngErr where
  | page (va : Word)
  | fault (cause : Nat) (va : Word)
  | shut (loc : Nat)
  deriving DecidableEq, Repr

/-- The number that orders a command's access among those parked at a home (R228). -/
def Cmd.number (x : Cmd) (s : State) (l : Nat) : Nat :=
  match x.arrived with
  | some (k, l') => if sameArrival l' l then k else s.fresh
  | none => s.fresh

/-- The location of a command's access, if its home admits it now, and the home of its region's RCB for a window address;
`ok` says which locations the operation allows. -/
def engLoc (s : State) (k : Nat) (x : Cmd) (va : Word) (need : Right) (ok : Nat → Bool) : Except EngErr Nat :=
  match (if isWindow va then s.rcbShut x.root x.rcb (x.number s) else none) with
  | some a => .error (.shut (a.closedAt.getD (2 ^ 71)))
  | none => match resolve s (tlbOfCtx k) x.root x.rcb va need (!x.super) with
  | .error c => if c = cPAGE then .error (.page va) else .error (.fault c va)
  | .ok l =>
    if !ok l then .error (.fault cPROT va)
    else if s.outOfReach l || s.hostAborts l then .error (.fault cPOISON va)
    else if (s.shutFor (x.number s l) l (some k)).isSome then .error (.shut l)
    else if (match s.destOf l with | some d => s.egressBefore d 0 | none => false) then .error (.shut l)
    else .ok l

/-- Buffered leaves that deny a command's accesses leave their buffer (R306). -/
def State.engSweep (s : State) (k : Nat) (x : Cmd) (need : Right) (vas : List Word) : State :=
  vas.foldl (fun s va => s.dropDenied (tlbOfCtx k) x.root va need (!x.super)) s

/-- Bytes that a command reads, given by their names and addresses, all in one step; one whose read was performed before its
turn is taken as it was read then. With them how many come from HBM4E (R3, R202, R208). -/
def engRead (s : State) (k : Nat) (x : Cmd) (ok : Nat → Bool) : List (Nat × Word) → Except EngErr (List Byte × Nat)
  | [] => .ok ([], 0)
  | (name, va) :: rs =>
    if AMap.has x.got name then (engRead s k x ok rs).map (fun p => (AMap.get 0 x.got name :: p.1, p.2))
    else match engLoc s k x va .r ok with
      | .error e => .error e
      | .ok l =>
        if s.isPoison l 1 then .error (.fault cPOISON va)
        else (engRead s k x ok rs).map (fun p => (readByte s.mem l :: p.1, p.2 + if s.inHbm l then 1 else 0))

/-- The same performed: buffered denials leave their buffer, and what is read from HBM4E is charged (R306, R355). -/
def engTake (s : State) (k : Nat) (x : Cmd) (ok : Nat → Bool) (rs : List (Nat × Word)) : Except EngErr (State × List Byte) :=
  let s := s.engSweep k x .r ((rs.filter (fun r => !AMap.has x.got r.1)).map (·.2))
  (engRead s k x ok rs).map (fun p => (s.charge (ctxDie k) x.root x.rcb (p.2 * hbmEnergy), p.1))

/-- Bytes that a command reads ahead of their turn, in one step, if they can be read now (R208). -/
def readAhead (s : State) (k : Nat) (x : Cmd) (ok : Nat → Bool) (rs : List (Nat × Word)) : State :=
  let rs := rs.filter (fun r => !AMap.has x.got r.1)
  match engTake s k x ok rs with
  | .ok (s, bs) => s.setCmd k { x with got := (rs.zip bs).foldl (fun m p => AMap.set m p.1.1 p.2) x.got }
  | .error _ => s

/-- n bytes from an address on, named in a row. -/
def namedBytes (name : Nat) (va : Word) (n : Nat) : List (Nat × Word) :=
  (upTo n).map (fun q => (name + q, va + BitVec.ofNat 64 q))

/-- The word access that reads byte index p of a command which moves bytes from `src` to `dst`: the indices next to it that
lie with it in one word on both sides (R202, R211). -/
def readUnit (src dst : Nat → Word) (total p : Nat) : List (Nat × Word) :=
  let w : Word → Word := fun a => a &&& ~~~7
  let beside := fun (f : Nat → Word) (q : Nat) => f q + BitVec.ofNat 64 p = f p + BitVec.ofNat 64 q && w (f q) = w (f p)
  (upTo 15).filterMap (fun d =>
    let q := p + d - 7
    if 7 ≤ p + d && q < total && beside src q && beside dst q then some (q, src q) else none)

/-- Bytes written from an address on, all in one word (R178, R226). DESIGN CHOICE (log 58): a write of only part of a poisoned
word faults the context with POISON, as a read of it does (R222). -/
def engWrite (s : State) (k : Nat) (x : Cmd) (ok : Nat → Bool) (va : Word) (bs : List Byte) : Except EngErr State :=
  match engLoc s k x va .w ok with
  | .error e => .error e
  | .ok l =>
    if bs.length = 8 then .ok (s.putWord l (BitVec.ofNat 64 (natOfBytes bs)))
    else if s.isPoison l 1 then .error (.fault cPOISON va)
    else .ok (s.writeBytes l bs)

/-- What a command's next piece comes to. -/
inductive Piece where
  /-- Done, and more is to do. -/
  | more (s : State)
  /-- Done, and it was the last. -/
  | last (s : State)
  /-- Nothing to do until something else happens. -/
  | idle (s : State)
  /-- Nothing to do yet, to be looked at again. -/
  | wait
  | err (e : EngErr)
  deriving Repr

/-! ### The writes of a command (R208, R226, R237, R255, R283)

A command that moves bytes is given by its byte indices 0, 1, ... in loop order: `dst` gives the address each is written
at, and `hits` the indices written at an address. A destination word that the command writes whole is written in one
step; of another word each byte is a write of its own. The writes come in loop order unless the plan takes one out of its
turn. -/

/-- The byte indices that go to one address: progressions of first index, distance and number, lowest first. -/
abbrev Hits := List (Nat × Nat × Nat)

def Hits.count (h : Hits) : Nat := h.foldl (fun n p => n + p.2.2) 0
/-- The m-th of the indices. -/
def Hits.nth : Hits → Nat → Nat
  | [], _ => 0
  | (i, d, n) :: h, m => if m < n then i + m * d else Hits.nth h (m - n)
/-- One index alone, if it is one of the command's. -/
def Hits.one (i total : Nat) : Hits := if i < total then [(i, 0, 1)] else []

/-- The write that covers a byte index: where it begins, and for each byte the indices that go there. -/
structure WriteAt where
  va : Word
  hits : List Hits
  deriving DecidableEq, Repr

def writeAt (dst : Nat → Word) (hits : Word → Hits) (p : Nat) : WriteAt :=
  let w := dst p &&& ~~~7
  let hs := (upTo 8).map (fun b => hits (w + BitVec.ofNat 64 b))
  if hs.all (fun h => 0 < h.count) then { va := w, hits := hs } else { va := dst p, hits := [hits (dst p)] }

/-- The lowest index of a write, the indices that it performs, and whether several go to one byte. -/
def WriteAt.first (w : WriteAt) : Nat := w.hits.foldl (fun m h => min m (h.nth 0)) ((w.hits.headD []).nth 0)
/-- The bytes of each of the writes that the command's loops make there: of the first, of the second to the same byte, ...
(R235). -/
def WriteAt.counts (w : WriteAt) : List Nat :=
  (upTo (w.hits.foldl (fun m h => max m h.count) 0)).map (fun m => (w.hits.filter (fun h => m < h.count)).length)
def WriteAt.several (w : WriteAt) : Bool := w.hits.any (fun h => 1 < h.count)
/-- The index whose value each byte receives: of several, the one that a number chooses (R226). -/
def WriteAt.picks (w : WriteAt) (m : Nat) : List Nat := w.hits.map (fun h => h.nth (m % h.count))
/-- The name of a write among those performed before their turn. -/
def WriteAt.key (w : WriteAt) : Nat × Nat := (w.va.toNat, w.hits.length)

/-- How many bytes from index p on go to rising addresses of one word. -/
def pieceLen (dst : Nat → Word) (p total : Nat) : Nat → Nat
  | 0 => 0
  | n + 1 =>
    let q := pieceLen dst p total n
    if q = n && p + n < total && dst (p + n) = dst p + BitVec.ofNat 64 n && (n = 0 || (dst (p + n)).toNat % 8 ≠ 0)
    then n + 1 else q

/-- Whether a write of a command has been performed. -/
def Cmd.wrote (x : Cmd) (w : WriteAt) : Bool := w.first < x.progress || x.early.contains w.key

/-- The command after the write that covers index p, in its turn or before it. -/
def Cmd.after (x : Cmd) (dst : Nat → Word) (total p : Nat) (w : WriteAt) : Cmd :=
  if p = x.progress then { x with progress := x.progress + if w.hits.length = 8 then pieceLen dst p total 8 else 1 }
  else { x with early := w.key :: x.early }

/-- The write that covers byte index p: the new state and the bytes of each write of it. `rd` reads the bytes of some indices
and `wr` writes bytes from an address on. -/
def writePiece (s : State) (k : Nat) (x : Cmd) (dst : Nat → Word) (hits : Word → Hits) (total p : Nat)
    (rd : State → List Nat → Except EngErr (State × List Byte)) (wr : State → Word → List Byte → Except EngErr State) :
    Except EngErr (State × List Nat) :=
  let w := writeAt dst hits p
  if total ≤ p then .ok (s, [])
  else if x.wrote w then .ok (if p = x.progress then s.setCmd k (x.after dst total p w) else s, [])
  else
    let (m, s) := if w.several then (let (n, s) := s.drawFree
      ((Config.freeWord n).toNat, s)) else (0, s)
    match rd s (w.picks m) with
    | .error e => .error e
    | .ok (s, bs) => match wr s w.va bs with
      | .error e => .error e
      | .ok s' => .ok (s'.setCmd k (x.after dst total p w), w.counts)

/-- The same for bytes read from memory at `src` and written to memory. -/
def copyPiece (s : State) (k : Nat) (x : Cmd) (src dst : Nat → Word) (hits : Word → Hits) (total p : Nat)
    (okR okW : Nat → Bool) : Except EngErr (State × List Nat) :=
  writePiece s k x dst hits total p
    (fun s is => engTake s k x okR (is.map (fun q => (q, src q))))
    (fun s va bs => engWrite (s.engSweep k x .w [va]) k x okW va bs)

/-- A piece that has moved bytes: whether the command is over. -/
def pieceOf (x : Cmd) (k total : Nat) (s' : State) : Piece :=
  match (s'.ctx k).cmd x.n with
  | some y => if total ≤ y.progress then .last s' else .more s'
  | none => .last s'

end Sys2Proof.Machine
end

