-- ==== Sys2Proof/Machine/Tasks.lean ====
section
/-!
DEFINITION. The `tq`, `jc` and `wait` majors (R153-R158).
-/

namespace Sys2Proof.Machine

/-! ### Memory of queue operations -/

/-- Doublewords from a location. -/
def State.wordsAt (s : State) (l n : Nat) : List Word := (upTo n).map (fun k => s.read64 (l + 8 * k))

/-- The locations of n doublewords. -/
def spanOf (l n : Nat) : List Nat := (upTo n).map (fun k => l + 8 * k)

/-- Runs a queue operation once neither the memory it reads or writes nor the queue's home holds it up. -/
def atHomes (s : State) (t : Nat) (words : List Nat) (q : Nat) (k : State → Res) : Res :=
  match s.heldUp t words with
  | some a => .park a
  | none => match s.queueShut (s.arrivalOf t (queuePort q)) q with
    | some a => .park a
    | none => k s

/-- A handle that is malformed, or whose device cannot be reached, traps QUEUE (R156, R349). -/
def State.badHandle (s : State) (h : Word) : Bool := s.handleBad h || !s.reachable (bits h 63 57)

/-! ### `tq` (R153-R156) -/

/-- The checks of a push after its descriptor has been read (R156 orders 3 and 4), with a buffer and a root: a trap, or
none. -/
def pushCheckAt (s : State) (buf : Nat) (root h : Word) (r : TaskRec) : Option Res :=
  let q := Res.trap cQUEUE 0 0 0
  let later (home : Option Nat) : Option Res :=
    if s.badHandle h || r.near = 0 || r.nregs = 0 || 14 < r.nregs || (r.far ≠ 0 && (r.fregs = 0 || 14 < r.fregs)) ||
      home ≠ some (homeOfQueue (queueOfHandle h)) then some q else none
  if isWindow r.abase then some q
  else if !isCanonical r.abase then some (.trap cPAGE 1 r.abase 0)
  else match leafOf s buf root r.abase with
    | none => some (.trap cPAGE 1 r.abase 0)
    | some (leaf, lvl) =>
      let l := locOfLeaf r.abase leaf lvl
      later (if isDram l then some (homeOf l) else none)

/-- The same for a thread's push. -/
def pushCheck (s : State) (t : Nat) (h : Word) (r : TaskRec) : Option Res :=
  pushCheckAt s (tlbOfUnit (unitOfThread t)) (s.th t).root h r

/-- Whether the page of a task's anchor is in transit; the anchor needs no right (R154, R156, R347). -/
def State.anchorShut (s : State) (t : Nat) (abase : Word) : Option Await :=
  match (if isCanonical abase then leafOf s (tlbOfUnit (unitOfThread t)) (s.th t).root abase else none) with
  | some (leaf, lvl) =>
    let l := locOfLeaf abase leaf lvl
    if s.inTransit l none then some (.transit l) else none
  | none => none

/-- Runs a queue operation on the n doublewords at a location once they have been read: in this step, or as messages of
their own, whose answers then stand behind the operands (R154, R155, R171, R207). -/
def withWords (s : State) (t : Nat) (i : Instr) (va : Word) (l n : Nat) (k : List Word → Res) : Res :=
  let m := (srcRegs i).length
  if m < (s.sentArgs t i).length then k ((s.sentArgs t i).drop m)
  else match s.heldUp t (spanOf l n), s.split || s.partlyHeld t (spanOf l n) with
    | none, false => k (s.wordsAt l n)
    | _, true =>
      let r : Req := { thread := t, uid := (s.th t).uid, va := va, root := (s.th t).root, op := .words,
                       parts := spanOf l n, levels := s.levelsOf t va n }
      .sent ((s.sendParts t i r none).sendArgs t i ((upTo m).map (srcVal s t i)))
    | some a, false => .park a

/-- tq.push: the descriptor is read and the task pushed (R154). A push whose anchor's page is in transit parks (R347). -/
def execTqPush (d a b : BitVec 7) (s : State) : Host.Outcome State Fault Refusal :=
  let i : Instr := .tqPush d a b
  runWord i s (fun s t =>
    let h := srcVal s t i 1
    match addrOf s t (srcVal s t i 0) 64 .r false with
    | .error r => r
    | .ok l => withWords s t i (srcVal s t i 0) l 8 (fun ws =>
      let r := TaskRec.ofWords 0 0 ws
      match pushCheck s t h r with
      | some r => r
      | none => match s.anchorShut t r.abase with
        | some a => .park a
        | none => atHomes s t [] (queueOfHandle h) (fun s =>
          match s.pushTask (queueOfHandle h) ws with
          | some (n, s') => .done ((s'.writeDest t d (BitVec.ofNat 64 n)).wst t wstOK)
          | none => .done ((s.writeDest t d 0).wst t wstREFUSED))))

/-- A task taken or stolen by a thread: its descriptor goes to the buffer, in this step or as messages of their own, and the
thread completes and holds the task. Behind a closed home the stores wait there, the task taken all the same (R154,
R367). -/
def fetchTask (s : State) (t : Nat) (i : Instr) (d : BitVec 7) (w : BitVec 3) (h va : Word) (l : Nat) (r : TaskRec) : Res :=
  let op : MemOp := .taken r.desc h r.seq d w
  let parts := spanOf l 8
  if (s.heldUp t parts).isNone && !s.split then
    let (s, as) := s.performParts op 0 parts
    finishOp s t va op as
  else
    let q : Req := { thread := t, uid := (s.th t).uid, va := va, root := (s.th t).root, op := op, parts := parts,
                     levels := s.levelsOf t va 8 }
    let (k, s) := s.sendReq t i q none false
    .sent ((upTo 8).foldl (fun s p => s.push .homeRequest [k, p]) s)

/-- tq.take and tq.steal: their checks, and the operation at the home (R153, R154, R156). -/
def takeOp (i : Instr) (d : BitVec 7) (op : State → Nat → BitVec 3 × Option TaskRec × State) (s : State) :
    Host.Outcome State Fault Refusal :=
  runWord i s (fun s t =>
    let h := srcVal s t i 0
    let va := srcVal s t i 1
    match addrOf s t va 64 .w false with
    | .error r => r
    | .ok l =>
      if s.badHandle h || (s.th t).seq ≠ 0 then .trap cQUEUE 0 0 0
      else
        let q := queueOfHandle h
        atHomes s t [] q (fun s =>
          let (w, got, s') := op s q
          match got with
          | some r => fetchTask s' t i d w h va l r
          | none => .done ((s.writeDest t d 0).wst t w)))

/-- tq.take (R154). -/
def execTqTake (d a b : BitVec 7) (s : State) : Host.Outcome State Fault Refusal :=
  takeOp (.tqTake d a b) d (fun s q => s.takeTask q) s

/-- tq.steal: a steal that is not NMX-only (R154). -/
def execTqSteal (d a b : BitVec 7) (s : State) : Host.Outcome State Fault Refusal :=
  takeOp (.tqSteal d a b) d (fun s q => s.stealTask q false) s

/-- The doubleword behind a join word, where a thread can read it (R151). -/
def nextDword (s : State) (t : Nat) (va : Word) : Option Nat :=
  match threadResolve s t (va + 8) .r with
  | .ok l => some l
  | .error _ => none

/-- The join decrement of a retiring task; a failure is reported with the join address and changes nothing (R154,
R297). -/
def State.doneJoin (s : State) (t : Nat) (join : Word) (l : Nat) : State :=
  let th := s.th t
  let report := fun (c info : Nat) => s.postFault th.root th.rcb (s.makeRec t c info join 0 (encode .tqDone) false)
  if s.outOfReach l then report cQUEUE 0
  else if s.isPoison l 8 then report cPOISON (accessInfo .rw)
  else match s.joinDec th.root l (nextDword s t join) with
    | some (_, s') => s'
    | none => report cQUEUE 0

/-- The end of a task's thread, and of its twin (R118, R327). -/
def State.endThread (s : State) (t : Nat) : State :=
  match (s.th t).twin with
  | some (o, _) => { ((s.freeSlot t).freeSlot o) with pairs := AMap.del s.pairs t }
  | none => s.freeSlot t

/-- tq.done: drain, decrement the join word, retire the task, free the slot (R154). Once the join word has been decremented
only the retire is left. -/
def execTqDone (s : State) : Host.Outcome State Fault Refusal :=
  let i : Instr := .tqDone
  runWord i s (fun s t =>
    let th := s.th t
    let q := queueOfHandle th.task
    if th.seq = 0 then .trap cQUEUE 0 0 0
    else
      let join := match s.runningTask q th.seq.toNat with | some r => r.join | none => 0
      let retire : State → Res := fun s => match s.queueShut (s.arrivalOf t (queuePort q)) q with
        | some a => .sent ((s.parkOn t i a).sendArgs t i [1])
        | none => .sent ((s.retireTask q th.seq.toNat).endThread t)
      let finish (l : Option Nat) : Res :=
        if !s.reachable (queueDev q) then .trap cQUEUE 0 0 0
        else if !s.drainOver t 2 true then .park (.drain 2 true)
        else match l with
          | none => retire s
          | some l => match s.heldUp t [l] with
            | some a => .park a
            | none => retire (s.doneJoin t join l)
      if !(s.sentArgs t i).isEmpty then retire s else
      if join = 0 then finish none
      else match addrOf s t join 8 .rw false with
        | .error r => r
        | .ok l => if isHost l then .trap cQUEUE 0 0 0 else finish (some l))

/-- tq.depth (R154). -/
def execTqDepth (d a : BitVec 7) (s : State) : Host.Outcome State Fault Refusal :=
  let i : Instr := .tqDepth d a
  runWord i s (fun s t =>
    let h := srcVal s t i 0
    if s.badHandle h then .trap cQUEUE 0 0 0
    else atHomes s t [] (queueOfHandle h) (fun s =>
      let q := s.queue (queueOfHandle h)
      if q.configured then .done ((s.writeDest t d (BitVec.ofNat 64 q.depth)).wst t wstOK)
      else .done ((s.writeDest t d 0).wst t wstREFUSED)))

/-- Whether an address under a root is in device DRAM (R155). -/
def inDram (s : State) (root va : Word) : Bool :=
  isCanonical va && match walk s root va with
    | some (leaf, lvl) => isDram (locOfLeaf va leaf lvl)
    | none => false

/-- The configuration a QCB gives a queue, unless it is refused (R143, R155). DESIGN CHOICE (log 61): an idle queue's outstanding
depth alerts are forgotten with its counter, credits and subscriptions. -/
def configured (s : State) (t : Nat) (h : Word) (ws : List Word) : Option Queue :=
  let th := s.th t
  let x := s.queue (queueOfHandle h)
  let w2 := ws.getD 2 0
  let w3 := ws.getD 3 0
  let rcb := ws.getD 0 0
  let ring := ws.getD 1 0
  let rsize := bits w2 3 0
  let mode := w2.getLsbD 18
  if bits w2 63 23 ≠ 0 || w2.getLsbD 19 || bits w2 7 4 ≠ 0 || bits w3 63 32 = 0 || 10 < rsize || bits ring 5 0 ≠ 0 ||
      !inDram s th.root ring || !rcbOk s th.root rcb || !(th.st.mode || rcbUnder s th.root th.rcb treeDepth rcb) ||
      h = 0 || (x.occupancy ≠ 0 && (x.rcb ≠ rcb || x.ring ≠ ring || x.rsize ≠ rsize || x.free ≠ mode)) then none
  else
    let x := { x with pri := bits w2 22 20, th := bits w2 17 8, weight := bits w3 63 32, age := bits w3 31 0 }
    some (if x.occupancy ≠ 0 then x
      else { x with configured := true, rcb := rcb, ring := ring, root := th.root, free := mode, rsize := rsize,
                    next := 1, credit := 0, subs := [], alerts := [] })

/-- tq.cfg (R155); it waits where a home holds up its reads of the block's RCB (R228). -/
def execTqCfg (a b : BitVec 7) (s : State) : Host.Outcome State Fault Refusal :=
  let i : Instr := .tqCfg a b
  runWord i s (fun s t =>
    let h := srcVal s t i 0
    match addrOf s t (srcVal s t i 1) 32 .r false with
    | .error r => r
    | .ok l =>
      if s.badHandle h then .trap cQUEUE 0 0 0
      else withWords s t i (srcVal s t i 1) l 4 (fun ws => atHomes s t [] (queueOfHandle h) (fun s =>
        match s.rcbShut (s.th t).root (ws.getD 0 0) (s.arrivalOf t), configured s t h ws with
        | some a, _ => .park a
        | none, some x => .done (((s.setQueue (queueOfHandle h) x).stir (queueOfHandle h)).wst t wstOK)
        | none, none => .done (s.wst t wstREFUSED))))

/-- tq.sub: a cluster word adds or removes a cluster (R150, R154); it waits where a home holds up its reads of the queue's RCB
(R228). -/
def execTqSub (a b : BitVec 7) (s : State) : Host.Outcome State Fault Refusal :=
  let i : Instr := .tqSub a b
  runWord i s (fun s t =>
    let h := srcVal s t i 0
    let w := srcVal s t i 1
    let q := queueOfHandle h
    if s.badHandle h then .trap cQUEUE 0 0 0
    else atHomes s t [] q (fun s =>
      let x := s.queue q
      let die := bits w 10 7
      let cl := bits w 6 0
      let c := die * 128 + cl
      let inBudget := match effBudget s x.root treeDepth x.rcb with | some b => b.hasCluster die cl | none => false
      match (if x.configured then s.rcbShut x.root x.rcb (s.arrivalOf t) else none) with
      | some a => .park a
      | none =>
      if !x.configured || bits w 63 12 ≠ 0 || !inBudget ||
          (w.getLsbD 11 && 8 ≤ x.subs.length && !x.subs.contains c) then .done (s.wst t wstREFUSED)
      else .done ((s.setQueue q { x with subs := if w.getLsbD 11 then setInsert x.subs c else setErase x.subs c }).wst t
        wstOK)))

/-! ### `jc` (R151, R157) -/

/-- The location of a join word: ALIGN, R63 orders 2 to 5, QUEUE for host memory or an unreachable device (R157,
R349). -/
def joinAddr (s : State) (t : Nat) (va : Word) (need : Right) : Except Res Nat :=
  match addrOf s t va 8 need false with
  | .error r => .error r
  | .ok l => if isHost l || s.outOfReach l then .error (.trap cQUEUE 0 0 0) else .ok l

/-- jc.init (R157). -/
def execJcInit (a b : BitVec 7) (s : State) : Host.Outcome State Fault Refusal :=
  let i : Instr := .jcInit a b
  runWord i s (fun s t =>
    match joinAddr s t (srcVal s t i 0) .w with
    | .error r => r
    | .ok l => match s.heldUp t [l] with
      | some a => .park a
      | none => .done ((s.putWord l (srcVal s t i 1)).wst t wstOK))

/-- jc.add (R157): COUNT rises unless it would reach 2^63; it never notifies. DESIGN CHOICE (log 52): a poisoned word counts
as its stored bits stand. -/
def execJcAdd (d a b : BitVec 7) (s : State) : Host.Outcome State Fault Refusal :=
  let i : Instr := .jcAdd d a b
  runWord i s (fun s t =>
    match joinAddr s t (srcVal s t i 0) .rw with
    | .error r => r
    | .ok l => match s.heldUp t [l] with
      | some a => .park a
      | none =>
        let w := s.read64 l
        let v := srcVal s t i 1
        if 2 ^ 63 ≤ joinCount w + v.toNat then .done ((s.writeDest t d w).wst t wstREFUSED)
        else .done (((s.write64 l (w + v)).writeDest t d w).wst t wstOK))

/-- jc.dec (R157): a release; COUNT falls, and reaching 0 with N set notifies (R151). DESIGN CHOICE (log 52): a poisoned word
counts as its stored bits stand. -/
def execJcDec (d a : BitVec 7) (s : State) : Host.Outcome State Fault Refusal :=
  let i : Instr := .jcDec d a
  runWord i s (fun s t =>
    match joinAddr s t (srcVal s t i 0) .rw with
    | .error r => r
    | .ok l => drainThen s t (fun s => match s.heldUp t [l] with
      | some a => .park a
      | none => match s.joinDec (s.th t).root l (nextDword s t (srcVal s t i 0)) with
        | some (w, s') => .done ((s'.writeDest t d w).wst t wstOK)
        | none => .done ((s.writeDest t d (s.read64 l)).wst t wstREFUSED)))

/-! ### `wait` (R158) -/

/-- A `wait` that completes at once with WST OK, or parks for an event with its timeout (R158). -/
def waitFor (s : State) (t : Nat) (i : Instr) (ready : Bool) (a : Await) (te : BitVec 5) : Res :=
  if ready then .done (s.wst t wstOK) else .sent (s.parkOn t i a (timeoutOf te))

/-- wait.jz: until COUNT of the join word is 0 (R158). DESIGN CHOICE (log 52): a poisoned word counts as its stored bits
stand. -/
def execWaitJz (a : BitVec 7) (te : BitVec 5) (s : State) : Host.Outcome State Fault Refusal :=
  let i : Instr := .waitJz a te
  runWord i s (fun s t =>
    match joinAddr s t (srcVal s t i 0) .r with
    | .error r => r
    | .ok l => match s.heldUp t [l] with
      | some a => .sent (s.parkOn t i a (timeoutOf te))
      | none => waitFor s t i (joinCount (s.read64 l) = 0) (.joinZero l) te)

/-- The lowest full mailbox of a mask. -/
def State.fullMailbox (s : State) (u mask : Nat) : Option Nat :=
  (upTo 4).find? (fun k => mask.testBit k && (AMap.get none (s.core u).mbox k).isSome)

/-- wait.mbox: until a mailbox of the mask is full; s[d] gets its index (R158). -/
def execWaitMbox (d a : BitVec 7) (te : BitVec 5) (s : State) : Host.Outcome State Fault Refusal :=
  let i : Instr := .waitMbox d a te
  runWord i s (fun s t =>
    let mask := bits (srcVal s t i 0) 3 0
    if mask = 0 || isSkerry (unitOfThread t) then .done (s.wst t wstREFUSED)
    else match s.fullMailbox (unitOfThread t) mask with
      | some k => .done ((s.writeDest t d (BitVec.ofNat 64 k)).wst t wstOK)
      | none => .sent (s.parkOn t i (.anyMbox mask) (timeoutOf te)))

/-- wait.sleep: until TIME reaches s[d] (R158). -/
def execWaitSleep (d : BitVec 7) (te : BitVec 5) (s : State) : Host.Outcome State Fault Refusal :=
  let i : Instr := .waitSleep d te
  runWord i s (fun s t =>
    let v := srcVal s t i 0
    waitFor s t i (v.toNat ≤ (s.time (dieOf (unitOfThread t))).toNat) (.sleep v.toNat) te)

/-- wait.gate: until the gate token of the current task has arrived (R158). -/
def execWaitGate (te : BitVec 5) (s : State) : Host.Outcome State Fault Refusal :=
  runWord (.waitGate te) s (fun s t =>
    if (s.th t).seq = 0 then .trap cQUEUE 0 0 0 else waitFor s t (.waitGate te) (!s.gateDue t) .gateToken te)

end Sys2Proof.Machine
end

