-- ==== Sys2Proof/Machine/Copy.lean ====
section
/-!
DEFINITION. The copy engine, streams, buoy words and the gather/scatter engine (R224-R237), claim, release, clear,
`ewr` and `erd` of every engine (R215-R220), and the sending of matrix requests (R240, R241).
-/

namespace Sys2Proof.Machine

/-! ### Matrix requests (R240, R241) -/

/-- The capability rights a request may need, as bits of CAP.RIGHTS (R241, R328). -/
def rightCMD : Nat := 0
def rightCTL : Nat := 1
def rightCONF : Nat := 2
def rightTBL : Nat := 3

/-- Whether a request is local (R241). -/
def State.localUnit (s : State) (t die cluster : Nat) : Bool :=
  let u := unitOfThread t
  let th := s.th t
  die = dieOf u && cluster = clusterOf u &&
  match effBudget s th.root treeDepth th.rcb with | some b => b.hasCluster die cluster | none => false

/-- Whether CAP passes for a right (R241). DESIGN CHOICE (log 59): its must-be-zero bits 39:36 (R242) are not looked at. -/
def State.capPasses (s : State) (t c right die cluster : Nat) : Bool :=
  let cap := AMap.get 0 (s.core (unitOfThread t)).cap c
  let rcb := (s.th t).rcb
  bits cap 47 40 = 4 && (bits cap 35 32).testBit right && bits cap 63 48 = bits rcb 21 6 &&
  bits cap 31 0 = s.capTag rcb (bits cap 35 32) die cluster

/-- Why a matrix request traps before the unit acts, in the order of R240. -/
def State.matrixCause (s : State) (t c : Nat) (right : Option Nat) : Option Res :=
  let w := AMap.get 0 (s.core (unitOfThread t)).target c
  let die := bits w 10 7
  let cl := bits w 6 0
  let info := bits w 10 0
  if bits w 63 11 ≠ 0 || 7 < die || 97 < cl then some (.trap cCAPFAIL info 0 0)
  else if (s.cluster (die * 128 + cl)).failed then some (.trap cMXDOWN info 0 0)
  else match right with
    | none => none
    | some r => if s.localUnit t die cl || s.capPasses t c r die cl then none else some (.trap cCAPFAIL info 0 0)

/-- A request sent to a matrix unit with its operands: the thread parks until the unit's reply (R240). -/
def matrixSend (s : State) (t : Nat) (i : Instr) (c : Nat) (right : Option Nat) : Res :=
  match s.matrixCause t c right with
  | some r => r
  | none => .sent (((s.parkOn t i (.matrix (s.ctxOf t 4 c))).sendArgs t i
      ((upTo (srcRegs i).length).map (srcVal s t i))).push .matrixRequestReply [t])

/-! ### Claim, release, clear, ewr, erd (R215-R220) -/

/-- eng.e.claim (R219). -/
def execEngClaim (e : BitVec 4) (c : BitVec 3) (s : State) : Host.Outcome State Fault Refusal :=
  let i : Instr := .engClaim e c
  runWord i s (fun s t =>
    if e = 4 then matrixSend s t i c.toNat (some rightCTL) else claimAt s t (s.ctxOf t e.toNat c.toNat))

/-- eng.e.release (R219). -/
def execEngRelease (e : BitVec 4) (c : BitVec 3) (s : State) : Host.Outcome State Fault Refusal :=
  let i : Instr := .engRelease e c
  runWord i s (fun s t =>
    if e = 4 then matrixSend s t i c.toNat (some rightCTL) else releaseAt s t (s.ctxOf t e.toNat c.toNat))

/-- eng.e.clear (R219). -/
def execEngClear (e : BitVec 4) (c : BitVec 3) (s : State) : Host.Outcome State Fault Refusal :=
  let i : Instr := .engClear e c
  runWord i s (fun s t =>
    if e = 4 then matrixSend s t i c.toNat (some rightCTL) else clearAt s t (s.ctxOf t e.toNat c.toNat))

/-- SSTAT (R230). -/
def Stream.stat (x : Stream) : Word :=
  if !x.bound then 0
  else BitVec.ofNat 64 (min x.left (2 ^ 32 - 1) * 2 ^ 32 + x.fill * 2 ^ 13 + (if x.port then 2 ^ 12 else 0)
    + (if !x.write && x.left = 0 then 2 ^ 11 else 0) + (if x.write then 2 ^ 10 else 0) + 2 ^ 9 + x.size)

/-- A register of a stream context. -/
def Stream.reg (x : Stream) (r : Nat) : Word :=
  match r with
  | 0 => x.stat | 8 => x.scnt | 9 => x.sstr0 | 10 => x.sstr12 | _ => x.sfmt

/-- A register of a stream context written. -/
def Stream.setReg (x : Stream) (r : Nat) (v : Word) : Stream :=
  match r with
  | 8 => { x with scnt := v } | 9 => { x with sstr0 := v } | 10 => { x with sstr12 := v } | _ => { x with sfmt := v }

/-- An issuer register, TARGET or CAP, written (R240). -/
def State.setIssuer (s : State) (t c r : Nat) (v : Word) : State :=
  s.updCore (unitOfThread t) (fun x =>
    if r = 6 then { x with target := AMap.set x.target c v } else { x with cap := AMap.set x.cap c v })

/-- An issuer register read. -/
def State.issuer (s : State) (t c r : Nat) : Word :=
  let x := s.core (unitOfThread t)
  if r = 6 then AMap.get 0 x.target c else AMap.get 0 x.cap c

/-- ewr: a stream register, a matrix issuer register, or a register of a command context (R215, R220, R230, R240). -/
def execEwr (e : BitVec 4) (c : BitVec 3) (r : BitVec 5) (a : BitVec 7) (s : State) :
    Host.Outcome State Fault Refusal :=
  let i : Instr := .ewr e c r a
  runWord i s (fun s t =>
    let v := srcVal s t i 0
    if e = 1 then .done ((s.updStream (streamKey t c.toNat) (fun x => x.setReg r.toNat v)).wst t wstOK)
    else if e = 4 then
      if r.toNat = 6 || r.toNat = 7 then .done ((s.setIssuer t c.toNat r.toNat v).wst t wstOK)
      else matrixSend s t i c.toNat (some rightCONF)
    else ewrAt s t (s.ctxOf t e.toNat c.toNat) r.toNat v)

/-- erd (R215, R220, R230, R240). -/
def execErd (e : BitVec 4) (c : BitVec 3) (r : BitVec 5) (a : BitVec 7) (s : State) :
    Host.Outcome State Fault Refusal :=
  let i : Instr := .erd e c r a
  runWord i s (fun s t =>
    if e = 1 then .done (s.writeDest t a ((s.stream (streamKey t c.toNat)).reg r.toNat))
    else if e = 4 then
      if r.toNat = 6 || r.toNat = 7 then .done ((s.writeDest t a (s.issuer t c.toNat r.toNat)).wst t wstOK)
      else matrixSend s t i c.toNat (if 8 ≤ r.toNat then some rightCONF else none)
    else erdAt s t (s.ctxOf t e.toNat c.toNat) r.toNat a)

/-! ### Copy commands (R224-R228) -/

/-- A signed 32-bit half of a register: low or high. -/
def lowHalf (w : Word) : Word := (w.truncate 32 : BitVec 32).signExtend 64
def highHalf (w : Word) : Word := (w.extractLsb' 32 32).signExtend 64

/-- The counts of CNT (R224). -/
def cnt0 (w : Word) : Nat := bits w 23 0
def cnt1 (w : Word) : Nat := bits w 47 32 + 1
def cnt2 (w : Word) : Nat := bits w 63 48 + 1

/-- A register captured with a command. -/
def Cmd.reg (x : Cmd) (r : Nat) : Word := AMap.get 0 x.regs r
/-- A register of a context. -/
def State.ctxRaw (s : State) (k r : Nat) : Word := AMap.get 0 (s.ctx k).regs r

/-- The address of byte index p of a geometry (R226). -/
def stridedAddr (base cnt str : Word) (p : Nat) : Word :=
  base + BitVec.ofNat 64 (p / cnt0 cnt % cnt1 cnt) * lowHalf str
    + BitVec.ofNat 64 (p / (cnt0 cnt * cnt1 cnt)) * highHalf str + BitVec.ofNat 64 (p % cnt0 cnt)

/-- The rows i of 0, ..., c1 - 1 for which o - i * d is an offset in a row of c0 bytes: the first, and how many. -/
def rowHits (o d : Int) (c0 c1 : Nat) : Nat × Nat :=
  if d = 0 then (if 0 ≤ o && o < c0 then (0, c1) else (0, 0))
  else
    let lo : Int := max 0 (if 0 < d then -((c0 - 1 - o) / d) else -(o / -d))
    let hi : Int := min (c1 - 1) (if 0 < d then o / d else (c0 - 1 - o) / -d)
    if hi < lo then (0, 0) else (lo.toNat, (hi - lo + 1).toNat)

/-- The byte indices that a geometry of c2 planes of c1 rows of c0 bytes puts at an address. -/
def rowsAt (base : Word) (c0 c1 c2 : Nat) (d1 d2 : Int) (a : Word) : Hits :=
  (upTo c2).filterMap (fun (i2 : Nat) =>
    let o := (a - base).toInt - (i2 : Int) * d2
    let (lo, n) := rowHits o d1 c0 c1
    if n = 0 then none else some ((i2 * c1 + lo) * c0 + (o - (lo : Int) * d1).toNat, ((c0 : Int) - d1).toNat, n))

/-- The inverse of `stridedAddr`. -/
def stridedHits (base cnt str : Word) : Word → Hits :=
  rowsAt base (cnt0 cnt) (cnt1 cnt) (cnt2 cnt) (lowHalf str).toInt (highHalf str).toInt

/-- The bytes of a geometry. -/
def totalBytes (cnt : Word) : Nat := cnt0 cnt * cnt1 cnt * cnt2 cnt

/-- The buoy address of a BUOY register. -/
def buoyAddr (w : Word) : Word := w &&& ~~~15

/-- Whether an enabled BUOY names a buoy of the region: its zero bits, a window address, the budget (R224). -/
def buoyNamed (s : State) (t : Nat) (w : Word) : Bool :=
  let th := s.th t
  bits w 3 1 = 0 && isWindow (buoyAddr w) && windowOk s th.root th.rcb (buoyAddr w)

/-- BUOY's check for xfer and dist (R224). DESIGN CHOICE (log 58): bits [3:1] must be zero whether EN is set or not; the
check of a stream binding looks at BUOY only where EN is set (R231). -/
def buoyOk (s : State) (t : Nat) (w : Word) : Bool := bits w 3 1 = 0 && (!w.getLsbD 0 || buoyNamed s t w)

/-- The check of the counts (R224). -/
def cntOk (w : Word) : Bool := bits w 31 24 = 0 && cnt0 w ≠ 0

/-- Fields of PAT (R224). -/
def patWrap (w : Word) : Nat := bits w 55 48
def patStride (w : Word) : Nat := bits w 38 32
def patFirst (w : Word) : Nat := bits w 22 16
def patBlk (w : Word) : Nat := bits w 11 0 * 8

/-- The geometry check of `dist` (R224, R227). -/
def distOk (cnt pat b : Word) : Bool :=
  let blk := patBlk pat
  let n := (totalBytes cnt + blk - 1) / blk
  let row := (n - 1) / patWrap pat
  let last := if row * patWrap pat < n - 1 then blk else totalBytes cnt - (n - 1) * blk
  bits pat 63 56 = 0 && bits pat 47 39 = 0 && bits pat 31 23 = 0 && bits pat 15 12 = 0 &&
  1 ≤ patWrap pat && patWrap pat ≤ 128 && 1 ≤ patStride pat && 8 ≤ blk && blk ≤ 24576 &&
  b.toNat % 8 = 0 && b.toNat ≤ 0x5FFF && b.toNat + row * blk + last ≤ 0x6000

/-- The window address of a byte of a core's store. -/
def windowAddr (die cluster core off : Nat) : Word :=
  BitVec.ofNat 64 (0xFE * 2 ^ 56 + die * 2 ^ 29 + cluster * 2 ^ 22 + core * 2 ^ 15 + off)

/-- Where `dist` puts byte index p (R227). -/
def distAddr (k : Nat) (pat b : Word) (p : Nat) : Word :=
  let i := p / patBlk pat
  windowAddr (ctxDie k) (ctxCluster k) ((patFirst pat + i % patWrap pat * patStride pat) % 128)
    (b.toNat + i / patWrap pat * patBlk pat + p % patBlk pat)

/-- The inverse of `distAddr` on the stores of the cluster. -/
def distHits (pat b : Word) (total : Nat) (a : Word) : Hits :=
  let off := bits a 14 0 - b.toNat
  if bits a 14 0 < b.toNat then []
  else (upTo (patWrap pat)).flatMap (fun w =>
    if (patFirst pat + w * patStride pat) % 128 = bits a 21 15 then
      Hits.one ((off / patBlk pat * patWrap pat + w) * patBlk pat + off % patBlk pat) total
    else [])

/-- A copy command offered to its context. -/
def copyCmd (i : Instr) (c : BitVec 3) (opn : Nat) (geometry : State → Nat → Nat → Word → Word → Bool) (s : State) :
    Host.Outcome State Fault Refusal :=
  runWord i s (fun s t =>
    let k := s.ctxOf t 0 c.toNat
    let a := srcVal s t i 0
    let b := srcVal s t i 1
    acceptAt s t k opn a b (geometry s t k a b))

/-- eng.copy.xfer (R226). -/
def execCopyXfer (c : BitVec 3) (a b : BitVec 7) (s : State) : Host.Outcome State Fault Refusal :=
  copyCmd (.copyXfer c a b) c 3 (fun s t k _ _ => cntOk (s.ctxRaw k 8) && buoyOk s t (s.ctxRaw k 12)) s

/-- eng.copy.dist (R227). -/
def execCopyDist (c : BitVec 3) (a b : BitVec 7) (s : State) : Host.Outcome State Fault Refusal :=
  copyCmd (.copyDist c a b) c 4 (fun s t k _ b =>
    cntOk (s.ctxRaw k 8) && buoyOk s t (s.ctxRaw k 12) && distOk (s.ctxRaw k 8) (s.ctxRaw k 11) b) s

/-- eng.copy.bopen (R228). -/
def execCopyBopen (c : BitVec 3) (a : BitVec 7) (s : State) : Host.Outcome State Fault Refusal :=
  copyCmd (.copyBopen c a) c 5 (fun s _ k _ _ => (s.ctx k).bank.isNone) s

/-- eng.copy.bclose (R228). DESIGN CHOICE (log 58): any bopen of the context that is not done, running and parked ones
too, is a queued one here. -/
def execCopyBclose (c : BitVec 3) (s : State) : Host.Outcome State Fault Refusal :=
  copyCmd (.copyBclose c) c 6 (fun s _ k _ _ =>
    (s.ctx k).bank.isSome || (s.ctx k).cmds.any (fun x => x.opn = 5 && x.state ≠ .done)) s

/-- eng.copy.csr (R251). -/
def execCopyCsr (c : BitVec 3) (a b : BitVec 7) (s : State) : Host.Outcome State Fault Refusal :=
  copyCmd (.copyCsr c a b) c 7 (fun s _ k a b =>
    let w := s.ctxRaw k 8
    cntOk w && cnt0 w ≤ 4096 && cnt1 w ≤ 4 && cnt2 w = 1 && a.toNat % 4 = 0 && b.toNat % 2 = 0) s

/-- The bytes of destination writes counted, each write's in a message of its own, if the command's BUOY is enabled
(R235). -/
def State.countBytes (s : State) (x : Cmd) (ns : List Nat) : State :=
  let w := x.reg 12
  if w.getLsbD 0 then ns.foldl (fun s n => s.push .buoyCount [locLocal (buoyAddr w).toNat, n]) s else s

/-- How xfer and dist move byte index p: its source and destination address, the indices that go to an address, and where
the sources may lie (R226, R227). -/
structure Move where
  src : Nat → Word
  dst : Nat → Word
  hits : Word → Hits
  ok : Nat → Bool

def moveOf (k : Nat) (x : Cmd) : Move :=
  let cnt := x.reg 8
  let src := stridedAddr x.a cnt (x.reg 9)
  if x.opn = 3 then { src := src, dst := stridedAddr x.b cnt (x.reg 10), hits := stridedHits x.b cnt (x.reg 10), ok := fun _ => true }
  else { src := src, dst := distAddr k (x.reg 11) x.b, hits := distHits (x.reg 11) x.b (totalBytes cnt), ok := fun l => !isLocal l }

/-- The write of xfer or dist that covers byte index p. -/
def movePiece (s : State) (k : Nat) (x : Cmd) (p : Nat) : Piece :=
  let total := totalBytes (x.reg 8)
  let m := moveOf k x
  match copyPiece s k x m.src m.dst m.hits total p m.ok (fun _ => true) with
  | .error e => .err e
  | .ok (s', ns) => pieceOf x k total (s'.countBytes x ns)

/-- The source word of byte index p read before its turn (R208). -/
def moveAhead (s : State) (k : Nat) (x : Cmd) (p : Nat) : State :=
  let m := moveOf k x
  readAhead s k x m.ok (readUnit m.src m.dst (totalBytes (x.reg 8)) p)

/-- bopen performed: it reserves the bank, or completes without (R228, R282). DESIGN CHOICE (log 15): one that runs while
its context already holds a bank, accepted before that, reserves no second. -/
def bopenPiece (s : State) (k : Nat) (x : Cmd) : Piece :=
  if (s.ctx k).bank.isSome then .last s
  else if isWindow x.a then .err (.fault cPROT x.a)
  else if !isCanonical x.a then .err (.page x.a)
  else match leafOf s (tlbOfCtx k) x.root x.a with
    | none => .err (.page x.a)
    | some (leaf, lvl) =>
      let l := locOfLeaf x.a leaf lvl
      if !isDram l || locDev l ≠ s.pkg.device || 8 ≤ locDie l then .err (.fault cPROT x.a)
      else
        let h := s.home (homeOf l)
        if (s.core (unitOfLoc l)).bankOn || h.banks.any (fun p => p.1 = bankOf l) || 4 ≤ h.banks.length then .last s
        else .last ((s.setHome (homeOf l) { h with banks := h.banks ++ [(bankOf l, k)] }).updCtx k
          (fun c => { c with bank := some (l, x.a) }))

/-- The bank a context holds, released (R228). -/
def State.closeBank (s : State) (k : Nat) : State :=
  match (s.ctx k).bank with
  | none => s
  | some (l, _) => (s.updHome (homeOf l) (fun h => { h with banks := h.banks.filter (fun p => p.2 ≠ k) })).updCtx k
      (fun c => { c with bank := none })

/-- The names of the reads of step t of a csr command: its two row pointers and its columns, each behind 2^64 times this
number (R251). -/
def csrName (t j : Nat) (va : Word) : Nat := 2 ^ 64 * (3 * t + j) + va.toNat

/-- A row pointer or a column index of a step read before its turn (R208). -/
def csrAhead (s : State) (k : Nat) (x : Cmd) (name : Nat) : State :=
  let t := name / 2 ^ 64 / 3
  let j := name / 2 ^ 64 % 3
  let va : Word := if j = 2 then BitVec.ofNat 64 (name % 2 ^ 64) &&& ~~~1 else x.a + BitVec.ofNat 64 (4 * (t + j))
  if cnt0 (x.reg 8) ≤ t then s else readAhead s k x (fun _ => true) (namedBytes (csrName t j va) va (if j = 2 then 2 else 4))

/-- One step of a csr command: the row pointers and indices read, then, once the queue has a free entry and its turn has
come, the owner looked at and the entry pushed (R251). DESIGN CHOICE (log 60): the turn at the queue is held by the
copy context and the command's number there, so a csr accepted after a clear under the same number inherits it. -/
def csrPiece (s : State) (k : Nat) (x : Cmd) : Piece :=
  let cnt := x.reg 8
  let t := x.progress
  let m := ctxKey 4 (ctxDie k) (ctxCluster k) (cnt1 cnt - 1)
  let any : Nat → Bool := fun _ => true
  let row := x.a + BitVec.ofNat 64 (4 * t)
  match engTake s k x any (namedBytes (csrName t 0 row) row 4 ++ namedBytes (csrName t 1 (row + 4)) (row + 4) 4) with
  | .error e => .err e
  | .ok (s, bs) =>
    let r0 := natOfBytes (bs.take 4)
    let r1 := natOfBytes (bs.drop 4)
    if r1 < r0 || 32 < r1 - r0 then .err (.fault cPROT row)
    else
      let col := x.b + BitVec.ofNat 64 (2 * r0)
      match engTake s k x any (namedBytes (csrName t 2 col) col (2 * (r1 - r0))) with
      | .error e => .err e
      | .ok (s, is) =>
        let c := s.ctx m
        let idx := (upTo (r1 - r0)).map (fun p => natOfBytes ((is.drop (2 * p)).take 2))
        if 16 ≤ c.mq.length || (match c.mqOwner with | some o => o ≠ (k, x.n) | none => false) then .wait
        else if c.own ≠ x.rcb then .err (.fault cPROT x.a)
        else
          let fin := cnt0 cnt ≤ t + 1
          let s := s.setCtx m { c with mq := c.mq ++ [idx], mqOwner := if fin then none else some (k, x.n) }
          let s := s.setCmd k { x with progress := t + 1 }
          if fin then .last s else .more s

/-! ### Streams (R230-R232) -/

/-- The address of element e of a bound stream (R230). -/
def Stream.elemAddr (x : Stream) (e : Nat) : Word :=
  let n0 := bits x.cnt 31 0
  let n1 := bits x.cnt 47 32 + 1
  x.base + BitVec.ofNat 64 (e % n0) * lowHalf x.str0 + BitVec.ofNat 64 (e / n0 % n1) * lowHalf x.str12
    + BitVec.ofNat 64 (e / (n0 * n1)) * highHalf x.str12

/-- Element e of a write stream performed: the next, or another one that has been pushed, before its turn (R208, R231,
R235). -/
def streamStore (s : State) (k : Nat) (x : Cmd) (y : Stream) (e : Nat) (early : Bool) : Piece :=
  let n := y.esz
  let pop := fun (s : State) => s.setStream x.a.toNat { y with fifo := y.fifo.drop n, moved := y.moved + 1 }
  let next := fun (s : State) => if y.total ≤ y.moved + 1 then Piece.last (pop s) else .more (pop s)
  let va := y.elemAddr e
  if !early && x.early.contains (e, n) then next s
  else match engWrite (s.engSweep k x .w [va]) k x (fun _ => true) va ((y.fifo.drop ((e - y.moved) * n)).take n) with
    | .error r => .err r
    | .ok s' =>
      if early then .more ((s'.countBytes x [n]).setCmd k { x with early := (e, n) :: x.early }) else next (s'.countBytes x [n])

/-- The bytes of element e of a stream, read as one access. -/
def Stream.elemReads (y : Stream) (e : Nat) : List (Nat × Word) := namedBytes (8 * e) (y.elemAddr e) y.esz

/-- The next element of a read stream put into its FIFO (R231, R232). -/
def streamFetch (s : State) (k : Nat) (x : Cmd) (y : Stream) : Piece :=
  match engTake s k x (fun _ => true) (y.elemReads y.moved) with
  | .error r => .err r
  | .ok (s, bs) =>
    let s' := s.setStream x.a.toNat { y with fifo := y.fifo ++ bs, moved := y.moved + 1 }
    if y.total ≤ y.moved + 1 then .last s' else .more s'

/-- An element of a read stream read before its turn (R208). -/
def streamAhead (s : State) (k : Nat) (x : Cmd) (name : Nat) : State :=
  let y := s.stream x.a.toNat
  let e := name / 8
  if !y.bound || y.write || e < y.moved || y.total ≤ e || (y.elemAddr e).toNat % y.esz ≠ 0 then s
  else readAhead s k x (fun _ => true) (y.elemReads e)

/-- An element of a stream moved between memory and its FIFO: the next, or of a write stream another one that has been
pushed, before its turn (R208, R231, R232). -/
def streamPiece (s : State) (k : Nat) (x : Cmd) (early : Option Nat) : Piece :=
  let y := s.stream x.a.toNat
  let n := y.esz
  let e := early.getD y.moved
  let pushed := (e - y.moved) * n + n ≤ y.fifo.length
  if !y.bound || y.total ≤ y.moved then .last s
  else if early.isSome && (!y.write || e ≤ y.moved || !pushed || x.early.contains (e, n)) then .idle s
  else if (if y.write then !pushed else 128 < y.size + n) then .idle s
  else if (y.elemAddr e).toNat % n ≠ 0 then .err (.fault cALIGN (y.elemAddr e))
  else if y.write then streamStore s k x y e early.isSome
  else streamFetch s k x y

/-- bind or port: the stream context bound and its command numbered at the copy context (R231). -/
def bindStream (s : State) (t : Nat) (i : Instr) (c : Nat) (port : Bool) : Res :=
  let u := unitOfThread t
  let th := s.th t
  let key := streamKey t c
  let x := s.stream key
  let f := srcVal s t i 1
  let k := copyCtx u (bits f 2 0)
  let y := s.ctx k
  let write := x.sfmt.getLsbD 0
  let cl := s.cluster (clusterKey u)
  if x.bound || (AMap.has cl.ports c && AMap.get 0 cl.ports c ≠ u) || (port && write) || 7 < f.toNat ||
      y.own ≠ th.rcb || y.fault || bits x.sstr0 63 32 ≠ 0 || bits x.sfmt 63 4 ≠ 0 ||
      ((s.ctxRaw k 12).getLsbD 0 && !buoyNamed s t (s.ctxRaw k 12)) ||
      bits x.scnt 31 0 = 0 then
    .done (s.wst t wstREFUSED)
  else if 16 ≤ y.queued then .park (.cmdRoom k)
  else
    let base := srcVal s t i 0
    let s := s.setStream key { x with
      bound := true, port := port, write := write, base := base, cnt := x.scnt, str0 := x.sstr0, str12 := x.sstr12,
      fmt := x.sfmt, region := th.rcb, fill := bits f 2 0, cmd := y.issued + 1, moved := 0, used := 0, fifo := [],
      gone := [] }
    let s := if port then s.setCluster (clusterKey u) { cl with ports := AMap.set cl.ports c u } else s
    .done ((s.enqueue t k streamOpn (BitVec.ofNat 64 key) base 3 0 0).wst t wstOK)

/-- eng.stream.bind (R231). -/
def execStreamBind (c : BitVec 3) (a b : BitVec 7) (s : State) : Host.Outcome State Fault Refusal :=
  let i : Instr := .streamBind c a b
  runWord i s (fun s t => bindStream s t i c.toNat false)

/-- eng.stream.port (R231). -/
def execStreamPort (c : BitVec 3) (a b : BitVec 7) (s : State) : Host.Outcome State Fault Refusal :=
  let i : Instr := .streamPort c a b
  runWord i s (fun s t => bindStream s t i c.toNat true)

/-- A stream unbound; its configuration registers stay. -/
def State.unbind (s : State) (key : Nat) : State :=
  let x := s.stream key
  let cl := key / 8 / 128
  let s := if x.port then s.updCluster cl (fun c => { c with ports := AMap.del c.ports (key % 8) }) else s
  s.setStream key { scnt := x.scnt, sstr0 := x.sstr0, sstr12 := x.sstr12, sfmt := x.sfmt, front := x.front + x.fifo.length }

/-- eng.stream.unbind: a write stream waits until every pushed element has been performed (R231). DESIGN CHOICE (log 60): what
other slots push while it waits is taken and written too, and it waits for that as well. -/
def execStreamUnbind (c : BitVec 3) (s : State) : Host.Outcome State Fault Refusal :=
  runWord (.streamUnbind c) s (fun s t =>
    let key := streamKey t c.toNat
    let x := s.stream key
    let k := copyCtx (unitOfThread t) x.fill
    let live := match (s.ctx k).cmd x.cmd with
      | some y => y.state = .queued || y.state = .running || y.state = .parked
      | none => false
    if !x.bound || x.region ≠ (s.th t).rcb then .done (s.wst t wstREFUSED)
    else if x.write && !x.fifo.isEmpty && live then .park (.streamDrain key)
    else
      let s := s.unbind key
      .done ((if live then s.completeCmd k x.cmd else s).wst t wstOK))

/-! ### Buoy words (R233-R236) -/

/-- The location of a buoy word: ALIGN, then PROT (R234). -/
def buoyLoc (s : State) (t : Nat) (va : Word) (info : Nat) : Except Res Nat :=
  let th := s.th t
  if va.toNat % 16 ≠ 0 then .error (.trap cALIGN info va 0)
  else if isWindow va && windowOk s th.root th.rcb va then .ok (locLocal va.toNat)
  else .error (.trap cPROT info va 0)

/-- eng.buoy.set (R234). -/
def execBuoySet (a b : BitVec 7) (s : State) : Host.Outcome State Fault Refusal :=
  let i : Instr := .buoySet a b
  runWord i s (fun s t =>
    match buoyLoc s t (srcVal s t i 0) 2 with
    | .error r => r
    | .ok l => match s.heldUp t [l, l + 8] with
      | some a => .park a
      | none =>
        let target := bits (srcVal s t i 1) 31 0
        let w := s.read64 (l + 8) &&& ~~~3
        .done ((s.putWord l (BitVec.ofNat 64 (target * 2 ^ 32))).putWord (l + 8) (if target ≠ 0 then w ||| 1 else w)))

/-- Bytes counted into a buoy word: the generations that end, and OVER where bytes are left over (R235). Arguments: the
location, the bytes. -/
def execBuoyCount (s : State) : Host.Outcome State Fault Refusal :=
  let l := s.arg 0
  let w0 := s.read64 l
  let w1 := s.read64 (l + 8)
  let target := bits w0 63 32
  let n := bits w0 31 0 + s.arg 1
  let gens := n / target
  let passed := 2 ≤ gens || (gens = 1 && n % target ≠ 0)
  .next (if !w1.getLsbD 0 || target = 0 then s
    else (s.putWord l (BitVec.ofNat 64 (target * 2 ^ 32 + n % target))).putWord (l + 8)
      (BitVec.ofNat 64 ((bits w1 63 32 + gens) % 2 ^ 32 * 2 ^ 32 + bits w1 31 0) ||| (if passed then 2 else 0)))

/-- Whether GEN has advanced past g (R236). -/
def buoyAdvanced (gen g : Nat) : Bool :=
  let d := (gen + 2 ^ 32 - g) % 2 ^ 32
  1 ≤ d && d ≤ 2 ^ 31

/-- wait.buoy (R236). -/
def execWaitBuoy (d a : BitVec 7) (te : BitVec 5) (s : State) : Host.Outcome State Fault Refusal :=
  let i : Instr := .waitBuoy d a te
  runWord i s (fun s t =>
    let g := bits (srcVal s t i 0) 31 0
    match buoyLoc s t (srcVal s t i 1) 1 with
    | .error r => r
    | .ok l => match s.heldUp t [l, l + 8] with
      | some a => .sent (s.parkOn t i a (timeoutOf te))
      | none => waitFor s t i (buoyAdvanced (bits (s.read64 (l + 8)) 63 32) g) (.buoy l g) te)

/-! ### wait.tl (R223) -/

/-- The context a selector names, if it names one of the device. -/
def ctxOfSel (w : Word) : Option Nat :=
  let e := bits w 31 28
  let die := bits w 27 24
  let cl := bits w 23 17
  let c := bits w 2 0
  let ok := match e with
    | 0 => die < 8 && cl < 98
    | 4 => die < 8 && cl < 98 && c < 4
    | 5 => die < 8 && cl = 0
    | 6 => c = 0 && (die < 8 || (die < 12 && cl < 16))
    | 7 => 8 ≤ die && die < 12 && cl = 0 && c < 2
    | _ => false
  if bits w 63 32 = 0 && bits w 16 3 = 0 && ok then some (ctxKey e die cl c) else none

/-- The budget test of a selector (R223). -/
def State.selInBudget (s : State) (t k : Nat) : Bool :=
  8 ≤ ctxDie k || match effBudget s (s.th t).root treeDepth (s.th t).rcb with
    | some b => if ctxEng k = 0 || ctxEng k = 4 then b.hasCluster (ctxDie k) (ctxCluster k) else b.hasDie (ctxDie k)
    | none => false

/-- wait.tl (R223). -/
def execWaitTl (d a : BitVec 7) (te : BitVec 5) (s : State) : Host.Outcome State Fault Refusal :=
  let i : Instr := .waitTl d a te
  runWord i s (fun s t =>
    let n := (srcVal s t i 0).toNat
    match ctxOfSel (srcVal s t i 1) with
    | none => .done (s.wst t wstREFUSED)
    | some k =>
      let c := s.ctx k
      if !s.selInBudget t k || c.issued < n || (c.fault && c.tl < n) then .done (s.wst t wstREFUSED)
      else waitFor s t i (n ≤ c.tl) (.timeline k n) te)

/-! ### Gather and scatter (R237) -/

def gsEsz (w : Word) : Nat := 8 * 2 ^ bits w 35 32
/-- Index width in bytes. -/
def gsIw (w : Word) : Nat := if w.getLsbD 36 then 8 else 4

/-- A gather/scatter command offered to its context. -/
def gsCmd (i : Instr) (c : BitVec 3) (opn : Nat) (s : State) : Host.Outcome State Fault Refusal :=
  runWord i s (fun s t =>
    let k := s.ctxOf t 5 c.toNat
    let g := s.ctxRaw k 8
    acceptAt s t k opn (srcVal s t i 0) (srcVal s t i 1) (bits g 63 37 = 0 && bits g 35 32 ≤ 5 && bits g 31 0 ≠ 0))

/-- eng.gs.gather (R237). -/
def execGsGather (c : BitVec 3) (a b : BitVec 7) (s : State) : Host.Outcome State Fault Refusal :=
  gsCmd (.gsGather c a b) c 3 s

/-- eng.gs.scatter (R237). -/
def execGsScatter (c : BitVec 3) (a b : BitVec 7) (s : State) : Host.Outcome State Fault Refusal :=
  gsCmd (.gsScatter c a b) c 4 s

/-- Near-tier DRAM of the engine's die (R237). -/
def State.gsNear (s : State) (k l : Nat) : Bool := isDram l && locDev l = s.pkg.device && locDie l = ctxDie k

/-- Index i of the list read in one access, sign-extended. -/
def gsIndex (s : State) (k : Nat) (x : Cmd) (i : Nat) : Except EngErr (State × Word) :=
  let w := gsIw (x.reg 8)
  (engTake s k x (s.gsNear k) (namedBytes (2 ^ 64 + 8 * i) (x.a + BitVec.ofNat 64 (i * w)) w)).map (fun (s, bs) =>
    (s, if w = 8 then BitVec.ofNat 64 (natOfBytes bs) else (BitVec.ofNat 32 (natOfBytes bs)).signExtend 64))

/-- The indices of some elements read, each once for its element (R237). -/
def gsFill (s : State) (k : Nat) (x : Cmd) : List Nat → Except EngErr (State × Cmd)
  | [] => .ok (s, x)
  | i :: is =>
    if AMap.has x.index i then gsFill s k x is
    else match gsIndex s k x i with
      | .error e => .error e
      | .ok (s, v) => gsFill s k { x with index := AMap.set x.index i v } is

/-- The address of byte index p on the table side. -/
def gsTable (x : Cmd) (p : Nat) : Word :=
  let e := gsEsz (x.reg 8)
  x.reg 9 + AMap.get 0 x.index (p / e) * BitVec.ofNat 64 e + BitVec.ofNat 64 (p % e)

/-- The indices of elements whose bytes have all been moved are forgotten. -/
def State.gsForget (s : State) (k : Nat) (x : Cmd) : State :=
  s.updCtx k (fun c => { c with cmds := c.cmds.map (fun y => if y.n = x.n then
    { y with index := y.index.filter (fun q => y.progress / gsEsz (x.reg 8) ≤ q.1) } else y) })

/-- The dense side of a gather or scatter: the address of byte index p, and where it may lie. -/
def gsDense (x : Cmd) (p : Nat) : Word := x.b + BitVec.ofNat 64 p
def gsDenseOk (l : Nat) : Bool := !isHost l

/-- The write of a gather or scatter that covers byte index p (R237). -/
def gsPiece (s : State) (k : Nat) (x : Cmd) (p : Nat) : Piece :=
  let g := x.reg 8
  let e := gsEsz g
  let total := bits g 31 0 * e
  let denseHits : Word → Hits := fun a => Hits.one (a - x.b).toNat total
  let w := writeAt (gsDense x) denseHits p
  let needs := if total ≤ p || (x.opn = 3 && x.wrote w) then []
    else if x.opn = 3 then ((w.picks 0).map (· / e)).eraseDups else [p / e]
  match gsFill s k x needs with
  | .error r => .err r
  | .ok (s, x) =>
    let tableHits : Word → Hits := fun a =>
      let r := (a - gsTable x (p / e * e)).toNat
      if r < e then Hits.one (p / e * e + r) total else []
    let r := if x.opn = 3 then copyPiece s k x (gsTable x) (gsDense x) denseHits total p (s.gsNear k) gsDenseOk
      else copyPiece s k x (gsDense x) (gsTable x) tableHits total p gsDenseOk (s.gsNear k)
    match r with
    | .error r => .err r
    | .ok (s', _) => pieceOf x k total (s'.gsForget k x)

/-- The source word of byte index p read before its turn, after the index of its element; or, for a number behind 2^64, an
index alone (R208). Bytes of a neighbouring element go with it only where that element's index has been read. -/
def gsAhead (s : State) (k : Nat) (x : Cmd) (p : Nat) : State :=
  let e := gsEsz (x.reg 8)
  let n := bits (x.reg 8) 31 0
  let needs := if 2 ^ 64 ≤ p then [p - 2 ^ 64] else [p / e]
  match gsFill s k x (needs.filter (fun i => x.progress / e ≤ i && i < n)) with
  | .error _ => s
  | .ok (s, x) =>
    let s := s.setCmd k x
    let known := List.filter (fun (r : Nat × Word) => AMap.has x.index (r.1 / e))
    if n * e ≤ p || p < x.progress then s
    else if x.opn = 3 then readAhead s k x (s.gsNear k) (known (readUnit (gsTable x) (gsDense x) (n * e) p))
    else readAhead s k x gsDenseOk (known (readUnit (gsDense x) (gsTable x) (n * e) p))

end Sys2Proof.Machine
end

