-- ==== Sys2Proof/Machine/Bmac.lean ====
section
/-!
DEFINITION. The bank MAC of a skerry: its commands, all-bank mode, and what each command does (R277-R283).
-/

namespace Sys2Proof.Machine

/-! ### The instructions (R279, R280) -/

/-- The must-be-zero bits and ranges of CNT, STR and MASK (R279). -/
def bmacCntOk (w : Word) : Bool := bits w 63 7 = 0 && 1 ≤ bits w 6 0 && bits w 6 0 ≤ 64
def bmacMaskOk (w : Word) : Bool := bits w 63 16 = 0 && bits w 15 0 ≠ 0
/-- The slots from j0 on hold N sums (R280). -/
def bmacSlotsOk (cnt j0 : Word) : Bool := j0.toNat + bits cnt 6 0 ≤ 64

/-- The geometry check of a bank MAC command (R280). -/
def State.bmacGeom (s : State) (k opn : Nat) (a b : Word) : Bool :=
  let cnt := s.ctxRaw k 8
  let str := s.ctxRaw k 9
  let mask := s.ctxRaw k 10
  match opn with
  | 4 => bmacMaskOk mask && bits a 4 0 = 0 && bits b 4 0 = 0 && bits b 63 32 = 0
  | 5 => bmacMaskOk mask && bmacCntOk cnt && bits str 63 32 = 0 && bits str 8 0 = 0 && bits a 8 0 = 0 &&
      bmacSlotsOk cnt b && bits (s.ctxRaw k 11) 63 5 = 0
  | 6 => bmacMaskOk mask && bmacCntOk cnt && bits a 1 0 = 0 && bmacSlotsOk cnt b
  | 7 => bmacMaskOk mask && bmacCntOk cnt && bmacSlotsOk cnt b
  | _ => true

/-- A bank MAC command offered to its context (R220, R280). -/
def bmacCmd (s : State) (t opn : Nat) (a b : Word) : Res :=
  let k := s.ctxOf t 6 0
  acceptAt s t k opn a b (s.bmacGeom k opn a b)

/-- eng.bmac.open (R282). -/
def execBmacOpen (s : State) : Host.Outcome State Fault Refusal :=
  runWord .bmacOpen s (fun s t => bmacCmd s t 3 0 0)

/-- eng.bmac.bcast (R283). -/
def execBmacBcast (a b : BitVec 7) (s : State) : Host.Outcome State Fault Refusal :=
  let i : Instr := .bmacBcast a b
  runWord i s (fun s t => bmacCmd s t 4 (srcVal s t i 0) (srcVal s t i 1))

/-- eng.bmac.mac (R283). -/
def execBmacMac (a b : BitVec 7) (s : State) : Host.Outcome State Fault Refusal :=
  let i : Instr := .bmacMac a b
  runWord i s (fun s t => bmacCmd s t 5 (srcVal s t i 0) (srcVal s t i 1))

/-- eng.bmac.rd (R283). -/
def execBmacRd (a b : BitVec 7) (s : State) : Host.Outcome State Fault Refusal :=
  let i : Instr := .bmacRd a b
  runWord i s (fun s t => bmacCmd s t 6 (srcVal s t i 0) (srcVal s t i 1))

/-- eng.bmac.aclr (R283). -/
def execBmacAclr (b : BitVec 7) (s : State) : Host.Outcome State Fault Refusal :=
  let i : Instr := .bmacAclr b
  runWord i s (fun s t => bmacCmd s t 7 0 (srcVal s t i 0))

/-- eng.bmac.close (R282). -/
def execBmacClose (s : State) : Host.Outcome State Fault Refusal :=
  runWord .bmacClose s (fun s t => bmacCmd s t 8 0 0)

/-! ### What the commands do (R281-R283) -/

/-- The skerry and the home of a bank MAC context. -/
def skerryOfCtx (k : Nat) : Nat := mkSkerry (ctxDie k) (ctxCluster k)
def State.homeOfCtx (s : State) (k : Nat) : Nat := (s.pkg.device * 16 + ctxDie k) * 4096 + ctxCluster k

/-- The banks taking part, rising. -/
def Cmd.banks (x : Cmd) : List Nat := (upTo 16).filter (fun k => (x.reg 10).getLsbD k)

/-- All-bank mode entered, unless a copy context holds a bank of the channel (R282). -/
def State.openBanks (s : State) (k : Nat) : State :=
  if (s.home (s.homeOfCtx k)).banks.isEmpty then s.updCore (skerryOfCtx k) (fun c => { c with bankOn := true }) else s

/-- All-bank mode left; the accesses parked behind it go on (R282). -/
def State.closeBanks (s : State) (k : Nat) : State := s.updCore (skerryOfCtx k) (fun c => { c with bankOn := false })

/-- Where the source of a bcast may lie. -/
def bcastOk (l : Nat) : Bool := !isHost l

/-- A word of the source of a bcast read before its turn (R208). -/
def bcastAhead (s : State) (k : Nat) (x : Cmd) (name : Nat) : State :=
  let bank := name / 32
  let q := name % 32 / 8 * 8
  if !x.banks.contains bank then s
  else readAhead s k x bcastOk (namedBytes (bank * 32 + q) (x.a + BitVec.ofNat 64 bank * x.b + BitVec.ofNat 64 q) 8)

/-- The next bank of a bcast filled, or another one before its turn (R208, R283). -/
def bcastPiece (s : State) (k : Nat) (x : Cmd) (early : Option Nat) : Piece :=
  let p := early.getD x.progress
  match x.banks[p]? with
  | none => if early.isSome then .idle s else .last s
  | some bank =>
    let va := x.a + BitVec.ofNat 64 bank * x.b
    let next := if early.isSome then { x with early := (p, 1) :: x.early } else { x with progress := p + 1 }
    let go := fun (s : State) => if early.isNone && x.banks.length ≤ p + 1 then Piece.last s else .more s
    if x.early.contains (p, 1) then go (if early.isSome then s else s.setCmd k next)
    else
      match engTake s k x bcastOk (namedBytes (bank * 32) va 32) with
      | .error e => .err e
      | .ok (s, bs) =>
        let s := s.updCore (skerryOfCtx k) (fun c => { c with bvr := (upTo 16).foldl (fun m e =>
          AMap.set m (bank * 16 + e) (BitVec.ofNat 16 (natOfBytes ((bs.drop (2 * e)).take 2)))) c.bvr })
        go (s.setCmd k next)

/-- The exact product of two FP16 elements as FP32, and the flags (R283). -/
def bmacProd (a b : BitVec 16) : F32 × Flags :=
  let x := Fmt.fp16.value a.toNat
  let y := Fmt.fp16.value b.toNat
  if x.isNan || y.isNan then pack32 (Fmt.fp32.nanRes true)
  else match mulExact x y with
    | none => pack32 (Fmt.fp32.nanRes true)
    | some p => pack32 (Fmt.fp32.roundVal .rne p)

/-- The products of a bank added in element order into one slot. -/
def bmacSum (acc : F32) (l : List (BitVec 16 × BitVec 16)) : F32 × Flags :=
  l.foldl (fun (p : F32 × Flags) (q : BitVec 16 × BitVec 16) =>
    let (v, f) := bmacProd q.1 q.2
    let (r, g) := fadd32 p.1 v
    (r, p.2 ||| f ||| g)) (acc, 0)

/-- The interleave code of the page an address lies in, for a read by the command. -/
def pageIl (s : State) (k : Nat) (x : Cmd) (va : Word) : Nat :=
  match leafOf s (tlbOfCtx k) x.root va with
  | some (leaf, _) => if grants leaf .r (!x.super) then bits leaf 8 7
      else (match walk s x.root va with | some (l, _) => bits l 8 7 | none => 0)
  | none => 0

/-- The address of block c of a mac. -/
def macVa (x : Cmd) (c : Nat) : Word := x.a + BitVec.ofNat 64 c * BitVec.ofNat 64 (bits (x.reg 9) 31 0)

/-- The name of byte q of a bank's slice of block c. -/
def macName (c bank q : Nat) : Nat := (c * 16 + bank) * 32 + q

/-- The location of block c of a mac: a block of this channel (R283). -/
def macBlock (s : State) (k : Nat) (x : Cmd) (c : Nat) : Except EngErr (State × Nat) :=
  let va := macVa x c
  let s := s.engSweep k x .r [va]
  match engLoc s k x va .r (fun l => isDram l && homeOf l = s.homeOfCtx k && locOff l % 512 = 0) with
  | .error e => .error e
  | .ok l => if pageIl s k x va = 0 then .error (.fault cPROT va) else .ok (s, l)

/-- The words of block c's slices that have not been read before their turn, by bank and offset. -/
def Cmd.unread (x : Cmd) (c : Nat) : List (Nat × Nat) :=
  x.banks.flatMap (fun b => (((upTo 4).map (8 * ·)).filter (fun q => !AMap.has x.got (macName c b q))).map (fun q => (b, q)))

/-- Words of block c's slices read in one step: their bytes stand with the command (R202, R283). -/
def macTake (s : State) (k : Nat) (x : Cmd) (c : Nat) (ws : List (Nat × Nat)) : Except EngErr (State × Cmd) :=
  if ws.isEmpty then .ok (s, x)
  else match macBlock s k x c with
    | .error e => .error e
    | .ok (s, l) => match ws.find? (fun w => s.isPoison (l + 32 * w.1 + w.2) 8) with
      | some w => .error (.fault cPOISON (macVa x c + BitVec.ofNat 64 (32 * w.1)))
      | none =>
        let put := fun (m : AMap Byte) (w : Nat × Nat) => (upTo 8).foldl (fun m j =>
          AMap.set m (macName c w.1 (w.2 + j)) (readByte s.mem (l + 32 * w.1 + w.2 + j))) m
        .ok (s.charge (ctxDie k) x.root x.rcb (if s.inHbm l then 8 * ws.length * hbmEnergy else 0),
          { x with got := ws.foldl put x.got })

/-- A word of a slice read before its turn (R208). -/
def macAhead (s : State) (k : Nat) (x : Cmd) (name : Nat) : State :=
  let c := name / 512
  if !(s.core (skerryOfCtx k)).bankOn || c < x.progress || bits (x.reg 8) 6 0 ≤ c then s
  else match macTake s k x c ((x.unread c).filter (fun w => w.1 = name / 32 % 16 && w.2 = name % 32 / 8 * 8)) with
    | .ok (s, x) => s.setCmd k x
    | .error _ => s

/-- The next block of a mac: what has not been read of it is read, and all its banks add (R283). -/
def macPiece (s : State) (k : Nat) (x : Cmd) : Piece :=
  let u := skerryOfCtx k
  let s := if x.progress = 0 then s.updCtx k (fun c => { c with flags := 0 }) else s
  if !(s.core u).bankOn then .err (.fault cPROT x.a)
  else
    let c := x.progress
    match macTake s k x c (x.unread c) with
    | .error e => .err e
    | .ok (s, y) =>
      let slot := x.b.toNat + c
      let half : Nat → Nat → BitVec 16 := fun bank e =>
        AMap.get 0 y.got (macName c bank (2 * e + 1)) ++ AMap.get 0 y.got (macName c bank (2 * e))
      let step := fun (p : State × Flags) (bank : Nat) =>
        let core := p.1.core u
        let (r, f) := bmacSum (AMap.get 0 core.acc (bank * 64 + slot)) ((upTo 16).map (fun e =>
          (AMap.get 0 core.bvr (bank * 16 + e), half bank e)))
        (p.1.setCore u { core with acc := AMap.set core.acc (bank * 64 + slot) r }, p.2 ||| f)
      let (s, f) := x.banks.foldl step (s, 0)
      let rest := y.got.filter (fun g => 512 * (c + 1) ≤ g.1)
      let s := s.updCtx k (fun z =>
        { (z.setCmd { x with progress := c + 1, retried := false, got := rest }) with flags := z.flags ||| f })
      if bits (x.reg 8) 6 0 ≤ c + 1 then
        .last (s.updCtx k (fun y => { y with
          regs := AMap.set y.regs 11 (AMap.get 0 y.regs 11 ||| y.flags.zeroExtend 64), flags := 0 }))
      else .more s

/-- The write of a rd that covers byte index p (R226, R283). -/
def rdPiece (s : State) (k : Nat) (x : Cmd) (p : Nat) : Piece :=
  let n := bits (x.reg 8) 6 0
  let core := s.core (skerryOfCtx k)
  let total := 4 * n * x.banks.length
  let bankAt : Nat → Nat := fun p => x.banks.getD (p / 4 / n) 0
  let dst : Nat → Word := fun p => x.a + BitVec.ofNat 64 (4 * (n * bankAt p + p / 4 % n) + p % 4)
  let hits : Word → Hits := fun a =>
    let o := (a - x.a).toNat
    if 4 * n * 16 ≤ o || !x.banks.contains (o / (4 * n)) then []
    else Hits.one (4 * n * (x.banks.takeWhile (· ≠ o / (4 * n))).length + o % (4 * n)) total
  let byte : Nat → Byte := fun p =>
    (AMap.get 0 core.acc (bankAt p * 64 + x.b.toNat + p / 4 % n)).extractLsb' (8 * (p % 4)) 8
  match writePiece s k x dst hits total p (fun s is => .ok (s, is.map byte))
      (fun s va bs => engWrite (s.engSweep k x .w [va]) k x (fun l => !isHost l) va bs) with
  | .error e => .err e
  | .ok (s', _) => pieceOf x k total s'

/-- aclr (R283). -/
def bmacAclrPiece (s : State) (k : Nat) (x : Cmd) : Piece :=
  let slots := (upTo (bits (x.reg 8) 6 0)).map (fun c => x.b.toNat + c)
  .last (s.updCore (skerryOfCtx k) (fun c => { c with
    acc := c.acc.filter (fun p => !(x.banks.contains (p.1 / 64) && slots.contains (p.1 % 64))) }))

/-- A piece of a bank MAC command, the next or one before its turn. -/
def bmacPiece (s : State) (k : Nat) (x : Cmd) (early : Option Nat) : Piece :=
  match x.opn, early with
  | 4, _ => bcastPiece s k x early
  | 6, _ => rdPiece s k x (early.getD x.progress)
  | _, some _ => .idle s
  | 3, none => .last (s.openBanks k)
  | 5, none => macPiece s k x
  | 7, none => bmacAclrPiece s k x
  | _, none => .last (s.closeBanks k)

end Sys2Proof.Machine
end

