-- ==== Sys2Proof/Machine/Matrix.lean ====
section
/-!
DEFINITION. The matrix unit: its commands, the array's choice, suspension, the tiles, the matrix code table and its
failure (R239-R258).
-/

namespace Sys2Proof.Machine

/-! ### The instructions (R243) -/

/-- eng.mtx.mma (R249). -/
def execMtxMma (c : BitVec 3) (a b : BitVec 7) (s : State) : Host.Outcome State Fault Refusal :=
  let i : Instr := .mtxMma c a b
  runWord i s (fun s t => matrixSend s t i c.toNat (some rightCMD))

/-- eng.mtx.mmas (R252). -/
def execMtxMmas (c : BitVec 3) (a b : BitVec 7) (s : State) : Host.Outcome State Fault Refusal :=
  let i : Instr := .mtxMmas c a b
  runWord i s (fun s t => matrixSend s t i c.toNat (some rightCMD))

/-- eng.mtx.aclr (R253). -/
def execMtxAclr (c : BitVec 3) (s : State) : Host.Outcome State Fault Refusal :=
  let i : Instr := .mtxAclr c
  runWord i s (fun s t => matrixSend s t i c.toNat (some rightCMD))

/-- eng.mtx.acopy.in (R254). -/
def execMtxAcopyIn (c : BitVec 3) (a b : BitVec 7) (s : State) : Host.Outcome State Fault Refusal :=
  let i : Instr := .mtxAcopyIn c a b
  runWord i s (fun s t => matrixSend s t i c.toNat (some rightCMD))

/-- eng.mtx.acopy.out (R255). -/
def execMtxAcopyOut (c : BitVec 3) (a b : BitVec 7) (s : State) : Host.Outcome State Fault Refusal :=
  let i : Instr := .mtxAcopyOut c a b
  runWord i s (fun s t => matrixSend s t i c.toNat (some rightCMD))

/-- eng.mtx.tset (R256). -/
def execMtxTset (c : BitVec 3) (a b : BitVec 7) (s : State) : Host.Outcome State Fault Refusal :=
  let i : Instr := .mtxTset c a b
  runWord i s (fun s t => matrixSend s t i c.toNat (some rightTBL))

/-- eng.mtx.tseal (R256). -/
def execMtxTseal (c : BitVec 3) (s : State) : Host.Outcome State Fault Refusal :=
  let i : Instr := .mtxTseal c
  runWord i s (fun s t => matrixSend s t i c.toNat (some rightTBL))

/-! ### Geometry (R247, R248, R254-R256) -/

/-- Whether an operand descriptor passes the geometry check (R247, R248). -/
def descOk (w : Word) : Bool :=
  if w.getLsbD 63 then bits w 62 3 = 0 else bits w 59 58 = 0 && bits w 31 22 = 0 && bits w 3 0 = 0

/-- Whether a scale register passes it. -/
def scaleOk (w : Word) : Bool := bits w 47 41 = 0 && bits w 39 22 = 0

/-- Bytes of an element of a format; a C4 element is half a byte and counts 0 (R247). -/
def elemBytes (f : Nat) : Nat := match f with | 0 => 4 | 1 => 2 | 2 => 2 | 3 => 4 | 4 => 1 | 5 => 1 | _ => 0

/-- The geometry check of a matrix command. DESIGN CHOICE (log 59): a command refuses a non-zero must-be-zero bit of
ACC (R247) as of any other register it uses. -/
def State.matrixGeom (s : State) (k opn : Nat) (a b : Word) (fmtAB fmtD scale : Nat) : Bool :=
  let r := s.ctxRaw k
  let tile := bits (r 8) 63 4 = 0
  let pitch := fun (f : Nat) => a.toNat % max (elemBytes f) 1 = 0 && b.toNat % max (elemBytes f) 1 = 0
  match opn with
  | 3 | 4 => tile && 1 ≤ (r 9).toNat && (r 9).toNat ≤ 4096 && descOk a && descOk b &&
      (scale = 0 || (scaleOk (r 10) && scaleOk (r 11))) && (opn = 3 || !b.getLsbD 63)
  | 5 => tile
  | 6 => tile && pitch fmtAB
  | 7 => tile && pitch fmtD
  | 8 => bits a 63 10 = 0 && bits a 9 8 ≠ 3
  | _ => true

/-! ### Requests at the unit (R240) -/

/-- What a request does at its context. -/
def matrixBody (s : State) (t k : Nat) (i : Instr) : Res :=
  let a := srcVal s t i 0
  let b := srcVal s t i 1
  let th := s.th t
  let cmd := fun (opn ab d : Nat) =>
    let (ab, d) := fmtsOf th ab d
    let sc := if th.st.ppFmt then pfxScale th.st.pfxF else 0
    acceptAt s t k opn a b (s.matrixGeom k opn a b ab d sc) ab d sc
  match i with
  | .engClaim _ _ => claimAt s t k
  | .engRelease _ _ => releaseAt s t k
  | .engClear _ _ => clearAt s t k
  | .ewr _ _ r _ => ewrAt s t k r.toNat a
  | .erd _ _ r d => erdAt s t k r.toNat d
  | .mtxMma _ _ _ => cmd 3 3 0
  | .mtxMmas _ _ _ => cmd 4 3 0
  | .mtxAclr _ => cmd 5 0 0
  | .mtxAcopyIn _ _ _ => cmd 6 0 0
  | .mtxAcopyOut _ _ _ => cmd 7 0 0
  | .mtxTset _ _ _ => cmd 8 0 0
  | .mtxTseal _ => cmd 9 0 0
  | _ => .done s

/-- Whether an earlier request waits at a context. -/
def State.requestBefore (s : State) (k ticket : Nat) : Bool :=
  s.threads.any (fun (p : Nat × Thread) => match p.2.park with
    | some q => q.await = .matrix k && q.ticket < ticket
    | none => false)

/-- A request is performed at its context, in arrival order, and the reply completes the parked instruction (R240). A
request the context cannot take yet waits there. Argument: the thread. -/
def execMatrixRequestReply (s : State) : Host.Outcome State Fault Refusal :=
  let t := s.arg 0
  .next (match (s.th t).park with
    | some p => match p.await with
      | .matrix k =>
        if (s.cluster (clusterOfCtx k)).failed then
          applyRes s t p.instr (.trap cMXDOWN (clusterOfCtx k) 0 0)
        else if s.requestBefore k p.ticket then s.after 8 .matrixRequestReply [t]
        else match matrixBody s t k p.instr with
          | .park _ => s.after 8 .matrixRequestReply [t]
          | r => applyRes s t p.instr r
      | _ => s
    | none => s)

/-! ### The array's choice (R244, R245) -/

/-- The tile a command names. -/
def Cmd.tile (x : Cmd) : Nat := bits (x.reg 8) 3 0

/-- A context's oldest incomplete command. -/
def Ctx.oldest (c : Ctx) : Option Cmd := (c.cmds.filter (fun x => x.state ≠ .done)).head?

/-- The candidate of a context (R244). -/
def State.candidate (s : State) (k : Nat) : Option Cmd :=
  match (s.ctx k).oldest with
  | none => none
  | some x =>
    let locks := (unitCtxs k).filterMap (fun j => (s.ctx j).lock.map (fun t => (j, t)))
    if x.state ≠ .queued || (s.ctx k).fault then none
    else if 8 ≤ x.opn then (if locks.isEmpty then some x else none)
    else if locks.any (fun (j, t) => j ≠ k && t = x.tile) then none
    else some x

/-- The unit chooses among the candidates round-robin, starting after the context it served last (R244). -/
def State.startArray (s : State) (cl : Nat) : State :=
  let u := s.cluster cl
  if u.current.isSome || u.failed then s
  else
    let ctxs := (upTo 4).map (fun d => ctxKey 4 (cl / 128) (cl % 128) ((u.lastServed + 1 + d) % 4))
    match ctxs.findSome? (fun k => (s.candidate k).map (fun x => (k, x))) with
    | none => s
    | some (k, x) =>
      ((s.setCluster cl { u with current := some k, lastServed := ctxNo k }).setCmd k
        { x with state := .running, started := true }).push
        .engineCommandComplete [k, x.n]

/-- Whether the operands a suspended or stalled command awaits are present, or will never be. -/
def State.portReady (s : State) (cl : Nat) (w : Word) (have_ need : Nat) : Bool :=
  !w.getLsbD 63 || need ≤ have_ ||
  match AMap.has (s.cluster cl).ports (bits w 2 0), s.stream (AMap.get 0 (s.cluster cl).ports (bits w 2 0) * 8 + bits w 2 0) with
  | true, y => !y.fifo.isEmpty || y.left = 0
  | false, _ => true

/-- Bytes of one K step of an operand (R247). -/
def stepBytes (f : Nat) : Nat := if f = 6 then 1024 else 2048 * elemBytes f

def State.operandsReady (s : State) (k : Nat) (x : Cmd) : Bool :=
  let c := s.ctx k
  let cl := clusterOfCtx k
  let n := stepBytes x.fmtAB
  s.portReady cl x.a c.portA.length n && s.portReady cl x.b c.portB.length n &&
  (x.opn ≠ 4 || c.entry.isSome || !c.mq.isEmpty)

/-- A command that has stalled for 256 cycles while another context holds a candidate is suspended: its tile is locked
and the unit chooses again (R245). Argument: the cluster. -/
def execMatrixSuspend (s : State) : Host.Outcome State Fault Refusal :=
  let cl := s.arg 0
  .next (match (s.cluster cl).current with
    | none => s
    | some k => match (s.ctx k).oldest with
      | none => s
      | some x =>
        if (s.ctx k).stall.isNone || s.operandsReady k x then s
        else
          let s := s.updCtx k (fun c =>
            { (c.setCmd { x with state := .suspended }) with lock := some x.tile, stall := none })
          ((s.updCluster cl (fun u => { u with current := none })).startArray cl).after 8 .matrixResume [cl])

/-- The awaited operand of a suspended command arrives and the command is a candidate again (R245). Argument: the
cluster. -/
def execMatrixResume (s : State) : Host.Outcome State Fault Refusal :=
  let cl := s.arg 0
  let ks := (upTo 4).map (fun c => ctxKey 4 (cl / 128) (cl % 128) c)
  let ready := fun (s : State) (k : Nat) => match (s.ctx k).oldest with
    | some x => if x.state = .suspended && s.operandsReady k x then s.setCmd k { x with state := .queued } else s
    | none => s
  let s' := (ks.foldl ready s).startArray cl
  .next (if ks.any (fun k => (s'.ctx k).cmds.any (fun x => x.state = .suspended)) then s'.after 8 .matrixResume [cl]
    else s')

/-! ### The scratchpad (R242, R246) -/

/-- The location of a scratchpad byte, or PROT beyond the last store or in a hole. -/
def scratchLoc (k : Nat) (off : Word) : Except EngErr Nat :=
  let o := off.toNat
  if 0x3FFFFF < o || 0x6000 ≤ o % 32768 then
    .error (.fault cPROT (windowAddr (ctxDie k) (ctxCluster k) 0 0 + off))
  else .ok (clusterOfCtx k * 2 ^ 22 + o)

/-- The address of a scratchpad byte. -/
def scratchVa (k : Nat) (off : Word) : Word := windowAddr (ctxDie k) (ctxCluster k) 0 0 + off

/-- n scratchpad bytes of a read that a number names, each named by its address behind 2^64 times that number; one read before
its turn is taken as it was read then (R208). -/
def scratchRead (s : State) (k : Nat) (x : Cmd) (tag : Nat) (off : Word) : Nat → Except EngErr (List Byte)
  | 0 => .ok []
  | n + 1 =>
    let name := tag * 2 ^ 64 + (scratchVa k off).toNat
    if AMap.has x.got name then (scratchRead s k x tag (off + 1) n).map (AMap.get 0 x.got name :: ·)
    else match scratchLoc k off with
      | .error e => .error e
      | .ok l =>
        if s.isPoison l 1 then .error (.fault cPOISON (scratchVa k off))
        else (scratchRead s k x tag (off + 1) n).map (readByte s.mem l :: ·)

/-- A scratchpad word of a read that a number names, read before its turn (R208). -/
def scratchAhead (s : State) (k : Nat) (x : Cmd) (name : Nat) : State :=
  let tag := name / 2 ^ 64
  let off := (BitVec.ofNat 64 (name % 2 ^ 64) - scratchVa k 0) &&& ~~~7
  match scratchRead s k x tag off 8 with
  | .ok bs => s.setCmd k { x with got := ((upTo 8).zip bs).foldl (fun m (p : Nat × Byte) =>
      AMap.set m (tag * 2 ^ 64 + (scratchVa k off).toNat + p.1) p.2) x.got }
  | .error _ => s

/-- Bytes written from an offset on, all in one word; a poisoned word is replaced only whole (R178, R226). -/
def scratchWrite (s : State) (k : Nat) (off : Word) (bs : List Byte) : Except EngErr State :=
  match scratchLoc k off with
  | .error e => .error e
  | .ok l =>
    if bs.length = 8 then .ok (s.putWord l (BitVec.ofNat 64 (natOfBytes bs)))
    else if s.isPoison l 1 then .error (.fault cPOISON (scratchVa k off))
    else .ok (s.writeBytes l bs)

/-- An FP32 word of the scratchpad. -/
def scratchF32 (s : State) (k : Nat) (x : Cmd) (tag : Nat) (off : Word) : Except EngErr F32 :=
  (scratchRead s k x tag off 4).map (fun bs => BitVec.ofNat 32 (natOfBytes bs))

/-! ### Operands (R247, R248) -/

/-- The exact value of element j of the bytes of a row (R73, R90, R91, R247). -/
def elemValue (tb : CodeTable) (f : Nat) (row : List Byte) (j : Nat) : FVal :=
  let e := elemBytes f
  if f < 4 then valueOfCode f (natOfBytes ((row.drop (j * e)).take e))
  else
    let c := if f = 6 then (row.getD (j / 2) 0).toNat / 16 ^ (j % 2) % 16 else (row.getD j 0).toNat % 2 ^ codeWidth f
    Fmt.e8m10.value (tb.entry c).toNat

/-- The offset of row r of step t (R247). -/
def rowOffset (w : Word) (r t : Nat) : Word :=
  let c := bits w 62 60
  BitVec.ofNat 64 (bits w 21 0 + r / 2 ^ c * 16 * bits w 43 32 + r % 2 ^ c * 32768 + t * 16 * bits w 57 44)

/-- The number that names the read of the i-th row or scale of an operand at a command's present step: A, B, and their scales
are operands 0 to 3. -/
def Cmd.tag (x : Cmd) (operand i : Nat) : Nat := (x.progress * 4 + operand) * 64 + i

/-- One row of step t of an operand, n bytes long: from the scratchpad or from the bytes its port has supplied. -/
def operandRow (s : State) (k : Nat) (x : Cmd) (tag : Nat) (w : Word) (port : List Byte) (n t r : Nat) :
    Except EngErr (List Byte) :=
  if w.getLsbD 63 then .ok ((port.drop (r * n)).take n) else scratchRead s k x tag (rowOffset w r t) n

/-- Bytes taken from a port for a K step: the state and all bytes so far; STREAMERR where the port is unbound or has
no more (R246, R247). -/
def takePort (s : State) (k : Nat) (w : Word) (sofar : List Byte) (need : Nat) : Except EngErr (State × List Byte) :=
  if !w.getLsbD 63 || need ≤ sofar.length then .ok (s, sofar)
  else
    let p := bits w 2 0
    let cl := s.cluster (clusterOfCtx k)
    let key := AMap.get 0 cl.ports p * 8 + p
    let y := s.stream key
    let n := min (need - sofar.length) y.fifo.length
    if !AMap.has cl.ports p then .error (.fault cSTREAMERR 0)
    else if y.left = 0 then .error (.fault cSTREAMERR 0)
    else if n = 0 then .ok (s, sofar)
    else .ok ((s.setStream key (y.pop n)).push .engineCommandStart
      [copyCtx (key / 8) y.fill, y.cmd], sofar ++ y.fifo.take n)

/-! ### Tiles (R239) -/

/-- An element of a tile; 64 rows of 64. -/
def Cluster.acc (c : Cluster) (tile i j : Nat) : F32 := AMap.get 0 c.tiles (tile * 4096 + i * 64 + j)

/-- A row of a tile replaced. -/
def State.setTileRow (s : State) (cl tile i : Nat) (vs : List F32) : State :=
  s.updCluster cl (fun c => { c with tiles := ((upTo 64).zip vs).foldl (fun m p =>
    if p.2 = 0 then AMap.del m (tile * 4096 + i * 64 + p.1) else AMap.set m (tile * 4096 + i * 64 + p.1) p.2) c.tiles })

/-! ### Commands (R249-R256) -/

/-- A scale of row or column i at step t (R242). -/
def scaleAt (s : State) (k : Nat) (x : Cmd) (operand : Nat) (w : Word) (t i : Nat) : Except EngErr F32 :=
  scratchF32 s k x (x.tag operand i) (BitVec.ofNat 64 (bits w 21 0 + t * bits w 63 48 + if w.getLsbD 40 then 0 else 4 * i))

/-- Results of a list of accesses, or the first error. -/
def collect {α β : Type} (f : α → Except EngErr β) : List α → Except EngErr (List β)
  | [] => .ok []
  | x :: xs => match f x with
    | .error e => .error e
    | .ok y => match collect f xs with
      | .error e => .error e
      | .ok ys => .ok (y :: ys)

/-- What a K step reads. -/
structure StepData where
  a : List (List Byte)
  b : List (List Byte)
  sa : List F32
  sb : List F32
  deriving DecidableEq, Repr

/-- The rows of B that a K step multiplies: rows 0 to 31 of its step, or those a metadata entry names, row idx mod 32 of
step idx div 32 (R249, R252). -/
def rowsB (s : State) (k : Nat) (x : Cmd) : Except EngErr (List (List Byte)) :=
  let c := s.ctx k
  let e := stepBytes x.fmtAB / 32
  match c.entry with
  | some idx => collect (fun (j, i) => operandRow s k x (x.tag 1 j) x.b [] e (i / 32) (i % 32)) ((upTo idx.length).zip idx)
  | none => collect (fun r => operandRow s k x (x.tag 1 r) x.b c.portB e x.progress r) (upTo 32)

/-- The bytes of the first n elements of a row of A; those past n are not read (R252). -/
def rowA (s : State) (k : Nat) (x : Cmd) (n r : Nat) : Except EngErr (List Byte) :=
  let e := stepBytes x.fmtAB / 64
  if x.a.getLsbD 63 then operandRow s k x (x.tag 0 r) x.a (s.ctx k).portA e x.progress r
  else scratchRead s k x (x.tag 0 r) (rowOffset x.a r x.progress) ((e * n + 31) / 32)

/-- The rows and scales of a K step of n products. -/
def stepData (s : State) (k : Nat) (x : Cmd) (n : Nat) : Except EngErr StepData :=
  let t := x.progress
  match collect (rowA s k x n) (upTo 64), rowsB s k x with
  | .error r, _ => .error r
  | _, .error r => .error r
  | .ok a, .ok b =>
    if x.scale = 0 then .ok { a := a, b := b, sa := [], sb := [] }
    else match collect (scaleAt s k x 2 (x.reg 10) t) (upTo 64), collect (scaleAt s k x 3 (x.reg 11) t) (upTo 64) with
      | .error r, _ => .error r
      | _, .error r => .error r
      | .ok sa, .ok sb => .ok { a := a, b := b, sa := sa, sb := sb }

/-- A K step on every element of the tile: the new state and the flags (R249). -/
def stepAcc (s : State) (k : Nat) (x : Cmd) (n : Nat) (d : StepData) : State × Flags :=
  let cl := clusterOfCtx k
  let u := s.cluster cl
  let rows := d.b.map (fun r => (upTo 64).map (elemValue u.table x.fmtAB r))
  (upTo 64).foldl (fun (sf : State × Flags) i =>
    let row := (upTo n).map (elemValue u.table x.fmtAB (d.a.getD i []))
    let out := (upTo 64).map (fun j =>
      let pairs := row.zip (rows.map (fun r => r.getD j (.fin false 0 0)))
      let sc := if x.scale = 0 then none else some (d.sa.getD i 0, d.sb.getD j 0)
      mmaStep pairs sc (u.acc x.tile i j))
    (sf.1.setTileRow cl x.tile i (out.map (·.1)), out.foldl (fun f p => f ||| p.2) sf.2)) (s, 0)

/-- What a K step of n products costs: its multiply-accumulates and the bytes that the scratchpad delivers (R3). -/
def stepEnergy (x : Cmd) (n : Nat) : Nat :=
  let e := stepBytes x.fmtAB
  let a := if x.a.getLsbD 63 then 0 else 64 * ((e / 64 * n + 31) / 32)
  let b := if x.b.getLsbD 63 then 0 else n * (e / 32)
  64 * 64 * n * macEnergy + (a + b + if x.scale = 0 then 0 else 512) * scratchEnergy

/-- Work of a matrix command charged (R355). -/
def State.chargeMatrix (s : State) (k : Nat) (x : Cmd) (e : Nat) : State := s.charge (ctxDie k) x.root x.rcb e

/-- Whether a code format a command names is not the one in force (R246). -/
def State.wrongTable (s : State) (k f : Nat) : Bool := 4 ≤ f && f ≠ (s.cluster (clusterOfCtx k)).table.inForce

/-- A stall: the array waits, and after 256 cycles it may turn to another context (R245). -/
def State.stallArray (s : State) (k : Nat) (x : Cmd) : State :=
  let c := s.ctx k
  let since := c.stall.getD s.now
  let s := s.setCtx k { c with stall := some since }
  let s := if since + 512 ≤ s.now && (unitCtxs k).any (fun j => j ≠ k && (s.candidate j).isSome) then
      s.push .matrixSuspend [clusterOfCtx k] else s
  s.after 8 .engineCommandComplete [k, x.n]

/-- One K step of mma or mmas, or a stall for its operands (R245, R249, R252). DESIGN CHOICE (log 58): where A and B name one
port, each step gives the port's next bytes to A first; of several causes in one step, TBLERR comes first, then STREAMERR of
A and of B, then those of A's rows, B's rows and the scales (R246, R247). -/
def mmaPiece (s : State) (k : Nat) (x : Cmd) : Piece :=
  let need := stepBytes x.fmtAB
  if s.wrongTable k x.fmtAB then .err (.fault cTBLERR 0)
  else
    let c := s.ctx k
    let s := if x.opn = 4 && c.entry.isNone then
        (match c.mq with
         | [] => s
         | e :: es => s.setCtx k { c with entry := some e, mq := es }) else s
    match takePort s k x.a (s.ctx k).portA need with
    | .error e => .err e
    | .ok (s, pa) => match takePort s k x.b (s.ctx k).portB need with
      | .error e => .err e
      | .ok (s, pb) =>
        let s := s.updCtx k (fun c => { c with portA := pa, portB := pb })
        let c := s.ctx k
        if (x.opn = 4 && c.entry.isNone) || (x.a.getLsbD 63 && pa.length < need) || (x.b.getLsbD 63 && pb.length < need)
        then .idle (s.stallArray k x)
        else
          let n := match c.entry with | some l => l.length | none => 32
          match stepData s k x n with
          | .error e => .err e
          | .ok d =>
            let (s, f) := stepAcc (s.chargeMatrix k x (stepEnergy x n)) k x n d
            let s := s.updCtx k (fun c => { (c.setCmd { x with progress := x.progress + 1, retried := false }) with
              portA := [], portB := [], entry := none, stall := none, flags := c.flags ||| f })
            if (x.reg 9).toNat ≤ x.progress + 1 then .last s else .more s

/-- aclr (R253). -/
def aclrPiece (s : State) (k : Nat) (x : Cmd) : Piece :=
  .last (s.updCluster (clusterOfCtx k) (fun c => { c with tiles := c.tiles.filter (fun p => p.1 / 4096 ≠ x.tile) }))

/-- One row of acopy.in (R254). -/
def acopyInPiece (s : State) (k : Nat) (x : Cmd) : Piece :=
  let i := x.progress
  let e := elemBytes x.fmtAB
  match scratchRead s k x (x.tag 0 0) (x.a + BitVec.ofNat 64 i * x.b) (64 * e) with
  | .error r => .err r
  | .ok bs =>
    let vs := (upTo 64).map (fun j => convert 0 .rne (valueOfCode x.fmtAB (natOfBytes ((bs.drop (j * e)).take e))))
    let s := (s.chargeMatrix k x (64 * e * scratchEnergy)).setTileRow (clusterOfCtx k) x.tile i (vs.map (fun p => p.1.truncate 32))
    let s := s.updCtx k (fun c => { (c.setCmd { x with progress := i + 1 }) with
      flags := vs.foldl (fun f p => f ||| p.2) c.flags })
    if 64 ≤ i + 1 then .last s else .more s

/-- An element of a tile in an output format, and the flags (R255). -/
def outElem (u : Cluster) (tile f i j : Nat) : Nat × Flags :=
  let v := f32 (u.acc tile i j)
  if 4 ≤ f then u.table.enc v
  else
    let (w, g) := convert f .rne v
    (w.toNat, g)

/-- Byte q of row i of a tile in an output format (R90, R255). -/
def outByte (u : Cluster) (tile f i q : Nat) : Byte :=
  if f = 6 then BitVec.ofNat 8 ((outElem u tile f i (2 * q)).1 + 16 * (outElem u tile f i (2 * q + 1)).1)
  else BitVec.ofNat 8 ((outElem u tile f i (q / elemBytes f)).1 / 256 ^ (q % elemBytes f))

/-- The flags of every element of a tile in an output format (R255). -/
def outFlags (u : Cluster) (tile f : Nat) : Flags :=
  (upTo 64).foldl (fun g i => (upTo 64).foldl (fun g j => g ||| (outElem u tile f i j).2) g) 0

/-- Bytes of a row of a tile in a format. -/
def outLen (f : Nat) : Nat := if f = 6 then 32 else 64 * elemBytes f

/-- The write of acopy.out that covers byte index p; with the last one every element's flags are there (R226, R255). -/
def acopyOutPiece (s : State) (k : Nat) (x : Cmd) (p : Nat) : Piece :=
  let u := s.cluster (clusterOfCtx k)
  let n := outLen x.fmtD
  let dst : Nat → Word := fun p => x.a + BitVec.ofNat 64 (p / n) * x.b + BitVec.ofNat 64 (p % n)
  let hits : Word → Hits := fun a => (upTo 64).flatMap (fun i =>
    let r := (a - dst (i * n)).toNat
    if r < n then Hits.one (i * n + r) (64 * n) else [])
  if s.wrongTable k x.fmtD || (4 ≤ x.fmtD && u.table.state ≠ .sealed) then .err (.fault cTBLERR 0)
  else match writePiece s k x dst hits (64 * n) p
      (fun s is => .ok (s, is.map (fun i => outByte u x.tile x.fmtD (i / n) (i % n))))
      (fun s off bs => scratchWrite s k off bs) with
    | .error r => .err r
    | .ok (s', _) => match pieceOf x k (64 * n) s' with
      | .last s' => .last (s'.updCtx k (fun c => { c with flags := outFlags u x.tile x.fmtD }))
      | r => r

/-- tset: an entry, the width or the NaN substitute (R256). -/
def tsetPiece (s : State) (k : Nat) (x : Cmd) : Piece :=
  let cl := clusterOfCtx k
  let tb := (s.cluster cl).table
  let put := fun (tb : CodeTable) => Piece.last (s.updCluster cl (fun c => { c with table := tb }))
  match bits x.a 9 8 with
  | 0 => put (tb.writeEntry (bits x.a 7 0) (x.b.truncate 19))
  | 1 => if bits x.b 1 0 = 3 then .err (.fault cTBLERR 0) else put (tb.writeWidth (bits x.b 1 0))
  | _ => if entriesOf tb.width ≤ bits x.b 7 0 then .err (.fault cTBLERR 0)
         else put { tb with nansub := bits x.b 7 0 }

/-- tseal (R92, R256). -/
def tsealPiece (s : State) (k : Nat) : Piece :=
  .last (s.updCluster (clusterOfCtx k) (fun c => { c with table := c.table.startSeal.endSeal }))

/-- A piece of a matrix command, the next or one before its turn. -/
def matrixPiece (s : State) (k : Nat) (x : Cmd) (early : Option Nat) : Piece :=
  match x.opn, early with
  | 7, _ => acopyOutPiece s k x (early.getD x.progress)
  | _, some _ => .idle s
  | 3, none | 4, none => mmaPiece s k x
  | 5, none => aclrPiece s k x
  | 6, none => acopyInPiece s k x
  | 8, none => tsetPiece s k x
  | _, none => tsealPiece s k

/-- A matrix command's end: the flags go to MFLG, the tile unlocks, the array is free (R245, R250). -/
def State.endMatrix (s : State) (k : Nat) : State :=
  let s := s.updCtx k (fun c => { c with
    regs := AMap.set c.regs 13 (AMap.get 0 c.regs 13 ||| c.flags.zeroExtend 64), flags := 0, lock := none, stall := none,
    portA := [], portB := [], entry := none })
  s.freeArray k

/-! ### Failure (R258) -/

/-- The issuers of some commands told, each once, of a context's lowest lost command (R258). -/
def State.tellIssuers (s : State) (cause k n : Nat) : List Nat → List Cmd → State
  | _, [] => s
  | told, x :: xs =>
    if told.contains x.uid then s.tellIssuers cause k n told xs
    else (s.reportEng k { x with n := n } cause 0).tellIssuers cause k n (x.uid :: told) xs

/-- A context of a failed unit: faulted, its commands lost, each of their issuers told; FCMD is the lowest lost (R258). -/
def State.failCtx (s : State) (cause k : Nat) : State :=
  let lost := (s.ctx k).cmds.filter (fun x => x.state ≠ .done)
  let first := match lost with | x :: _ => x.n | [] => (s.ctx k).fcmd
  let s := lost.foldl (fun s x => s.loseTile k x) s
  let s := s.updCtx k (fun c => { c with
    fault := true, fcmd := first, cmds := c.cmds.map (fun x => if x.state = .done then x else { x with state := .faulted }) })
  (s.tellIssuers cause k first [] lost).refuseWaits k

/-- The unit of a cluster marked failed, with the underlying cause (R258). -/
def State.failUnit (s : State) (cl cause : Nat) : State :=
  (upTo 4).foldl (fun s c => s.failCtx cause (ctxKey 4 (cl / 128) (cl % 128) c))
    (s.updCluster cl (fun c => { c with failed := true, current := none }))

/-- A unit is marked failed by containment, or by the machine check of R322 (R258). Arguments: the cluster, the
underlying cause. -/
def execMatrixUnitFailed (s : State) : Host.Outcome State Fault Refusal :=
  .next (s.failUnit (s.arg 0) (s.arg 1))

end Sys2Proof.Machine
end

