-- ==== Sys2Proof/Machine/Pmig.lean ====
section
/-!
DEFINITION. The page-migration engine of a Holm die (R345-R347).
-/

namespace Sys2Proof.Machine

/-- The geometry check of a move (R346). -/
def State.moveGeom (s : State) (a b : Word) : Bool :=
  bits a 15 0 = 0 && isCanonical a && bits b 63 57 = s.pkg.device && bits b 56 53 < 12 && bits b 52 48 = 0 &&
  bits b 15 9 = 0 && bits b 8 7 ≠ 3 && bits b 6 0 = 0

/-- eng.pmig.move (R345, R346). -/
def execPmigMove (c : BitVec 3) (a b : BitVec 7) (s : State) : Host.Outcome State Fault Refusal :=
  let i : Instr := .pmigMove c a b
  runWord i s (fun s t =>
    let va := srcVal s t i 0
    let frame := srcVal s t i 1
    acceptAt s t (s.ctxOf t 7 c.toNat) 3 va frame (s.moveGeom va frame))

/-- eng.pmig.commit (R345, R346). -/
def execPmigCommit (c : BitVec 3) (s : State) : Host.Outcome State Fault Refusal :=
  runWord (.pmigCommit c) s (fun s t => acceptAt s t (s.ctxOf t 7 c.toNat) 4 0 0 true)

/-- Whether two leaves name one frame: device, die and physical offset, whatever their interleave codes (R340, R346). -/
def sameFrame (x y : Word) : Bool := bits x 63 53 = bits y 63 53 && bits x 47 16 = bits y 47 16

/-- The location of a byte of the frame that a leaf names. -/
def frameLoc (leaf : Word) (off : Nat) : Nat :=
  placeDram (bits leaf 63 57) (bits leaf 56 53) (bits leaf 8 7) (bits leaf 47 16 * 2 ^ 16 + off)

/-- Whether a queued or running task has its ABASE in a frame (R346). -/
def State.anchorsIn (s : State) (leaf : Word) : Bool :=
  s.queues.any (fun (p : Nat × Queue) => (p.2.queued ++ p.2.running).any (fun x =>
    match walk s p.2.root x.abase with
    | some (e, lvl) => isCanonical x.abase && inFrame (locOfLeaf x.abase e lvl) leaf
    | none => false))

/-- A move stops before the copy, with its outcome (R346). -/
def State.stopMove (s : State) (k out : Nat) : Piece := .last (s.updCtx k (fun c => { c with moveOut := out }))

/-- The checks of a move, at whose end the frame enters transit (R346). -/
def startMove (s : State) (k : Nat) (x : Cmd) : Piece :=
  match walk s x.root x.a with
  | none => .err (.page x.a)
  | some (e, lvl) =>
    if lvl ≠ 3 || bits e 56 53 = 15 || bits e 63 57 ≠ s.pkg.device then .err (.fault cPROT x.a)
    else if (s.ctx k).held.isSome || s.ctxs.any (fun (p : Nat × Ctx) => p.1 ≠ k && match p.2.held with
        | some f => sameFrame f e
        | none => false) then s.stopMove k 3
    else if e.getLsbD 9 then s.stopMove k 1
    else if s.anchorsIn e then s.stopMove k 2
    else .more (s.updCtx k (fun c => { (c.setCmd { x with progress := 1 }) with held := some e }))

/-- One word of the frame copied, its poison with it (R346). -/
def copyMove (s : State) (k : Nat) (x : Cmd) (f : Word) : Piece :=
  let off := 8 * (x.progress - 1)
  let src := frameLoc f off
  let dst := frameLoc x.b off
  if (s.shutFor (x.number s src) src (some k)).isSome then .err (.shut src)
  else if (s.shutFor (x.number s dst) dst (some k)).isSome then .err (.shut dst)
  else
    let s := s.charge (ctxDie k) x.root x.rcb (if s.inHbm src then 8 * hbmEnergy else 0)
    let s := (s.putWord dst (s.read64 src)).setPoison dst (s.isPoison src 8)
    if 8192 ≤ x.progress then .last (s.updCtx k (fun c => { c with moved := x.a, moveOut := 0 }))
    else .more (s.setCmd k { x with progress := x.progress + 1 })

/-- A piece of a move. -/
def movePagePiece (s : State) (k : Nat) (x : Cmd) : Piece :=
  match x.progress, (s.ctx k).held with
  | 0, _ => startMove s k x
  | _, some f => copyMove s k x f
  | _, none => .last s

/-! ### Commit (R346, R347) -/

/-- The root, region and mode under which the thread of a number translates, wherever it is. -/
def State.contextOf (s : State) (uid : Nat) : Option (Nat × Thread) :=
  match s.placeOfUid uid with
  | some t => some (unitOfThread t, s.th t)
  | none => (s.msgs.find? (fun (p : Nat × Message) => p.2.thread.uid = uid)).map
      (fun (p : Nat × Message) => (unitOfThread p.2.source, p.2.thread))

/-- The address of a part of a request that lies in a frame: the request's page or the page behind it. -/
def partVa (r : Req) (f : Word) (l : Nat) : Word :=
  let o := dieOffset l (bits f 8 7) % 2 ^ 16
  let page := r.va.toNat / 2 ^ 16
  BitVec.ofNat 64 ((if o / 8 < r.va.toNat % 2 ^ 16 / 8 then page + 1 else page) * 2 ^ 16 + o)

/-- The right a request's operation asks for (R305). -/
def rightOf : MemOp → Right
  | .load _ _ _ | .feBit _ | .vload _ _ | .words | .fel _ _ => .r
  | .store _ _ | .vstore _ | .taken _ _ _ _ _ | .post _ _ | .fes _ _ => .w
  | .amo _ _ _ _ => .rw

/-- A parked thread that awaited something in a frame made to look again: its instruction is taken up and walks anew. -/
def Thread.lookAgain (th : Thread) (l : Nat) : Thread :=
  { th with park := th.park.map (fun p => { p with await := .transit l }) }

/-- A retried request whose walk now faults: an ordinary access traps. The spec says nothing of the others: an RLX load
is poisoned and a posted store refused (log 10). -/
def State.retryFails (s : State) (k : Nat) (r : Req) (hit : List Nat) (c : Nat) (va : Word) : State :=
  match r.posted with
  | some (u, e) => (s.endReq k).push .postedRefusal [u, e, 1]
  | none =>
    if r.rlx then
      let r := { r with got := hit.foldl (fun m p => AMap.set m p { poison := true }) r.got }
      let s := s.setReq k r
      if r.complete then s.push .rlxLoadReply [k] else s
    else match (s.th r.thread).park with
      | some p => if p.await = .reply k then
          (s.endReq k).takeTrap r.thread c (accessInfo (rightOf r.op)) va 0 (encode p.instr) else s
      | none => s

/-- A retried request sent anew to its parts' present places, under the leaves that its walks found (R308); a `.g` access whose home has changed migrates again, and
re-issues there as a whole (R197, R347; log 10). -/
def State.retrySends (s : State) (f : Word) (k : Nat) (r : Req) (hit parts : List Nat) : State :=
  let l := parts.headD 0
  let g := match (s.th r.thread).park with | some p => p.await = .reply k && isG p.instr | none => false
  if g && s.homeUnit l ≠ some (unitOfThread r.thread) then
    (s.endReq k).updTh r.thread (fun th => th.lookAgain l)
  else
    let th := (s.contextOf r.uid).map (·.2)
    let level := fun (p : Nat) => match leafOf s (tlbOfUnit (unitOfThread r.thread)) (th.elim r.root (·.root))
        (partVa r f (r.parts.getD p 0)) with
      | some (_, lvl) => lvl
      | none => 0
    let s := s.setReq k { r with
      parts := parts, arrived := [],
      levels := (upTo r.parts.length).map (fun p => if hit.contains p then level p else r.levels.getD p 0) }
    let s := match r.posted with
      | some (u, e) => s.updEntry u e (fun x => { x with loc := l })
      | none => s
    hit.foldl (fun s p => s.push .homeRequest [k, p]) s

/-- A request answered RETRY for its unperformed parts in a frame: the unit that sent it walks again, and traps or sends
it anew (R347). -/
def State.retryReq (s : State) (f : Word) (k : Nat) : State :=
  let r := s.req k
  let hit := r.unperformed.filter (fun p => inFrame (r.parts.getD p 0) f)
  if hit.isEmpty then s
  else
    let s := s.updHome (homeOf (r.parts.headD 0)) (fun x => { x with waiters := x.waiters.filter (· ≠ k) })
    match s.contextOf r.uid with
    | none => s.endLoad k
    | some (_, th) =>
      let go := fun (p : Nat) =>
        let va := partVa r f (r.parts.getD p 0)
        (resolve s (tlbOfUnit (unitOfThread r.thread)) th.root th.rcb va (rightOf r.op) (!th.st.mode), va)
      match hit.findSome? (fun p => match go p with | (.error c, va) => some (c, va) | (.ok _, _) => none) with
      | some (c, va) => s.retryFails k r hit c va
      | none => s.retrySends f k r hit ((upTo r.parts.length).map (fun p =>
          match hit.contains p, (go p).1 with | true, .ok l => l | _, _ => r.parts.getD p 0))

/-- The waits for a join word in a frame, which look again where it stands now (R347). -/
def State.retryWaits (s : State) (f : Word) : State :=
  { s with threads := s.threads.map (fun (p : Nat × Thread) => (p.1,
      match p.2.park with
      | some q => (match q.await with | .joinZero l => if inFrame l f then p.2.lookAgain l else p.2 | _ => p.2)
      | none => p.2)) }

/-- The saved threads whose record stands in a frame that another has replaced: their save engines walk again, and what is no
longer mapped is no record (R346, R347). -/
def State.rewalkSaved (s : State) (f : Word) : State :=
  { s with units := s.units.map (fun (p : Nat × Core) => (p.1, { p.2 with cache := p.2.cache.filterMap (fun c =>
      if !inFrame c.loc f then some c
      else (walk s c.thread.root c.va).map (fun (leaf, lvl) =>
        { c with leaf := leaf, level := lvl, loc := locOfLeaf c.va leaf lvl })) })) }

/-- commit: every buffered leaf that names the frame is dropped, the frame leaves transit, and each access parked on it
is answered RETRY (R346). Accesses translated with a dropped leaf all go to the frame, so none is left to wait for. -/
def commitPiece (s : State) (k : Nat) : Piece :=
  match (s.ctx k).held with
  | none => .last s
  | some f =>
    let s := { s with tlbs := s.tlbs.map (fun (p : Nat × List TlbEntry) =>
      (p.1, p.2.filter (fun e => !(e.level = 3 && sameFrame e.leaf f)))) }
    let s := ((s.dropHeld k).retryWaits f).rewalkSaved f
    .last (s.reqs.foldl (fun s p => s.retryReq f p.1) s)

/-- A piece of a page-migration command; no other agent reaches the frame, so that the order of its words is not seen. -/
def pmigPiece (s : State) (k : Nat) (x : Cmd) (early : Option Nat) : Piece :=
  if early.isSome then .idle s else if x.opn = 3 then movePagePiece s k x else commitPiece s k

end Sys2Proof.Machine
end

