-- ==== Sys2Proof/Machine/EngineRun.lean ====
section
/-!
DEFINITION. The events of engine commands: start, progress and completion, faults and page requests (R220-R223, R310).
-/

namespace Sys2Proof.Machine

/-- The next piece of a command of any engine, or one before its turn: the write of a byte index (R208). -/
def enginePiece (s : State) (k : Nat) (x : Cmd) (early : Option Nat) : Piece :=
  match ctxEng k with
  | 0 => match x.opn, early with
    | 3, _ | 4, _ => movePiece s k x (early.getD x.progress)
    | 8, _ => streamPiece s k x early
    | _, some _ => .idle s
    | 5, none => bopenPiece s k x
    | 6, none => .last (s.closeBank k)
    | _, none => csrPiece s k x
  | 4 => matrixPiece s k x early
  | 5 => gsPiece s k x (early.getD x.progress)
  | 6 => bmacPiece s k x early
  | _ => pmigPiece s k x early

/-- A word that a command reads before its turn, by the name of a byte in it; of a page move no other agent sees the order
(R208). -/
def engineAhead (s : State) (k : Nat) (x : Cmd) (name : Nat) : State :=
  match ctxEng k, x.opn with
  | 0, 3 | 0, 4 => moveAhead s k x name
  | 0, 7 => csrAhead s k x name
  | 0, 8 => streamAhead s k x name
  | 4, 3 | 4, 4 | 4, 6 => scratchAhead s k x name
  | 5, _ => gsAhead s k x name
  | 6, 4 => bcastAhead s k x name
  | 6, 5 => macAhead s k x name
  | _, _ => s

/-- A queued command starts when its context lets it, and a running stream takes up what it can move (R221, R244).
Arguments: the context, the command. -/
def execEngineCommandStart (s : State) : Host.Outcome State Fault Refusal :=
  let k := s.arg 0
  let n := s.arg 1
  .next (match (s.ctx k).cmd n with
    | none => s
    | some x =>
      if ctxEng k = 4 then s.startArray (clusterOfCtx k)
      else if s.mayStart k x then (s.setCmd k { x with state := .running, started := true }).push
          .engineCommandComplete [k, n]
      else if x.state = .running && ctxEng k = 0 && x.opn = streamOpn then s.push .engineCommandComplete [k, n]
      else s)

/-- A command's access that no home holds up any more. -/
def State.arrivedAt (s : State) (k n : Nat) (a : Option (Nat × Nat)) : State :=
  s.updCtx k (fun c => { c with cmds := c.cmds.map (fun y => if y.n = n then { y with arrived := a } else y) })

/-- An access held up: the command keeps the number under which it came to the home (R228, R282). -/
def State.holdCmd (s : State) (k : Nat) (x : Cmd) (l : Nat) : State :=
  { s with fresh := s.fresh + 1 }.arrivedAt k x.n (some (x.number s l, l))

/-- What a command's fault comes to: a page request or a fault of its context, the denied leaf dropped (R222, R306). -/
def State.engFailed (s : State) (k : Nat) (x : Cmd) : EngErr → State
  | .shut l => s.holdCmd k x l
  | .page va => ((s.engSweep k x .rw [va]).setCmd k { x with state := .parked }).push .pageRequest [k, x.n, cPAGE, va.toNat]
  | .fault c va => (s.engSweep k x .rw [va]).push .engineFault [k, x.n, c, va.toNat]

/-- A running command goes on: it performs its next write or step, and completes with the last (R221, R222). Arguments:
the context, the command; then, for what the plan takes before its turn, 1 and a byte index, or 2 and the name of a
byte read ahead (R208). -/
def execEngineCommandComplete (s : State) : Host.Outcome State Fault Refusal :=
  let k := s.arg 0
  let n := s.arg 1
  .next (match (s.ctx k).cmd n with
    | none => s
    | some x =>
      if x.state ≠ .running then s
      else if s.arg 2 = 2 then engineAhead s k x (s.arg 3)
      else if s.arg 2 = 1 then match enginePiece s k x (some (s.arg 3)) with
        | .more s' | .last s' | .idle s' => s'
        | .wait | .err (.shut _) => s
        | .err e => s.engFailed k x e
      else match enginePiece s k x none with
        | .more s' => (s'.arrivedAt k n none).push .engineCommandComplete [k, n]
        | .last s' => (if ctxEng k = 4 then s'.endMatrix k else s').completeCmd k n
        | .idle s' => s'.arrivedAt k n none
        | .wait => s.after 80 .engineCommandComplete [k, n]
        | .err (.shut l) => (s.holdCmd k x l).after 8 .engineCommandComplete [k, n]
        | .err e => s.engFailed k x e)

/-- A command faults its context (R222). Arguments: the context, the command, the cause, the address. -/
def execEngineFault (s : State) : Host.Outcome State Fault Refusal :=
  let k := s.arg 0
  let n := s.arg 1
  .next (match (s.ctx k).cmd n with
    | none => s
    | some x => if x.state = .faulted || x.state = .done then s
        else s.faultCtx k n (s.arg 2) (BitVec.ofNat 64 (s.arg 3)))

/-- Whether a command's steps are checked: an mma of a matrix unit, a mac of a bank MAC (R320). -/
def stepChecked (k : Nat) (x : Cmd) : Bool := (ctxEng k = 4 && (x.opn = 3 || x.opn = 4)) || (ctxEng k = 6 && x.opn = 5)

/-- The residue check of a command's present step fails: the step is recomputed from what was held before it. A second
mismatch in it is a machine check: the matrix unit fails, or the bank MAC context is faulted with ARITH and its channel
leaves all-bank mode (R321, R322). -/
def State.stepFails (s : State) (k n : Nat) : State :=
  match (s.ctx k).cmd n with
  | none => s
  | some x =>
    if x.state ≠ .running || !stepChecked k x then s
    else if !x.retried then s.setCmd k { x with retried := true }
    else if ctxEng k = 4 then s.failUnit (clusterOfCtx k) cARITH
    else (s.faultCtx k n cARITH 0).closeBanks k

/-- A parked command's page request is sent (R310). Arguments: the context, the command, the cause, the address. -/
def execPageRequest (s : State) : Host.Outcome State Fault Refusal :=
  .next (s.sendPageRequest (s.arg 0) (s.arg 1) (s.arg 2) (BitVec.ofNat 64 (s.arg 3)))

end Sys2Proof.Machine
end

