-- ==== Sys2Proof/Machine/LoadStore.lean ====
section
/-!
DEFINITION. Loads and stores, scalar and vector, with their RLX and `.g` forms (R62, R63, R169-R171, R180-R182, R197).
-/

namespace Sys2Proof.Machine

/-- Whether a destination can be left pending: an RLX load into another space is made as an ordinary one. -/
def canPend (d : BitVec 7) : Bool := d.toNat < 112

/-- ld: n = 2^w bytes at s[a] + imm * n (R62). DESIGN CHOICE (log 50): QUEUE of a `.g` form in a server slot comes before
ALIGN, PAGE and PROT (R63, R195). -/
def execLd (d a : BitVec 7) (w : BitVec 2) (x g : BitVec 1) (imm : BitVec 8) (s : State) :
    Host.Outcome State Fault Refusal :=
  let i : Instr := .ld d a w x g imm
  runWord i s (fun s t =>
    let n := 2 ^ w.toNat
    let va := srcVal s t i 0 + sext imm * BitVec.ofNat 64 n
    let op : MemOp := .load n (x = 1) d
    if g = 1 && inServer t then .trap cQUEUE 0 0 0
    else match addrOf s t va n .r true with
      | .error r => r
      | .ok l => match gMove s t (if isSlotWin l then 0 else g) l with
        | some r => r
        | none =>
          if (s.th t).st.ppRlx && !isSlotWin l && canPend d then rlxLoad s t va op [d.toNat] [l]
          else access s t i va op [l])

/-- st: the low n bytes of s[b] (R62); with RLX, one journal entry (R182). -/
def execSt (b a : BitVec 7) (w : BitVec 2) (g : BitVec 1) (imm : BitVec 8) (s : State) :
    Host.Outcome State Fault Refusal :=
  let i : Instr := .st b a w g imm
  runWord i s (fun s t =>
    let n := 2 ^ w.toNat
    let va := srcVal s t i 1 + sext imm * BitVec.ofNat 64 n
    let v := srcVal s t i 0
    if g = 1 && inServer t then .trap cQUEUE 0 0 0
    else match addrOf s t va n .w true with
      | .error r => r
      | .ok l => match gMove s t (if isSlotWin l then 0 else g) l with
        | some r => r
        | none =>
          if (s.th t).st.ppRlx && !isSlotWin l then
            let (data, mask) := blockOf l n v.toNat
            postAll s t [(va, .post data mask, data, mask, none, [l / 8 * 8])]
          else access s t i va (.store n v) [l])

/-! ### `vmem` (R169-R171) -/

/-- The addresses of a vector access's blocks. -/
def blockAddrs (va : Word) (n : BitVec 2) : List Word := (upTo (n.toNat + 1)).map (fun j => va + BitVec.ofNat 64 (32 * j))

/-- The locations of a vector access's blocks, or its trap in the order of R170: alignment, canonical form, the window,
every translation, every right. -/
def blockLocs (s : State) (t : Nat) (va : Word) (n : BitVec 2) (need : Right) : Except Res (List Nat) :=
  let info := accessInfo need
  let th := s.th t
  let as := blockAddrs va n
  let buf := tlbOfUnit (unitOfThread t)
  if va.toNat % 32 ≠ 0 then .error (.trap cALIGN info va 0)
  else if isWindow va then
    if windowOk s th.root th.rcb va && bits va 14 0 + 32 * (n.toNat + 1) ≤ 0x6000 then
      .ok (as.map (fun a => locLocal a.toNat))
    else
      let out := fun (a : Word) => !windowOk s th.root th.rcb a || bits a 55 15 ≠ bits va 55 15
      .error (.trap cPROT info ((as.find? out).getD va) 0)
  else if !isCanonical va then .error (.trap cPAGE info va 0)
  else match as.find? (fun a => !isCanonical a || (leafOf s buf th.root a).isNone) with
    | some a => .error (.trap cPAGE info a 0)
    | none => as.mapM (fun a => match translate s buf th.root a need (!th.st.mode) with
        | .ok l => .ok l
        | .error c => .error (.trap c info a 0))

/-- The words of blocks. -/
def wordsOf (ls : List Nat) : List Nat := ls.flatMap (fun l => [l, l + 8, l + 16, l + 24])

/-- A vector access's checks, then what it does at its blocks (R170, R195, R197). -/
def vectorAccess (s : State) (t : Nat) (g : BitVec 1) (va : Word) (n : BitVec 2) (need : Right)
    (go : List Nat → Res) : Res :=
  if g = 1 && inServer t then .trap cQUEUE 0 0 0
  else match blockLocs s t va n need with
    | .error r => r
    | .ok ls => match gMove s t g (ls.headD 0) with
      | some r => r
      | none => go ls

/-- vmem.ld (R169); with RLX its registers become pending (R171). -/
def execVmemLd (v : BitVec 5) (a : BitVec 7) (g : BitVec 1) (n : BitVec 2) (imm : BitVec 10) (s : State) :
    Host.Outcome State Fault Refusal :=
  let i : Instr := .vmemLd v a g n imm
  runWord i s (fun s t =>
    let va := srcVal s t i 0 + sext imm * 32
    vectorAccess s t g va n .r (fun ls =>
      if (s.th t).st.ppRlx && (vstreamOf v).isNone then
        rlxLoad s t va (.vload v n.toNat) ((vecDsts i).flatMap aliasRegs) (wordsOf ls)
      else access s t i va (.vload v n.toNat) (wordsOf ls)))

/-- vmem.st (R169); with RLX one journal entry a block (R171, R182). -/
def execVmemSt (v : BitVec 5) (a : BitVec 7) (g : BitVec 1) (n : BitVec 2) (imm : BitVec 10) (s : State) :
    Host.Outcome State Fault Refusal :=
  let i : Instr := .vmemSt v a g n imm
  runWord i s (fun s t =>
    let va := srcVal s t i 0 + sext imm * 32
    let xs := (upTo (n.toNat + 1)).map (fun j => vecVal s t i j)
    vectorAccess s t g va n .w (fun ls =>
      if (s.th t).st.ppRlx then
        postAll s t (((blockAddrs va n).zip (ls.zip xs)).map (fun (a, l, x) =>
          (a, .post (bytesOfNat 32 x.toNat) (BitVec.allOnes 32), bytesOfNat 32 x.toNat, BitVec.allOnes 32, none,
            wordsOf [l])))
      else access s t i va (.vstore (xs.flatMap (fun x =>
        [x.extractLsb' 0 64, x.extractLsb' 64 64, x.extractLsb' 128 64, x.extractLsb' 192 64]))) (wordsOf ls)))

end Sys2Proof.Machine
end

