-- ==== Sys2Proof/Machine/Migrate.lean ====
section
/-!
DEFINITION. Migration: `mig`, context messages, inbound buffers, and the return trap (R196-R201, R276).
-/

namespace Sys2Proof.Machine

/-- The location a `mig` names, or its trap (R196): PAGE, PROT for a window outside the budget, PAGE for no valid
translation. -/
def migAddr (s : State) (t : Nat) (va : Word) : Except Res Nat :=
  let th := s.th t
  if isWindow va then
    if windowOk s th.root th.rcb va then .ok (locLocal va.toNat) else .error (.trap cPROT 1 va 0)
  else if !isCanonical va then .error (.trap cPAGE 1 va 0)
  else match leafOf s (tlbOfUnit (unitOfThread t)) th.root va with
    | none => .error (.trap cPAGE 1 va 0)
    | some (leaf, lvl) => .ok (locOfLeaf va leaf lvl)

/-- mig: move to home(s[a]) with the registers of the mask, and go on at pc + 4 (R196). -/
def execMig (a : BitVec 7) (l : BitVec 15) (s : State) : Host.Outcome State Fault Refusal :=
  let i : Instr := .mig a l
  runWord i s (fun s t =>
    if inServer t then .trap cQUEUE 0 0 0
    else match migAddr s t (srcVal s t i 0) with
      | .error r => r
      | .ok x => match s.homeUnit x with
        | none => .trap cMIGREF 0 0 0
        | some u =>
          if (s.th t).twin.isSome then .trap cMIGREF 0 0 0
          else if !s.drained t then .park (.drain 2 false)
          else if u = unitOfThread t then .done s
          else if s.destRefused t x then .trap cMIGREF 0 0 0
          else match s.heldBack t with
            | some a => .park a
            | none => .sent ((s.finish t i).sendContext t u false l))

/-! ### Context messages (R198-R201) -/

/-- A carried thread in a slot at a base, RUN (R198). -/
def landed (th : Thread) (base : Nat) : Thread := { th with status := .run, base := base, park := none, msg := none }

/-- A message of a ticket. -/
def State.message (s : State) (k : Nat) : Option Message := (s.msgs.find? (fun p => p.1 = k)).map (·.2)

/-- The source slot becomes FREE, each pending register leaving a forwarding entry (R198, R201). -/
def State.vacate (s : State) (t : Nat) : State :=
  let th := s.th t
  (s.updCore (unitOfThread t) (fun c =>
    { c with forward := c.forward ++ (th.pending.map (fun p => (p.2, th.uid))) })).freeSlot t

/-- The inbound buffer entries of a unit (R199). -/
def inboundRoom (u : Nat) : Nat := if isSkerry u then 2 else 4

/-- A context message reaches its destination and is accepted into a slot, accepted into the inbound buffer, or refused
(R198, R199); it waits where a home holds up its region's RCB (R228). Arguments: the message; then its number and a location. -/
def execContextMessageArrival (s : State) : Host.Outcome State Fault Refusal :=
  let k := s.arg 0
  .next (match s.message k with
    | none => s
    | some m =>
      if m.buffered then s
      else
        let u := m.dest
        match s.rcbShut m.thread.root m.thread.rcb (s.numberAt 1) with
        | some a => s.tryAgain .contextMessageArrival [k] a
        | none => match s.fillPlace u m.thread.lim m.thread.root m.thread.rcb false with
        | some (n, b) =>
          let s := s.vacate m.source
          ({ s with msgs := AMap.del s.msgs k }).fill (u * 64 + n) (landed m.thread b)
        | none =>
          if (s.core u).inbound.length < inboundRoom u then
            let s := s.vacate m.source
            let s := { s with msgs := AMap.set s.msgs k { m with buffered := true, arrived := s.now } }
            (s.updCore u (fun c => { c with inbound := c.inbound ++ [k] })).after 16000 .inboundSpill [u]
          else s.after 8000 .migrationResend [m.source])

/-- A refused context message is sent again (R199). Argument: the thread. -/
def execMigrationResend (s : State) : Host.Outcome State Fault Refusal :=
  .next (match (s.th (s.arg 0)).msg with
    | some k => s.push .contextMessageArrival [k]
    | none => s)

/-- The oldest buffered context that fits a free slot: message, slot and base (R199). -/
def State.fitting (s : State) (u : Nat) : Option (Nat × Message × Nat × Nat) :=
  (s.core u).inbound.findSome? (fun k => match s.message k with
    | none => none
    | some m => if (s.rcbShut m.thread.root m.thread.rcb (s.numberAt 1)).isSome then none
      else (s.fillPlace u m.thread.lim m.thread.root m.thread.rcb false).map (fun (n, b) => (k, m, n, b)))

/-- What holds up the RCB of a buffered context, so that the buffer is looked at again (R228). -/
def State.inboundShut (s : State) (u : Nat) : Option Await :=
  if s.allOpen then none
  else (s.core u).inbound.findSome? (fun k => (s.message k).bind (fun m =>
    s.rcbShut m.thread.root m.thread.rcb (s.numberAt 1)))

/-- A buffered context enters the first fitting slot that has freed; where none fits, a spilled record is next (R199,
R200). Arguments: the unit; then its number and a location, once it waits for an RCB (R228). -/
def execBufferedContextFill (s : State) : Host.Outcome State Fault Refusal :=
  let u := s.arg 0
  let fit := s.fitting u
  let s := match s.inboundShut u with | some a => s.tryAgain .bufferedContextFill [u] a | none => s
  .next (match fit with
    | none => if (s.core u).spill.isEmpty then s else s.push .spillRestore [u]
    | some (k, m, n, b) =>
      let s := s.updCore u (fun c => { c with inbound := c.inbound.filter (· ≠ k) })
      (({ s with msgs := AMap.del s.msgs k }).fill (u * 64 + n) (landed m.thread b)).push .bufferedContextFill [u])

/-- The return trap of a thread on a skerry (R46, R276). Arguments: the thread, the word it issued. -/
def execReturnTrap (s : State) : Host.Outcome State Fault Refusal :=
  .next (match decodeRaw (BitVec.ofNat 32 (s.arg 1)) with
    | some i => s.returnTrap (s.arg 0) i
    | none => s)

end Sys2Proof.Machine
end

