-- ==== Sys2Proof/Machine/Delegate.lean ====
section
/-!
DEFINITION. Delegation: `dlg`, the server slot and its queue (R194, R195).
-/

namespace Sys2Proof.Machine

/-- The location a `dlg` names, or its trap: PROT for a window or host memory, PAGE for no translation; no right is
checked (R194). -/
def dlgAddr (s : State) (t : Nat) (va : Word) : Except Res Nat :=
  if isWindow va then .error (.trap cPROT 1 va 0)
  else if !isCanonical va then .error (.trap cPAGE 1 va 0)
  else match leafOf s (tlbOfUnit (unitOfThread t)) (s.th t).root va with
    | none => .error (.trap cPAGE 1 va 0)
    | some (leaf, lvl) =>
      let l := locOfLeaf va leaf lvl
      if isHost l then .error (.trap cPROT 1 va 0) else .ok l

/-- The call a thread sends (R194). -/
def dlgCallOf (s : State) (t k : Nat) (arg entry : Word) : DlgCall :=
  let th := s.th t
  { ticket := k, arg := arg, entry := entry, s5 := th.reg 5, s6 := th.reg 6, s7 := th.reg 7, s8 := th.reg 8,
    rcb := th.rcb, root := th.root, mode := th.st.mode, caller := none, entryOf := none }

/-- The checks and the drain before a call is sent to the server of a home on this device (R194, R195). -/
def dlgSend (s : State) (t : Nat) (va : Word) (far : State → Res) (go : State → Nat → Res) : Res :=
  if inServer t then .trap cQUEUE 0 0 0
  else match dlgAddr s t va with
    | .error r => r
    | .ok l => drainThen s t (fun s => match s.homeUnit l with
      | none => far s
      | some u => if 64 ≤ (s.core u).dlgq.length then .park (.dlgRoom u) else go s u)

/-- dlg.call: park until the server's reply (R194). An unreachable device's reply is poisoned (R349). -/
def execDlgCall (d a b : BitVec 7) (s : State) : Host.Outcome State Fault Refusal :=
  let i : Instr := .dlgCall d a b
  runWord i s (fun s t =>
    let va := srcVal s t i 0
    let (k, s1) := s.tick
    let parked := s1.parkOn t i (.dlgReply k)
    dlgSend s t va
      (fun _ => match dlgAddr s t va with
        | .ok l => if s.outOfReach l then .trap cPOISON 1 va 0 else .sent parked
        | .error r => r)
      (fun _ u => .sent ((parked.updCore u (fun c =>
        { c with dlgq := c.dlgq ++ [{ dlgCallOf s t k va (srcVal s t i 1) with caller := some t, d := d }] })).push
          .delegationServe [u])))

/-- dlg.post: one journal entry until the routine ends (R194). -/
def execDlgPost (a b : BitVec 7) (s : State) : Host.Outcome State Fault Refusal :=
  let i : Instr := .dlgPost a b
  runWord i s (fun s t =>
    let va := srcVal s t i 0
    let u0 := unitOfThread t
    let th := s.th t
    let (k, s1) := s.tick
    let post := fun (l : Nat) (go : Nat → State → State) => match s.freeEntry u0 with
      | none => Res.park (.journalRoom 1)
      | some e =>
        let entry : JEntry := { va := va, loc := l, pc := th.pc, uid := th.uid, thread := t, rcb := th.rcb, dlg := true }
        .done (go e (s1.updCore u0 (fun c => { c with journal := AMap.set c.journal e entry })))
    dlgSend s t va
      (fun _ => match dlgAddr s t va with
        | .ok l => post l (fun e s' => if s.outOfReach l then s'.push .postedRefusal [u0, e, 1] else s')
        | .error r => r)
      (fun _ u => post 0 (fun e s' => (s'.updCore u (fun c =>
          { c with dlgq := c.dlgq ++ [{ dlgCallOf s t k va (srcVal s t i 1) with entryOf := some (u0, e) }] })).push
            .delegationServe [u])))

/-- The server slot takes the oldest call: PC, s3, s5 to s8 and the caller's region (R194). DESIGN CHOICE (log 17): a
call whose region cannot be filled keeps its place and is tried again (R304, R368); one whose RCB a home holds up waits (R228).
Arguments: the unit; then its number and a location, once it waits at a closed home. -/
def execDelegationServe (s : State) : Host.Outcome State Fault Refusal :=
  let u := s.arg 0
  let t := u * 64 + 31
  .next (match (s.core u).dlgq with
    | [] => s
    | c :: rest =>
      if (s.th t).status ≠ .free || (s.core u).serving.isSome then s
      else match s.rcbShut c.root c.rcb (s.numberAt 1) with
      | some a => s.tryAgain .delegationServe [u] a
      | none =>
      if (s.fillBudget c.root c.rcb).isNone then s.after 8000 .delegationServe [u]
      else
        let s := s.updCore u (fun x => { x with dlgq := rest, serving := some c })
        let th := freshThread c.entry c.root c.rcb c.mode 1008 16 s.fresh
        let th := th.setRegs [(3, c.arg), (5, c.s5), (6, c.s6), (7, c.s7), (8, c.s8)]
        let s := { (s.fill t { th with call := some c.ticket }) with fresh := s.fresh + 1 }
        if c.entry = 0 then s.push .delegationRoutineEnd [u] else s)

/-- The end of a call at its server: the caller's s[d] gets the server's s5, or the posting entry is freed (R194). -/
def State.endCall (s : State) (c : DlgCall) (result : Word) : State :=
  match c.entryOf with
  | some (u, e) => s.freeJournal u e
  | none => match c.caller with
    | some t => match (s.th t).park with
      | some p => if p.await = .dlgReply c.ticket then (s.writeDest t c.d result).finish t p.instr else s
      | none => s
    | none => s

/-- The routine in a server slot ends: the call is answered, the slot scrubbed, the next call served (R194). DESIGN CHOICE
(log 55): where the routine ends with its s5 still pending or poisoned, the answer is the value that the register holds.
Argument: the unit. -/
def State.routineEnd (s : State) (u : Nat) : State :=
  let t := u * 64 + 31
  match (s.core u).serving with
  | none => s
  | some c =>
    let result := (s.th t).reg 5
    let s := (s.updCore u (fun x => { x with serving := none })).freeSlot t
    s.endCall c result

def execDelegationRoutineEnd (s : State) : Host.Outcome State Fault Refusal := .next (s.routineEnd (s.arg 0))

end Sys2Proof.Machine
end

