-- ==== Sys2Proof/Machine/Traps.lean ====
section
/-!
DEFINITION. Traps and their handlers: asynchronous causes, delivery, the handler slot, `sys.tres` and `sys.tkill`
(R291-R301), and the matching of twins' messages (R326, R327).
-/

namespace Sys2Proof.Machine

/-! ### Traps (R291, R292) -/

/-- A thread traps (R292). Arguments: the thread, cause, INFO, ADDR, DATA, the word fetched. -/
def execTrap (s : State) : Host.Outcome State Fault Refusal :=
  .next (s.takeTrap (s.arg 0) (s.arg 1) (s.arg 2) (BitVec.ofNat 64 (s.arg 3)) (BitVec.ofNat 64 (s.arg 4))
    (BitVec.ofNat 32 (s.arg 5)))

/-- The held cause that comes first: the oldest POSTREF, else the oldest (R291). -/
def Thread.firstHeld (th : Thread) : Option Held := (th.held.find? (fun h => h.cause = cPOSTREF)).or th.held.head?

/-- A held cause taken at a step boundary (R291). -/
def State.takeHeld (s : State) (t : Nat) : State :=
  match (s.th t).firstHeld with
  | none => s
  | some h => (s.updTh t (fun th => { th with held := th.held.erase h })).takeTrap t h.cause h.info h.addr h.data 0 true
      h.entry (if h.jlost then recJLOST else 0)

/-- One held cause is taken, a parked instruction first abandoned or completed (R291). Argument: the thread. -/
def execAsyncCauseTaken (s : State) : Host.Outcome State Fault Refusal :=
  let t := s.arg 0
  .next (if (s.th t).held.isEmpty then s
    else match s.unpark t with
      | none => s
      | some s => if (s.th t).status = .run then s.takeHeld t else s)

/-! ### Delivery (R292, R293, R295, R310) -/

/-- A record offered to a buddy, whose queue holds 4; a refused one is kept for 1 microsecond at least (R293). -/
def State.offer (s : State) (u : Nat) (x : Nat × Delivery) : State :=
  if (s.core x.1).deliveries.length < 4 then
    (s.updCore x.1 (fun c => { c with deliveries := c.deliveries ++ [{ x.2 with due := 0 }] })).push .handlerFill [x.1]
  else (s.updCore u (fun c => { c with resends := c.resends ++ [(x.1, { x.2 with due := s.now + 8000 })] })).after 8000
    .trapRecordResend [u]

/-- The records a unit keeps whose time has come, each offered to its buddy (R293). -/
def State.deliver (s : State) (u : Nat) : State :=
  let due := (s.core u).resends.filter (fun x => x.2.due ≤ s.now)
  let s := s.updCore u (fun c => { c with resends := c.resends.filter (fun x => s.now < x.2.due) })
  due.foldl (fun s x => s.offer u x) s

/-- A record reaches the buddy core: accepted into its queue, or refused (R293). Arguments: the unit that sends it; and 1 for the
records that wait until their HANDLER can be read, with the first one's number and location at a closed home (R228). -/
def execTrapRecordDelivery (s : State) : Host.Outcome State Fault Refusal :=
  let u := s.arg 0
  .next (if s.arg 1 = 1 then s.sendWaiting (s.core u).unsent.length u else s.deliver u)

/-- The causes for saved threads whose records stood at closed homes, each told again (R228, R319, R347). -/
def State.tellSaved (s : State) : State :=
  s.pkg.reports.foldl (fun s x => s.tellThread x (s.numberAt 1)) (s.setPkg { s.pkg with reports := [] })

/-- A refused record is sent again after at least 1 microsecond (R293). Argument: the unit that sends it; or, for the
records that wait for their fault-domain ring, the first one's number and location at a closed home; or the same behind a 0,
for the causes of saved threads (R228, R298, R319). -/
def execTrapRecordResend (s : State) : Host.Outcome State Fault Refusal :=
  .next (match s.ev with
    | [u] => s.deliver u
    | [_, _, _] => s.tellSaved
    | _ => s.postWaiting s.pkg.faults.length)

/-- The handler's thread for a delivery: supervisor mode, L = 16, s3 the cause, s4 the saved PC, s5 the window base
(R295, R310). -/
def handlerThread (u uid : Nat) (d : Delivery) : Thread :=
  let th := freshThread d.handler d.root d.rcb true 2032 16 uid
  let th := th.setRegs [(3, BitVec.ofNat 64 d.record.cause), (4, if d.frozen.isSome then d.record.pc else 0),
    (5, windowAddr (dieOf u) (clusterOf u) (coreOf u) 0x6000)]
  { th with record := d.record, handles := d.frozen, pageReq := d.command }

/-- A free handler slot is filled from the oldest record (R293, R295). Fills of a contained region are refused, a delivery
that cannot be filled is undeliverable (R292, R325, R368), and one whose region's RCB stands at a closed home is looked at
again (R228). Argument: the core. -/
def execHandlerFill (s : State) : Host.Outcome State Fault Refusal :=
  let u := s.arg 0
  .next (match (s.core u).deliveries with
    | [] => s
    | d :: rest =>
      if (s.th (u * 64 + 63)).status ≠ .free then s
      else match s.rcbShut d.root d.rcb (s.numberAt 1) with
      | some a => s.tryAgain .handlerFill [u] a
      | none =>
        let s := s.updCore u (fun c => { c with deliveries := rest })
        if s.isContained d.root d.rcb then s.push .handlerFill [u]
        else if !rcbUsable s d.root d.rcb then (s.postFault d.root d.rcb d.record).push .handlerFill [u]
        else { (s.fill (u * 64 + 63) (handlerThread u s.fresh d)) with fresh := s.fresh + 1 })

/-! ### Removing a thread (R301, R323-R325) -/

/-- Whether every posted entry of a thread is acknowledged or refused (R301). -/
def State.settledPosts (s : State) (t : Nat) : Bool := (s.posted t).all (fun p => p.2.refused.isSome)

/-- A call whose server's thread is removed is answered with a value the spec does not give (log 4). -/
def State.dropCall (s : State) (c : DlgCall) : State :=
  let (n, s) := s.drawFree
  s.endCall c (Config.freeWord n)

/-- A slot's thread leaves without trace: refused entries discarded, the partition scrubbed, a served call ended. -/
def State.scrub (s : State) (t : Nat) : State :=
  let u := unitOfThread t
  let s := (s.posted t).foldl (fun s p => s.freeJournal u p.1) s
  if inServer t then
    match (s.core u).serving with
    | some c => ((s.updCore u (fun x => { x with serving := none })).freeSlot t).dropCall c
    | none => s.freeSlot t
  else s.freeSlot t

/-- What becomes of a removed thread's task: queued again where it may be replayed, else retired without a join
decrement, once its home lets it; and whether the task is lost (R282, R301, R324). -/
def State.endTask (s : State) (th : Thread) (replay : Bool) : State × Bool :=
  if th.task = 0 then (s, false)
  else
    let q := queueOfHandle th.task
    let seq := th.seq.toNat
    match s.runningTask q seq with
    | none => (s, true)
    | some r =>
      let again := replay && r.replay
      (s.retireOrReplay q seq again s.fresh, !again)

/-- The slots of a thread: its own, and that of its twin. -/
def State.slotsOfPair (s : State) (t : Nat) : List Nat := t :: (s.th t).twin.toList.map (·.1)

/-- A thread that has come to rest removed, with its twin, and its record posted (R301, R327). -/
def State.kill (s : State) (t : Nat) (replay : Bool) (r : TrapRec) : State :=
  let th := s.th t
  let ts := s.slotsOfPair t
  let s := ts.foldl State.scrub { s with pairs := ts.foldl AMap.del s.pairs }
  let (s, lost) := s.endTask th replay
  s.postFault th.root th.rcb { r with flags := if lost then r.flags ||| recLOST else r.flags }

/-! ### `sys.tres` and `sys.tkill` (R300, R301, R310) -/

/-- The handler's resume of what it handles: the frozen thread, whose refused entry is discarded, or a parked command
(R182, R300, R310). -/
def State.resumeHandled (s : State) (h : Nat) : State :=
  let th := s.th h
  let s := match th.handles with
    | some t => if (s.th t).status ≠ .frozen then s
        else
          let s := match (s.th t).recEntry with
            | some (u, e) => s.freeJournal u e
            | none => s
          s.resumeFrozen t
    | none => s
  match th.pageReq with
  | some (k, n) => s.retryCmd k n
  | none => s

/-- sys.tres (R300). -/
def execSysTres (s : State) : Host.Outcome State Fault Refusal :=
  runWord .sysTres s (fun s t =>
    if !inHandler t then .done (s.wst t wstREFUSED)
    else drainThen s t (fun s => .sent ((s.resumeHandled t).freeSlot t)))

/-- sys.tkill (R301). -/
def execSysTkill (a : BitVec 7) (s : State) : Host.Outcome State Fault Refusal :=
  let i : Instr := .sysTkill a
  runWord i s (fun s t =>
    let v := srcVal s t i 0
    let th := s.th t
    if !inHandler t || bits v 63 1 ≠ 0 then .done (s.wst t wstREFUSED)
    else drainThen s t (fun s =>
      match th.handles with
      | some h =>
        if (s.th h).status ≠ .frozen then .sent ((s.consume t i).freeSlot t)
        else if !(s.slotsOfPair h).all s.settledPosts then .park (.otherPosted h)
        else .sent (((s.consume t i).kill h (v.getLsbD 0) (s.th h).record).freeSlot t)
      | none =>
        let s := s.consume t i
        .sent ((match th.pageReq with
          | some (k, n) => s.faultCtx k n (th.record.info / 256 % 256) th.record.addr
          | none => s).freeSlot t)))

/-! ### Twins (R327) -/

/-- The memory requests of both twins' requests at their expansion units have been matched: each unit goes on, the words that
the primary's reads bring going to both (R263, R327). -/
def State.xpOpen (s : State) (t o : Nat) : State :=
  let go : Nat → State → State := fun x s => (s.updCore (unitOfThread x) (fun c => { c with xpq := c.xpq.map (fun q =>
    if q.thread = x then { q with opened := true } else q) })).updTh x (fun th => { th with msgNo := th.msgNo + 1 })
  { go o (go t s) with pairs := AMap.del s.pairs t }

/-- Both twins' hashes of a message have arrived at the primary's router: one copy goes on, or both freeze (R327).
Argument: the primary. -/
def execPairMessageMatch (s : State) : Host.Outcome State Fault Refusal :=
  let t := s.arg 0
  .next (match s.pairs.find? (fun p => p.1 = t) with
    | none => s
    | some (_, m) => match m.hashP, m.hashS with
      | some x, some y =>
        if x = y && (match (s.th t).park with | some p => p.await = .xp | none => false) then s.xpOpen t m.secondary
        else if x = y then
          let s := { s with pairs := AMap.set s.pairs t { m with fpf := (s.th t).st.fpf } }
          (s.updTh t (fun th => { th with matched := true })).wake t
        else
          let w := s.parkWord t
          ({ s with pairs := AMap.del s.pairs t }.abandon t).takeTrap t cPAIRDIFF 0 0 0 w
      | _, _ => s)

/-- One twin's hash has not arrived 100 microseconds after the other's: both freeze (R327). Arguments: the primary, the
exchange's number. -/
def execPairSilence (s : State) : Host.Outcome State Fault Refusal :=
  let t := s.arg 0
  .next (match s.pairs.find? (fun p => p.1 = t) with
    | none => s
    | some (_, m) =>
      if (m.hashP.isSome && m.hashS.isSome) || m.ticket ≠ s.arg 1 then s
      else
        let w := s.parkWord t
        ({ s with pairs := AMap.del s.pairs t }.abandon t).takeTrap t cPAIRDIFF 0 0 0 w)

end Sys2Proof.Machine
end

