-- ==== Sys2Proof/Machine/Preempt.lean ====
section
/-!
DEFINITION. Saving and restoring threads: `sys.pre`, spills and their restores (R199, R200, R314-R319), and region
containment (R325, R350).
-/

namespace Sys2Proof.Machine

/-! ### Save records (R315) -/

/-- META of a record. -/
def metaWord (th : Thread) (held mig : Bool) : Word :=
  BitVec.ofNat 64 (2 ^ 63 + (if held then 2 ^ 62 else 0) + (if mig then 2 ^ 61 else 0) + th.lim)

/-- The fields of a record but META, with their offsets. -/
def savedFields (th : Thread) (tid : Word) (hrec : List Word) : List (Nat × Word) :=
  (upTo 111).map (fun i => (8 * (i + 1), if i + 1 < th.lim then th.reg (i + 1) else 0)) ++
  [(0x380, th.pc), (0x388, th.st.toWord), (0x390, th.rnd.zeroExtend 64), (0x398, th.live.zeroExtend 64), (0x3A0, th.rcb),
   (0x3A8, th.task), (0x3B0, th.seq), (0x3B8, tid)] ++
  (upTo 8).map (fun i => (0x3C0 + 8 * i, hrec.getD i 0))

/-- The first free record of a save area, as R317 looks for it. -/
inductive Scan where
  | found (va leaf : Word) (lvl : Nat)
  | shut (a : Await)
  | fault
  | full
  deriving DecidableEq, Repr

/-- What holds up an access to the record at an address, if something does: its granules lie at several homes (R176,
R228, R347). `k` numbers the access at each. -/
def State.recordShut (s : State) (k : Nat → Nat) (va leaf : Word) (lvl : Nat) : Option Await :=
  (upTo 32).findSome? (fun j =>
    let l := locOfLeaf (va + BitVec.ofNat 64 (32 * j)) leaf lvl
    s.ownHeld (k l) l)

/-- Whether a record's location cannot be reached. -/
def State.recordLost (s : State) (l : Nat) : Bool := s.outOfReach l || s.hostAborts l

/-- Records looked at one after another, n of them, from an address on. -/
def scanFree (s : State) (k : Nat → Nat) (root va : Word) : Nat → Scan
  | 0 => .full
  | n + 1 =>
    if !isCanonical va then .fault
    else match walk s root va with
      | none => .fault
      | some (leaf, lvl) =>
        let l := locOfLeaf va leaf lvl
        if s.recordLost l then .fault
        else match s.ownHeld (k l) l with
          | some a => .shut a
          | none =>
            if (s.read64 l).getLsbD 63 then scanFree s k root (va + 1024) n
            else if !leaf.getLsbD 4 then .fault
            else match s.recordShut k va leaf lvl with
              | some a => .shut a
              | none => .found va leaf lvl

/-- The save area of a region, if it is usable (R314): base and length. -/
def saveArea (s : State) (root rcb : Word) : Option (Word × Word) :=
  match effSave s root rcb, effSaveLen s root rcb with
  | some b, some l => if b = 0 || bits b 9 0 ≠ 0 || bits l 9 0 ≠ 0 then none else some (b, l)
  | _, _ => none

/-- The newest `n` of a unit's cached contexts stay cached (R316). -/
def keepCached : Nat → List Saved → List Saved
  | _, [] => []
  | 0, y :: ys => { y with cached := false } :: keepCached 0 ys
  | n + 1, y :: ys => if y.cached then y :: keepCached n ys else y :: keepCached (n + 1) ys

/-- A thread written into a record that was claimed, and moved into the unit's cache, from which the oldest is evicted
when 32 are there (R315-R317): s_i at 8i below the limit, zero from there on, and the other fields at their offsets
(R330). -/
def State.save (s : State) (u : Nat) (th : Thread) (va leaf : Word) (lvl : Nat) (tid : Word) (held : Option Held)
    (mig : Bool) : State :=
  let c : Saved := { loc := locOfLeaf va leaf lvl, va := va, leaf := leaf, level := lvl,
                     thread := { th with held := held.toList, lastIssue := none, retried := false, stopped := none,
                                         ahead := [], landed := none } }
  let hrec := match held with | some h => (s.heldRec th tid (dieOf u) h).words | none => []
  let s := s.putWord c.loc (metaWord th held.isSome mig)
  let s := (savedFields th tid hrec).foldl (fun s p => s.putWord (c.at p.1) p.2) s
  s.updCore u (fun x => { x with cache := keepCached 32 (c :: x.cache.filter (fun y => y.loc ≠ c.loc)) })

/-! ### Restore (R318) -/

/-- What the index of saved threads knows of a record, whichever unit saved it. -/
def State.savedRecord (s : State) (loc : Nat) : Option Saved :=
  s.units.findSome? (fun (p : Nat × Core) => p.2.cache.find? (fun c => c.loc = loc))

/-- A held cause read back from HREC. -/
def heldOf (ws : List Word) : Held :=
  { cause := bits (ws.getD 0 0) 39 32, info := bits (ws.getD 2 0) 31 0, addr := ws.getD 3 0, data := ws.getD 6 0,
    jlost := (ws.getD 0 0).getLsbD 45 }

/-- A thread as its record in memory gives it (R315). What the record has no field for, the number it is known by and
the marks of poisoned registers, stays with the saved thread, so that the context is the same as a cached one (R316;
log 35). -/
def State.readRecord (s : State) (at_ : Nat → Nat) (root : Word) (old : Thread) : Thread :=
  let w : Nat → Word := fun o => s.read64 (at_ o)
  let lim := bits (w 0) 6 0
  let th : Thread := {
    pc := w 0x380, st := St.ofWord (w 0x388), lim := lim, rnd := (w 0x390).truncate 2,
    live := (w 0x398).truncate 15, rcb := w 0x3A0, root := root, task := w 0x3A8, seq := w 0x3B0, uid := old.uid,
    held := if (w 0).getLsbD 62 then [heldOf ((upTo 8).map (fun i => w (0x3C0 + 8 * i)))] else [] }
  { (th.setRegs ((upTo (lim - 1)).map (fun i => (i + 1, w (8 * (i + 1)))))) with poisoned := old.poisoned }

/-- Whether a unit lies in a region's budget (R318). -/
def unitInBudget (s : State) (u : Nat) (root rcb : Word) : Bool :=
  match effBudget s root treeDepth rcb with
  | none => false
  | some b => if isSkerry u then isHolm u || b.hasDie (dieOf u) else b.hasCluster (dieOf u) (clusterOf u)

/-- What restore(r) comes to: done, failed, or held up at a closed home. -/
inductive Restored where
  | ok (s : State)
  | fails
  | shut (a : Await)

/-- The context of a record: the unit's cached copy, or what memory holds (R316). -/
def State.savedContext (s : State) (u : Nat) (at_ : Nat → Nat) (root : Word) : Thread :=
  match (s.core u).cache.find? (fun c => c.loc = at_ 0 && c.cached) with
  | some c => c.thread
  | none => s.readRecord at_ root (match s.savedRecord (at_ 0) with | some c => c.thread | none => { uid := s.fresh })

/-- Whether a record in memory can be restored on a unit: its right, USED, its region's RCB and save area, the budget and
the limit (R318). -/
def State.restorable (s : State) (u : Nat) (root r leaf : Word) (used : Bool) (th : Thread) : Bool :=
  leaf.getLsbD 3 && leaf.getLsbD 4 && used && rcbUsable s root th.rcb &&
  (match saveArea s root th.rcb with
    | some (b, l) => b.toNat ≤ r.toNat && (r - b).toNat + 1024 ≤ l.toNat
    | none => false) &&
  unitInBudget s u root th.rcb && th.lim % 8 = 0 && 8 ≤ th.lim && th.lim ≤ 112

/-- restore(r) on a unit under a root (R318), its accesses numbered by `k`: of the record only META's USED changes (R330). -/
def State.restore (s : State) (k : Nat → Nat) (u : Nat) (root r : Word) : Restored :=
  if bits r 9 0 ≠ 0 || !isCanonical r then .fails
  else match walk s root r with
    | none => .fails
    | some (leaf, lvl) =>
      let at_ : Nat → Nat := fun o => locOfLeaf (r + BitVec.ofNat 64 o) leaf lvl
      if s.recordLost (at_ 0) then .fails
      else match (s.recordShut k r leaf lvl).or (s.rcbShut root (s.savedContext u at_ root).rcb k) with
        | some a => .shut a
        | none =>
          let m := s.read64 (at_ 0)
          let th := s.savedContext u at_ root
          if !s.restorable u root r leaf (m.getLsbD 63) th then .fails
          else match s.fillPlace u th.lim root th.rcb false with
            | none => .fails
            | some (slot, b) =>
              let t := u * 64 + slot
              let waits := match s.savedRecord (at_ 0) with
                | some c => (match c.thread.park with | some p => p.await = .gateFirst | none => false)
                | none => false
              let s := s.fill t { th with status := .run, base := b, root := root, park := none, yielding := false, msg := none }
              let s := s.putWord (at_ 0) (m &&& 0x7FFFFFFFFFFFFFFF)
              let drop : Nat × Core → Nat × Core := fun p =>
                (p.1, { p.2 with cache := p.2.cache.filter (fun c => c.loc ≠ at_ 0) })
              let s := { s with units := s.units.map drop, fresh := s.fresh + 1 }
              .ok (if waits && s.gateDue t then s.parkOn t .thrYield .gateFirst none false else s)

/-! ### `sys.pre` (R317) -/

/-- A thread parked before a far body's first instruction keeps that park (R149, R319). -/
def beforeBody (th : Thread) : Bool := match th.park with | some p => p.await = .gateFirst | none => false

/-- The target out of rotation (R317). -/
def State.stop (s : State) (t target : Nat) : State := s.updTh target (fun th => { th with stopped := some t })

/-- The end of a `sys.pre`: the restore, and what s[d] and WST come to. -/
def preEnd (s : State) (t : Nat) (d : BitVec 7) (h r : Word) : Res :=
  if r = 0 then .done ((s.writeDest t d h).wst t wstOK)
  else match s.restore (s.arrivalOf t) (unitOfThread t) (s.th t).root r with
    | .ok s => .done ((s.writeDest t d h).wst t wstOK)
    | .fails => .done ((s.writeDest t d (if h = 0 then 6 else h)).wst t wstREFUSED)
    | .shut a => if h = 0 then .park a else .done ((s.writeDest t d h).wst t wstREFUSED)

/-- What holds up the restore of a `sys.pre`, which then begins nothing. -/
def State.preShut (s : State) (t : Nat) (r : Word) : Option Await :=
  match (if r = 0 then .fails else s.restore (s.arrivalOf t) (unitOfThread t) (s.th t).root r) with
  | .shut a => some a
  | _ => none

/-- The saving of a target that has come to rest. A refusal leaves it as it was. -/
def preSave (s : State) (t target : Nat) (i : Instr) (d : BitVec 7) (r : Word) : Res :=
  let u := unitOfThread t
  let th := s.th target
  let refuse : Word → Res := fun c => .done (((s.letGo t).writeDest t d c).wst t wstREFUSED)
  match s.rcbShut th.root th.rcb (s.arrivalOf t), th.held, saveArea s th.root th.rcb with
  | some a, _, _ => .sent (s.parkOn t i a)
  | none, _ :: _ :: _, _ => refuse 5
  | none, _, none => refuse 2
  | none, held, some (base, len) =>
    match scanFree s (s.arrivalOf t) th.root base (len.toNat / 1024), s.preShut t r with
    | .full, _ => refuse 3
    | .fault, _ => refuse 4
    | .shut a, _ | .found _ _ _, some a => .sent (s.parkOn t i a)
    | .found va leaf lvl, none =>
      let h := held.head?.map (fun h => if h.cause = cPOSTREF then { h with jlost := true, entry := none } else h)
      let s := s.save u th va leaf lvl (s.tid target) h false
      let s := (s.posted target).foldl (fun s p => s.freeJournal u p.1) s
      preEnd (s.freeSlot target) t d va r

/-- sys.pre (R317). What it must wait for, it waits for with the target out of rotation. -/
def execSysPre (d a b : BitVec 7) (s : State) : Host.Outcome State Fault Refusal :=
  let i : Instr := .sysPre d a b
  runWord i s (fun s t =>
    let u := unitOfThread t
    let av := srcVal s t i 0
    let bv := srcVal s t i 1
    let refuse : State → Res := fun s => .done (((s.letGo t).writeDest t d 1).wst t wstREFUSED)
    if bits av 63 7 ≠ 0 then refuse s
    else if av.getLsbD 6 then preEnd s t d 0 bv
    else
      let slot := bits av 5 0
      let target := u * 64 + slot
      let th := s.th target
      if slotsOf u ≤ slot || target = t || slot = reservedSlot u || th.twin.isSome ||
          !(th.status = .run || th.status = .park) then refuse s
      else
        let s := s.stop t target
        match (if beforeBody th then some s else s.unpark target) with
        | none => .sent (s.parkOn t i (.otherPosted target))
        | some s =>
          if !(s.th target).pending.isEmpty || !s.settledPosts target then .sent (s.parkOn t i (.otherPosted target))
          else preSave s t target i d bv)

/-! ### Spills (R199, R200) -/

/-- A cause code of R289 that the spec does not name: 0x01 to 0x17. -/
def freeCause (n : Nat) : Nat := 1 + (Config.freeWord n).toNat % 23

/-- The report of a refused spill in its region's fault domain (R199); the spec gives its layout and not its cause
(log 4): one of the codes of R289. -/
def State.reportSpill (s : State) (u : Nat) (th : Thread) : State :=
  let (n, s) := s.drawFree
  let r : TrapRec := {
    flags := recASYNC, cause := freeCause n, tid := tidOfPlace s.pkg.device (u * 64), pc := th.pc,
    time := s.time (dieOf u), rcb := th.rcb, st := th.st.toWord }
  s.postFault th.root th.rcb r

/-- The spill table with an area, if it names it or has room (R200). -/
def withArea (l : List SpillArea) (base len root rcb : Word) : Option (List SpillArea) :=
  if l.any (fun a => a.base = base && a.len = len && a.root = root) then
    some (l.map (fun a => if a.base = base && a.len = len && a.root = root then { a with rcbs := rcb :: a.rcbs.erase rcb }
      else a))
  else if l.length < 16 then some (l ++ [{ base := base, len := len, root := root, rcbs := [rcb] }])
  else none

/-- Whether a buffered context waits at a closed home to be spilled. -/
def State.spillWaits (s : State) (u k : Nat) : Bool :=
  s.timers.any (fun x => x.2.1 = .inboundSpill && x.2.2.length = 4 && x.2.2.take 2 = [u, k])

/-- A buffered context spilled to its region's save area, or left in the buffer (R199, R200). DESIGN CHOICE (log 56): where
the save area refuses it, the spill is tried again when the context has waited 2 microseconds more, and each refusal makes
a report of its own. The spill of a region contained by then leaves no entry of its area, as containment does. -/
def State.spillOne (s : State) (u k : Nat) (m : Message) : State :=
  let th := m.thread
  let later : State → State := fun s => { s with msgs := AMap.set s.msgs k { m with arrived := s.now } }.after 16000 .inboundSpill [u]
  if s.spillWaits u k then s
  else match s.rcbShut th.root th.rcb (s.numberAt 2), saveArea s th.root th.rcb with
  | some a, _ => s.tryAgain .inboundSpill [u, k] a
  | none, none => later (s.reportSpill u th)
  | none, some (base, len) =>
    match scanFree s (s.numberAt 2) th.root base (len.toNat / 1024), withArea (s.core u).spill base len th.root th.rcb with
    | .found va leaf lvl, some areas =>
      let tid := tidOfPlace s.pkg.device (u * 64)
      let areas := if s.isContained th.root th.rcb
        then areas.filter (fun a => !(a.base = base && a.len = len && a.root = th.root)) else areas
      let s := { s with msgs := AMap.del s.msgs k }
      let s := s.updCore u (fun c => { c with inbound := c.inbound.filter (· ≠ k), spill := areas })
      let s := s.save u th va leaf lvl tid none true
      th.held.foldl (fun s h => s.tellThread
        { uid := th.uid, root := th.root, rcb := th.rcb, held := h, record := s.heldRec th tid (dieOf u) h } (fun _ => s.fresh)) s
    | .found _ _ _, none => later s
    | .shut a, _ => s.tryAgain .inboundSpill [u, k] a
    | _, _ => later (s.reportSpill u th)

/-- The contexts that have waited 2 microseconds in a unit's inbound buffer (R199). -/
def State.overdue (s : State) (u : Nat) : List (Nat × Message) :=
  (s.core u).inbound.filterMap (fun k => match s.message k with
    | some m => if m.arrived + 16000 ≤ s.now then some (k, m) else none
    | none => none)

/-- Contexts that have waited 2 microseconds in an inbound buffer are spilled; one with pending registers waits for
their replies (R199). Arguments: the unit; then, for a context that waits at a closed home, the context, its number and a
location. -/
def execInboundSpill (s : State) : Host.Outcome State Fault Refusal :=
  let u := s.arg 0
  let due := match s.ev with
    | [_, k, _, _] => if (s.core u).inbound.contains k then (s.message k).toList.map (fun m => (k, m)) else []
    | _ => s.overdue u
  let s := if due.any (fun x => !x.2.thread.pending.isEmpty) then s.after 8 .inboundSpill [u] else s
  .next ((due.filter (fun x => x.2.thread.pending.isEmpty)).foldl (fun s x => s.spillOne u x.1 x.2) s)

/-- The address of the first record of an area that a unit spilled and that `mine` selects by its root and RCB, n records
from an address on being looked at; an error where a home holds up a look (R200, R228). -/
def scanMig (s : State) (k : Nat → Nat) (root tid va : Word) (mine : Word → Bool) : Nat → Except Await (Option Word)
  | 0 => .ok none
  | n + 1 =>
    match (if isCanonical va then walk s root va else none) with
    | none => scanMig s k root tid (va + 1024) mine n
    | some (leaf, lvl) =>
      let at_ : Nat → Nat := fun o => locOfLeaf (va + BitVec.ofNat 64 o) leaf lvl
      match [0, 0x3A0, 0x3B8].findSome? (fun o => s.ownHeld (k (at_ o)) (at_ o)) with
      | some a => .error a
      | none =>
        let m := s.read64 (at_ 0)
        if m.getLsbD 63 && m.getLsbD 61 && s.read64 (at_ 0x3B8) = tid && mine (s.read64 (at_ 0x3A0)) then .ok (some va)
        else scanMig s k root tid (va + 1024) mine n

/-- The areas scanned in entry order: those kept, and the first record found, or what holds up the scan (R200). -/
def scanAreas (s : State) (k : Nat → Nat) (tid : Word) : List SpillArea → List SpillArea × Except Await (Option (Word × Word))
  | [] => ([], .ok none)
  | a :: rest => match scanMig s k a.root tid a.base (fun _ => true) (a.len.toNat / 1024) with
    | .ok none => scanAreas s k tid rest
    | .ok (some va) => (a :: rest, .ok (some (a.root, va)))
    | .error e => (a :: rest, .error e)

/-- A slot has become free and the spill table is not empty: a spilled record is restored (R200). Arguments: the unit; then
its number and a location, once it waits at a closed home. -/
def execSpillRestore (s : State) : Host.Outcome State Fault Refusal :=
  let u := s.arg 0
  let r := scanAreas s (s.numberAt 1) (tidOfPlace s.pkg.device (u * 64)) (s.core u).spill
  let s := s.updCore u (fun c => { c with spill := r.1 })
  .next (match r.2 with
    | .error a => s.tryAgain .spillRestore [u] a
    | .ok none => s
    | .ok (some (root, va)) => match s.restore (s.numberAt 1) u root va with
      | .ok s => s
      | .fails => s
      | .shut a => s.tryAgain .spillRestore [u] a)

/-! ### Containment (R325, R350) -/

/-- Every ROOTPT that something on the device holds, or has held when a launch or a containment used it. -/
def State.rootsHeld (s : State) : List Word :=
  (s.pkg.roots ++ (s.threads.map (fun (p : Nat × Thread) => p.2.root)) ++ (s.queues.map (fun (p : Nat × Queue) => p.2.root)) ++
    (s.msgs.map (fun (p : Nat × Message) => p.2.thread.root)) ++
    (s.ctxs.flatMap (fun (p : Nat × Ctx) => p.2.cmds.map (·.root))) ++
    (s.units.flatMap (fun (p : Nat × Core) => p.2.cache.map (·.thread.root)))).eraseDups.filter (· ≠ 0)

/-- Whether an RCB address lies in a subtree, under some root held. -/
def State.inSubtree (s : State) (top rcb : Word) : Bool :=
  rcb ≠ 0 && (rcb = top || s.rootsHeld.any (fun root => rcbUnder s root top treeDepth rcb))

/-- A containment request of the host: queued, or dropped with CSTAT's error (R350); ignored while the dies are held at
reset after a failed verification (R356). The RCB passes R140 if it does under a root that something on the device holds
or has held (log 33). Argument: the value written. -/
def execContWrite (s : State) : Host.Outcome State Fault Refusal :=
  let w := BitVec.ofNat 64 (s.arg 0)
  let rcb := w &&& ~~~63
  let roots := s.rootsHeld.filter (fun root => rcbOk s root rcb)
  .next (if s.pkg.bootState = 2 then s
    else if 8 ≤ s.pkg.contQ.length then s.setPkg { s.pkg with cstatErr := 1 }
    else if roots.isEmpty then s.setPkg { s.pkg with cstatErr := 2 }
    else
      let s' := s.setPkg { s.pkg with contQ := s.pkg.contQ ++ [w], roots := (s.pkg.roots ++ roots).eraseDups }
      if s.pkg.contQ.isEmpty then s'.push .containment [] else s')

/-- Queues quarantined as the contained regions say (R325). -/
def State.requarantine (s : State) : State :=
  { s with queues := s.queues.map (fun (p : Nat × Queue) =>
    (p.1, { p.2 with quarantined := p.2.configured && s.isContained p.2.root p.2.rcb })) }

/-- A thread stopped for containment: its instruction abandoned or completed, a message that carries it taken back, the
thread FROZEN. The record that is posted for it carries no cause of R289, so its CAUSE is a value the spec does not give
(log 4). A thread that must first complete its instruction is left as it is. DESIGN CHOICE (log 61): from whichever
state it is stopped, MIGRATING among them, it stands FROZEN until its posted entries have settled. -/
def State.stopContained (s : State) (t : Nat) : State :=
  let th := s.th t
  let isMatrix := match th.park with | some p => (match p.await with | .matrix _ => true | _ => false) | none => false
  if th.status = .free || (th.status = .frozen && th.record.cause ≠ 0) then s
  else match (if isMatrix then some (s.abandon t) else s.unpark t) with
  | none => s
  | some s =>
    let s := match th.status, th.msg with
      | .migrating, some k => { s with msgs := AMap.del s.msgs k }
      | _, _ => s
    let (n, s) := s.drawFree
    let r := s.makeRec t (freeCause n) 0 0 0 0 true
    s.updTh t (fun th => { th with status := .frozen, park := none, record := r, recEntry := none, msg := none })

/-- One round of stopping and removing a thread of a contained subtree, with its twin: once both have come to rest and
their posted entries are settled, they are killed and each one's record is posted (R325, R327). -/
def State.containThread (s : State) (t : Nat) : State :=
  let ts := s.slotsOfPair t
  let s := if (s.th t).status = .free then s else ts.foldl State.stopContained s
  if !ts.all (fun x => (s.th x).status = .frozen && s.settledPosts x) then s
  else
    let gone : Delivery → Bool := fun d => ts.any (fun x => d.frozen = some x)
    let drop : Nat × Core → Nat × Core := fun p => (p.1, { p.2 with
      deliveries := p.2.deliveries.filter (fun d => !gone d), resends := p.2.resends.filter (fun d => !gone d.2),
      unsent := p.2.unsent.filter (fun d => !gone d) })
    let rs := (ts.drop 1).map (fun x => ((s.th x).root, (s.th x).rcb, (s.th x).record))
    let s := ({ s with units := s.units.map drop }).kill t true (s.th t).record
    rs.foldl (fun s (root, rcb, r) => s.postFault root rcb r) s

/-- An engine context of a contained region: banks and all-bank mode closed, cleared, released (R219, R325). -/
def State.containCtx (s : State) (k : Nat) : State :=
  let s := s.closeBank k
  let s := if ctxEng k = 6 then s.closeBanks k else s
  (s.discard k).updCtx k (fun c => { c with own := 0, regs := [], moveOut := 0 })

/-- One round of the containment of a subtree, and whether nothing of it is left in a slot and every area of a spill
table could be looked at (R200). -/
def State.containRound (s : State) (top : Word) : State × Bool :=
  let s := s.setPkg { s.pkg with contained := if s.pkg.contained.contains top then s.pkg.contained else s.pkg.contained ++ [top] }
  let s := s.requarantine
  let mine : Thread → Bool := fun th => th.status ≠ .free && rcbUnder s th.root top treeDepth th.rcb
  let calls : Nat × Core → List DlgCall := fun p => p.2.dlgq.filter (fun c => rcbUnder s c.root top treeDepth c.rcb)
  let dropped := s.units.flatMap calls
  let saved : Saved → Bool := fun c => rcbUnder s c.thread.root top treeDepth c.thread.rcb
  let asks : Delivery → Bool := fun d => d.command.isSome && rcbUnder s d.root top treeDepth d.rcb
  let trim : Nat × Core → Nat × Core := fun p => (p.1, { p.2 with
    deliveries := p.2.deliveries.filter (fun d => !asks d), resends := p.2.resends.filter (fun d => !asks d.2),
    unsent := p.2.unsent.filter (fun d => !asks d),
    dlgq := p.2.dlgq.filter (fun c => !rcbUnder s c.root top treeDepth c.rcb), cache := p.2.cache.filter (fun c => !saved c) })
  let ts := (s.threads.filter (fun (p : Nat × Thread) => mine p.2)).map (·.1)
  let ks := (s.ctxs.filter (fun (p : Nat × Ctx) => s.inSubtree top p.2.own)).map (·.1)
  let xs := (s.streams.filter (fun (p : Nat × Stream) => p.2.bound && s.inSubtree top p.2.region)).map (·.1)
  let bufs := s.units.flatMap (fun (p : Nat × Core) => p.2.inbound.map (fun k => (p.1, k)))
  let s := dropped.foldl State.dropCall { s with units := s.units.map trim }
  let s := ts.foldl State.containThread s
  let s := bufs.foldl (fun s b => match s.message b.2 with
    | some m => if m.buffered && m.thread.pending.isEmpty && rcbUnder s m.thread.root top treeDepth m.thread.rcb
        then s.spillOne b.1 b.2 m else s
    | none => s) s
  let s := xs.foldl State.unbind s
  let s := ks.foldl State.containCtx s
  let holds : Nat → SpillArea → Except Await (Option Word) := fun u a =>
    let mine : Word → Bool := fun rcb => rcbUnder s a.root top treeDepth rcb
    if a.rcbs.any mine then scanMig s (fun _ => s.fresh) a.root (tidOfPlace s.pkg.device (u * 64)) a.base mine (a.len.toNat / 1024)
    else .ok none
  let keeps : Except Await (Option Word) → Bool := fun r => match r with | .ok (some _) => false | _ => true
  let held := s.units.any (fun (p : Nat × Core) => p.2.spill.any (fun a => match holds p.1 a with | .error _ => true | _ => false))
  let areas : Nat × Core → Nat × Core := fun p => (p.1, { p.2 with spill := p.2.spill.filter (fun a => keeps (holds p.1 a)) })
  let s := { s with units := s.units.map areas }
  (s, !ts.any (fun t => mine (s.th t)) && !held)

/-- The containment, or the lifting of a quarantine, at the head of the queue (R325, R350). Threads that must first
complete an instruction are looked at again. -/
def execContainment (s : State) : Host.Outcome State Fault Refusal :=
  .next (match s.pkg.contQ with
    | [] => s
    | w :: rest =>
      let top := w &&& ~~~63
      let next : State → State := fun s =>
        let s := s.setPkg { s.pkg with contQ := rest }
        if rest.isEmpty then s else s.push .containment []
      if w.getLsbD 0 then
        next (s.setPkg { s.pkg with contained := s.pkg.contained.filter (· ≠ top) }).requarantine
      else
        let (s, ended) := s.containRound top
        if ended then next s else s.after 8 .containment [])

end Sys2Proof.Machine
end

