-- ==== Sys2Proof/Machine/Launch.lean ====
section
/-!
DEFINITION. The host's side of the device: launches, CXL.mem accesses and the host fence (R116, R152, R340-R344), and
translation refills (R304, R306).
-/

namespace Sys2Proof.Machine

/-! ### Translation buffers (R304, R306) -/

/-- Entries of a buffer (R306). -/
def tlbSize (buf : Nat) : Nat := if buf < 2 ^ 12 then 2048 else 4096

/-- A walk completes: a valid, well-formed leaf enters the buffer, and no entry otherwise, so that the access raises
PAGE. Arguments: the buffer, the root, the address. -/
def execTranslationRefill (s : State) : Host.Outcome State Fault Refusal :=
  let buf := s.arg 0
  let root := BitVec.ofNat 64 (s.arg 1)
  let va := BitVec.ofNat 64 (s.arg 2)
  .next (if !isCanonical va then s
    else match walk s root va with
      | none => s
      | some (leaf, lvl) =>
        let e : TlbEntry := { root := root, page := pageOf va lvl, level := lvl, leaf := leaf }
        let old := (s.tlb buf).filter (fun x => !(x.root = root && x.page = e.page && x.level = lvl))
        s.setTlb buf ((e :: old).take (tlbSize buf)))

/-! ### Host accesses (R340, R341) -/

/-- Whether the dies answer: not while a firmware image has failed verification (R356). -/
def State.answers (s : State) : Bool := s.pkg.bootState ≠ 2

/-- The location of a host offset in a logical device's CXL.mem range: 120 GiB of a Cape die, 480 GiB of a Holm die, as
IL 0 places it (R340). -/
def State.hostLoc (s : State) (ld off : Nat) : Option Nat :=
  if (ld < 8 && off < 120 * 2 ^ 30) || (8 ≤ ld && ld < 12 && off < 480 * 2 ^ 30) then
    some (placeDram s.pkg.device ld 0 (off / 8 * 8)) else none

/-- A host access held up, to be tried again under the number of its first arrival: at a closed home, with its location,
or behind a host fence (R210, R228, R340). -/
def State.hostRetry (s : State) (e : Instr) (args : List Nat) : State := { s with fresh := s.fresh + 1 }.after 8 e args

/-- What an access numbered `k` must wait for at its home: nothing, or with its location what closes the home. -/
def State.hostShut (s : State) (k l : Nat) : Bool := (s.shutFor k l none).isSome

/-- Whether a host fence that arrived before number `k` is still unanswered (R210). -/
def State.fenced (s : State) (k : Nat) : Bool :=
  s.timers.any (fun x => x.2.1 = .hfenceRead && (match x.2.2 with | j :: _ => j < k | [] => false))

/-- A host read of a word, with the poison indication (R178, R340). It waits at a closed home. Arguments: the logical
device, the offset, and its number and location once it waits. -/
def execHostMemRead (s : State) : Host.Outcome State Fault Refusal :=
  match s.hostLoc (s.arg 0) (s.arg 1) with
  | none => .fault .noSuchAddress
  | some l =>
    let k := s.ev.getD 2 s.fresh
    .next (if !s.answers then s
      else if s.hostShut k l then s.hostRetry .hostMemRead (s.ev.take 2 ++ [k, l])
      else s.setPkg { s.pkg with hostData := s.read64 l, hostPoison := s.isPoison l 8 })

/-- A host write of the bytes of a word under a mask; one of only some bytes leaves a poisoned word as it is (R178,
R340). A write that arrived after a host fence waits until the fence is answered (R210). Arguments: the logical device,
the offset, the mask, the value, and its number, and its location, once it waits. -/
def execHostMemWrite (s : State) : Host.Outcome State Fault Refusal :=
  match s.hostLoc (s.arg 0) (s.arg 1) with
  | none => .fault .noSuchAddress
  | some l =>
    let k := s.ev.getD 4 s.fresh
    .next (if !s.answers then s
      else if s.fenced k then s.hostRetry .hostMemWrite (s.ev.take 4 ++ [k])
      else if s.hostShut k l then s.hostRetry .hostMemWrite (s.ev.take 4 ++ [k, l])
      else if s.arg 2 % 256 = 255 then s.putWord l (BitVec.ofNat 64 (s.arg 3))
      else if s.isPoison l 8 then s
      else s.writeMasked l (s.arg 2 % 256) (bytesOfNat 8 (s.arg 3)))

/-- Whether a host write that arrived before number `k` is still to be performed. -/
def State.hostWriteBefore (s : State) (k : Nat) : Bool :=
  s.timers.any (fun x => x.2.1 = .hostMemWrite && x.2.2.getD 4 k < k)

/-- A read of HFENCE: 0, once every host write that arrived before it has been performed (R341). Argument: its number once
it waits. -/
def execHfenceRead (s : State) : Host.Outcome State Fault Refusal :=
  let k := s.ev.getD 0 s.fresh
  .next (if s.hostWriteBefore k then s.hostRetry .hfenceRead [k]
    else s.setPkg { s.pkg with hostData := 0, hostPoison := false })

/-! ### Launches (R116, R152, R343, R344) -/

/-- A launch thread as its record gives it: its place is a die, cluster and core, or `any` (R343). -/
structure LThread where
  entry : Word
  regs : Nat
  place : Option (Nat × Nat × Nat)
  args : List Word
  deriving DecidableEq, Repr

/-- The six doublewords of a thread; 0xFF in all three fields of the place means `any` (R343). -/
def LThread.ofWords (ws : List Word) : LThread :=
  let w := ws.getD 1 0
  { entry := ws.getD 0 0, regs := bits w 7 0, args := ws.drop 2,
    place := if bits w 31 8 = 0xFFFFFF then none else some (bits w 15 8, bits w 23 16, bits w 31 24) }

/-- Whether a thread's fields are in range (R343, R344). -/
def LThread.ok (ws : List Word) (x : LThread) : Bool :=
  bits (ws.getD 1 0) 63 32 = 0 && x.regs % 8 = 0 && 8 ≤ x.regs && x.regs ≤ 112 &&
  (match x.place with | some (d, c, j) => d < 8 && c < 98 && j < 128 | none => true)

/-- The location of a doubleword of a launch record: device DRAM at its physical offset, or host memory (R343, R344). -/
def State.recordLoc (s : State) (lrec : Word) (o : Nat) : Nat :=
  let p := bits lrec 47 0 + o
  if bits lrec 63 60 = 15 then locHost p else placeDram s.pkg.device (bits lrec 63 60) 0 p

/-- The offsets of a record's doublewords: those of its head, and the others once its counts have been read (R343). -/
def recordOffs (got : AMap Word) : List Nat :=
  let w := AMap.get 0 got 16
  (upTo (4 + if AMap.has got 16 then 6 * bits w 15 0 + 2 * bits w 31 16 else 0)).map (fun j => 8 * j)

/-- The locations of a launch record, as its counts give them. -/
def State.recordLocs (s : State) (lrec : Word) (got : AMap Word) : List Nat := (recordOffs got).map (s.recordLoc lrec)

/-- Doublewords read that have not been read yet, by offset: all of them, or in split form any one (R207); none while a home
holds them up. -/
def State.readSome (s : State) (got : AMap Word) (offs : List Nat) (loc : Nat → Nat) (k : Nat → Nat) :
    Except Await (State × AMap Word) :=
  let left := offs.filter (fun o => !AMap.has got o)
  let held : Nat → Option Await := fun o => s.ownHeld (k (loc o)) (loc o)
  let read : AMap Word → Nat → AMap Word := fun m o => AMap.set m o (s.read64 (loc o))
  if s.split then
    match s.choose (left.filter (fun o => (held o).isNone)), left.findSome? held with
    | some (o, s'), _ => .ok (s', read got o)
    | none, some a => .error a
    | none, none => .ok (s, got)
  else match left.findSome? held with
    | some a => .error a
    | none => .ok (s, left.foldl read got)

/-- A launch record taken apart: root, RCB, threads with their words, tasks. -/
structure LRecord where
  root : Word
  rcb : Word
  zeros : Bool
  threads : List (List Word)
  tasks : List (Word × Word)
  deriving DecidableEq, Repr

def LRecord.ofWords (got : AMap Word) : LRecord :=
  let w := AMap.get 0 got
  let nt := bits (w 16) 15 0
  let nu := bits (w 16) 31 16
  { root := w 0, rcb := w 8, zeros := bits (w 16) 63 32 = 0 && w 24 = 0,
    threads := (upTo nt).map (fun k => (upTo 6).map (fun j => w (32 + 48 * k + 8 * j))),
    tasks := (upTo nu).map (fun k => (w (32 + 48 * nt + 16 * k), w (40 + 48 * nt + 16 * k))) }

/-- The leaf and location of a descriptor under a root; none where it does not translate. -/
def descLoc (s : State) (root va : Word) : Option (Word × Nat) :=
  if !isCanonical va then none
  else match walk s root va with
    | none => none
    | some (leaf, lvl) => some (leaf, locOfLeaf va leaf lvl)

/-- A buffer no unit uses: a launch's translations are walked. -/
def noBuffer : Nat := 2 ^ 13

/-- Whether a launch's access translates, PROT being a translation fault as PAGE is (R309, R344). -/
def launchMaps (s : State) (root va : Word) (need : Right) (user : Bool) : Bool :=
  isCanonical va && (match translate s noBuffer root va need user with | .ok _ => true | .error _ => false)

/-- Whether the 128 bytes of an RCB translate for read under a root. -/
def rcbMaps (s : State) (root rcb : Word) : Bool := [rcb, rcb + 127].all (fun va => launchMaps s root va .r false)

/-- Step 1 of a launch: LERR 1, 2 or 3 where the record fails (R344). An RCB that is poisoned, misaligned or not readable
fails R140; a record that cannot be read fails as one outside R343 does; an entry is looked at as the first fetch of its
thread would, in the mode of its region (log 38). -/
def launchCheck (s : State) (lrec : Word) (got : AMap Word) : Option Nat :=
  let r := LRecord.ofWords got
  let ts := r.threads.map LThread.ofWords
  if bits lrec 59 48 ≠ 0 || bits lrec 5 0 ≠ 0 || (12 ≤ bits lrec 63 60 && bits lrec 63 60 ≠ 15) ||
      (s.recordLocs lrec got).any s.hostAborts then some 1
  else if !r.zeros || (r.threads.zip ts).any (fun (ws, x) => !LThread.ok ws x) ||
      r.tasks.any (fun x => bits x.1 5 0 ≠ 0) then some 1
  else if !rcbMaps s r.root r.rcb then some 2
  else match rcbOwn s r.root r.rcb 0, rcbOwn s r.root r.rcb 8 with
    | some parent, some rp =>
      if parent ≠ 0 || rp ≠ r.root then some 1
      else if !rcbOk s r.root r.rcb then some 3
      else match effBudget s r.root treeDepth r.rcb with
        | none => some 3
        | some b =>
          if ts.any (fun x => match x.place with | some (d, c, _) => !b.hasCluster d c | none => false) then some 1
          else if r.tasks.any (fun x => !launchMaps s r.root x.1 .r false) ||
              ts.any (fun x => !launchMaps s r.root x.entry .x (!regionMode s r.root r.rcb)) then some 2
          else none
    | _, _ => some 3

/-- A task of a launch pushed, of its descriptor's words; none where the push is refused or traps (R152). -/
def launchPush (s : State) (root d h : Word) (ws : List Word) : Option State :=
  match descLoc s root d with
  | none => none
  | some (leaf, _) =>
    if !leaf.getLsbD 3 then none
    else match pushCheckAt s noBuffer root h (TaskRec.ofWords 0 0 ws) with
      | some _ => none
      | none => (s.pushTask (queueOfHandle h) ws).map (·.2)

/-- What holds up the push of a launch's task whose descriptor has been read, its accesses numbered by `k`: an anchor whose
page is in transit, or the queue's home (R152, R228, R347). -/
def State.launchShut (s : State) (k : Nat → Nat) (root h : Word) (ws : List Word) : Option Await :=
  let q := queueOfHandle h
  let abase := (TaskRec.ofWords 0 0 ws).abase
  ((descLoc s root abase).bind (fun a => if s.inTransit a.2 none then some (.transit a.2) else none)).or
    (s.queueShut (k (queuePort q)) q)

/-- The places where a launch thread's fill can take place: slot and base (R116). -/
def launchPlaces (s : State) (root rcb : Word) (x : LThread) : List (Nat × Nat) :=
  match s.fillBudget root rcb with
  | none => []
  | some bud =>
    let on : Nat → Option (Nat × Nat) := fun u => (s.room u x.regs bud.slotcap root rcb).map (fun p => (u * 64 + p.1, p.2))
    match x.place with
    | some (d, c, j) => if bud.hasCluster d c then (on (mkCape d c j)).toList else []
    | none => (upTo 8).flatMap (fun d => ((upTo 98).filter (bud.hasCluster d)).flatMap (fun c =>
        (upTo 128).filterMap (fun j => on (mkCape d c j))))

/-- A launch thread filled, on a core the spec does not determine where several will do (R116, log 4); not where the mode of
its region cannot be read (R368). -/
def launchFill (s : State) (root rcb : Word) (x : LThread) : Option State :=
  match launchPlaces s root rcb x, effSched s root rcb with
  | [], _ | _, none => none
  | p :: ps, some _ =>
    let (n, s1) := if ps.isEmpty then (0, s) else s.drawFree
    let (t, b) := if ps.isEmpty then p else (p :: ps).getD ((Config.freeWord n).toNat % (ps.length + 1)) p
    let th := freshThread x.entry root rcb (regionMode s root rcb) b x.regs s.fresh
    let th := th.setRegs ((upTo 4).map (fun k => (5 + k, x.args.getD k 0)))
    some { (s1.fill t th) with fresh := s.fresh + 1 }

/-- The launch in process ends, with LERR where it failed; DONE advances and the next is taken up (R344). -/
def State.endLaunch (s : State) (err : Option Nat) : State :=
  let p := s.pkg
  let s := s.setPkg { p with launching := none, doneCount := (p.doneCount + 1) % 2 ^ 16, lerr := err.getD p.lerr }
  if p.launchQ.isEmpty then s else s.push .launch []

/-- Threads filled one after another; the rest waits for room (R344). -/
def fillThreads : Nat → State → Launch → State × Option Launch
  | 0, s, x => (s, some x)
  | n + 1, s, x => match x.threads with
    | [] => (s, none)
    | ws :: rest => match launchFill s x.root x.rcb (LThread.ofWords ws) with
      | some s' => fillThreads n s' { x with threads := rest, since := s.now }
      | none => (s, some x)

/-- A launch kept as it is, to go on later. -/
def State.keepLaunch (s : State) (x : Launch) : State := s.setPkg { s.pkg with launching := some x }

/-- A launch goes on with its fills; one that waits is looked at again, for at most 1 ms, and so is one whose RCB a home holds up
(R228, R344). -/
def State.goOnLaunch (s : State) (x : Launch) : State :=
  match (if x.threads.isEmpty then none else s.rcbShut x.root x.rcb (s.numberAt 0)) with
  | some a => (s.keepLaunch x).tryAgain .launch [] a
  | none => match fillThreads (x.threads.length + 1) s x with
  | (s, none) => s.endLaunch none
  | (s, some y) =>
    let s := s.setPkg { s.pkg with launching := some y }
    (s.after 8000 .launch []).after 8000000 .launchFillTimeout []

/-- The offsets of the doublewords of a descriptor (R142). -/
def descOffs : List Nat := (upTo 8).map (fun j => 8 * j)

/-- A launch's tasks pushed in record order, each as a `tq.push` that may wait, before its fills (R152); in split form one
word of a descriptor, or one push, at a time (R207). -/
def State.pushLaunch : Nat → State → Launch → State
  | 0, s, x => s.goOnLaunch x
  | n + 1, s, x => match x.tasks with
    | [] => s.goOnLaunch { x with since := s.now }
    | (d, h) :: rest => match descLoc s x.root d with
      | none => s.endLaunch (some 4)
      | some (_, l) => match s.readSome x.words descOffs (l + ·) (s.numberAt 0) with
        | .error a => (s.keepLaunch x).tryAgain .launch [] a
        | .ok (s, got) =>
          let x := { x with words := got }
          let ws := descOffs.map (AMap.get 0 got)
          if got.length < 8 then (s.keepLaunch x).push .launch []
          else match s.launchShut (s.numberAt 0) x.root h ws with
            | some a => (s.keepLaunch x).tryAgain .launch [] a
            | none => match launchPush s x.root d h ws with
              | none => s.endLaunch (some 4)
              | some s' =>
                let x := { x with tasks := rest, words := [] }
                if s.split then (s'.keepLaunch x).push .launch [] else State.pushLaunch n s' x

/-- A root region launched: its energy is counted from here on (R355). DESIGN CHOICE (log 46): a launch that finds a thread
of the region in a slot adds to the region, whose count goes on. -/
def State.startEnergy (s : State) (root rcb : Word) : State :=
  let key := s.rootKey root rcb
  if s.threads.any (fun (p : Nat × Thread) => p.2.status ≠ .free && s.rootKey p.2.root p.2.rcb = key) then s
  else s.setPkg { s.pkg with energy := AMap.set s.pkg.energy key 0,
                             work := s.pkg.work.filter (fun p => p.1 % 2 ^ 128 ≠ key) }

/-- The launch record at the head of the queue read, its head before what its counts reach, or, in split form, one more
word of it (R207, R344). -/
def State.takeRecord (s : State) (lrec : Word) : Except Await (State × AMap Word) :=
  let read : State → AMap Word → Except Await (State × AMap Word) :=
    fun s got => s.readSome got (recordOffs got) (s.recordLoc lrec) (s.numberAt 0)
  match read s s.pkg.launchGot with
  | .error a => .error a
  | .ok (s, got) => if s.split then .ok (s, got) else read s got

/-- Whether a record has been read whole. -/
def recordWhole (got : AMap Word) : Bool := AMap.has got 16 && (recordOffs got).all (AMap.has got)

/-- The Sound die processes the next submission, or goes on with the one in process: the record is read and checked, then
the tasks are pushed and the threads filled (R152, R344). Arguments, once an access of it waits at a closed home: its number
and the location. -/
def execLaunch (s : State) : Host.Outcome State Fault Refusal :=
  .next (match s.pkg.launching with
    | some x => if !x.tasks.isEmpty then s.pushLaunch (x.tasks.length + 1) x
        else if x.since + 8000000 ≤ s.now then s.endLaunch (some 5) else s.goOnLaunch x
    | none => match s.pkg.launchQ with
      | [] => s
      | lrec :: rest =>
        match s.takeRecord lrec with
        | .error a => s.tryAgain .launch [] a
        | .ok (s, got) =>
          let s := s.setPkg { s.pkg with launchGot := got }
          let r := LRecord.ofWords got
          if !recordWhole got then s.push .launch []
          else match s.rcbShut r.root r.rcb (s.numberAt 0) with
          | some a => s.tryAgain .launch [] a
          | none =>
            let taken := s.setPkg { s.pkg with launchQ := rest, launchGot := [] }
            match launchCheck s lrec got with
            | some e => taken.endLaunch (some e)
            | none =>
              let roots := if s.pkg.roots.contains r.root then s.pkg.roots else s.pkg.roots ++ [r.root]
              ((taken.setPkg { taken.pkg with roots := roots }).startEnergy r.root r.rcb).pushLaunch (r.tasks.length + 1)
                { root := r.root, rcb := r.rcb, tasks := r.tasks, threads := r.threads, since := s.now })

/-- A fill that has waited 1 ms fails: LERR 5 (R344). -/
def execLaunchFillTimeout (s : State) : Host.Outcome State Fault Refusal :=
  .next (match s.pkg.launching with
    | some x => if x.tasks.isEmpty && x.since + 8000000 ≤ s.now then s.endLaunch (some 5) else s
    | none => s)

/-- A write to LDOOR: the record that LREC names is submitted, or dropped where 16 are queued (R344). -/
def execLdoorWrite (s : State) : Host.Outcome State Fault Refusal :=
  let p := s.pkg
  .next (if !s.answers then s
    else if 16 ≤ p.launchQ.length then s.setPkg { p with lerr := 6 }
    else
      let s := s.setPkg { p with launchQ := p.launchQ ++ [p.lrec], submitted := (p.submitted + 1) % 2 ^ 16 }
      if p.launchQ.isEmpty && p.launching.isNone then s.push .launch [] else s)

end Sys2Proof.Machine
end

