-- ==== Sys2Proof/Machine/Sha256.lean ====
section
/-!
DEFINITION. SHA-256, which the attestation report names (R357), as FIPS 180-4 gives it (log 40).
-/

namespace Sys2Proof.Machine

/-- The constants of the rounds. -/
def shaK : List (BitVec 32) :=
  [0x428A2F98, 0x71374491, 0xB5C0FBCF, 0xE9B5DBA5, 0x3956C25B, 0x59F111F1, 0x923F82A4, 0xAB1C5ED5] ++
  [0xD807AA98, 0x12835B01, 0x243185BE, 0x550C7DC3, 0x72BE5D74, 0x80DEB1FE, 0x9BDC06A7, 0xC19BF174] ++
  [0xE49B69C1, 0xEFBE4786, 0x0FC19DC6, 0x240CA1CC, 0x2DE92C6F, 0x4A7484AA, 0x5CB0A9DC, 0x76F988DA] ++
  [0x983E5152, 0xA831C66D, 0xB00327C8, 0xBF597FC7, 0xC6E00BF3, 0xD5A79147, 0x06CA6351, 0x14292967] ++
  [0x27B70A85, 0x2E1B2138, 0x4D2C6DFC, 0x53380D13, 0x650A7354, 0x766A0ABB, 0x81C2C92E, 0x92722C85] ++
  [0xA2BFE8A1, 0xA81A664B, 0xC24B8B70, 0xC76C51A3, 0xD192E819, 0xD6990624, 0xF40E3585, 0x106AA070] ++
  [0x19A4C116, 0x1E376C08, 0x2748774C, 0x34B0BCB5, 0x391C0CB3, 0x4ED8AA4A, 0x5B9CCA4F, 0x682E6FF3] ++
  [0x748F82EE, 0x78A5636F, 0x84C87814, 0x8CC70208, 0x90BEFFFA, 0xA4506CEB, 0xBEF9A3F7, 0xC67178F2]

/-- The hash value that a message begins with. -/
def shaInit : List (BitVec 32) :=
  [0x6A09E667, 0xBB67AE85, 0x3C6EF372, 0xA54FF53A, 0x510E527F, 0x9B05688C, 0x1F83D9AB, 0x5BE0CD19]

/-- The message schedule: each further word from the sixteen before it. -/
def shaSchedule : Nat → List (BitVec 32) → List (BitVec 32)
  | 0, w => w
  | n + 1, w =>
    let at_ : Nat → BitVec 32 := fun k => w.getD (w.length - k) 0
    let x := at_ 15
    let y := at_ 2
    let s0 := x.rotateRight 7 ^^^ x.rotateRight 18 ^^^ (x >>> 3)
    let s1 := y.rotateRight 17 ^^^ y.rotateRight 19 ^^^ (y >>> 10)
    shaSchedule n (w ++ [at_ 16 + s0 + at_ 7 + s1])

/-- One round on the eight working variables, with a constant and a word of the schedule. -/
def shaRound (v : List (BitVec 32)) (kw : BitVec 32 × BitVec 32) : List (BitVec 32) :=
  match v with
  | [a, b, c, d, e, f, g, h] =>
    let t1 := h + (e.rotateRight 6 ^^^ e.rotateRight 11 ^^^ e.rotateRight 25) + ((e &&& f) ^^^ (~~~e &&& g)) + kw.1 + kw.2
    let t2 := (a.rotateRight 2 ^^^ a.rotateRight 13 ^^^ a.rotateRight 22) + ((a &&& b) ^^^ (a &&& c) ^^^ (b &&& c))
    [t1 + t2, a, b, c, d + t1, e, f, g]
  | v => v

/-- A block of sixteen words added into the hash value. -/
def shaBlock (v w : List (BitVec 32)) : List (BitVec 32) :=
  ((shaK.zip (shaSchedule 48 w)).foldl shaRound v).zipWith (· + ·) v

/-- The n low bytes of a number, the high one first. -/
def bigEndian : Nat → Nat → List Nat
  | 0, _ => []
  | n + 1, v => bigEndian n (v / 256) ++ [v % 256]

/-- A message padded to whole blocks. -/
def shaPad (m : List Nat) : List Nat :=
  m ++ [0x80] ++ List.replicate ((119 - m.length % 64) % 64) 0 ++ bigEndian 8 (8 * m.length)

/-- Word k of some bytes, the high byte first. -/
def shaWord (m : List Nat) (k : Nat) : BitVec 32 := BitVec.ofNat 32 (((m.drop (4 * k)).take 4).foldl (fun n b => n * 256 + b) 0)

/-- The 32 bytes of the SHA-256 of a message, each number of which counts as a byte. -/
def sha256 (message : List Nat) : List Nat :=
  let m := shaPad (message.map (· % 256))
  let blocks := (List.range (m.length / 64)).map (fun b => (List.range 16).map (fun k => shaWord (m.drop (64 * b)) k))
  (blocks.foldl shaBlock shaInit).flatMap (fun w => bigEndian 4 w.toNat)

/-- The same as a number, its first byte the lowest. -/
def sha256Num (message : List Nat) : Nat := (sha256 message).foldr (fun b n => b + 256 * n) 0

end Sys2Proof.Machine
end

