-- ==== Sys2Proof/Machine/Outside.lean ====
section
/-!
DEFINITION. What else the outside does to the package: the registers of logical device 12, Beacon time, fabric links,
power, telemetry, attestation, boot and reset (R337-R339, R348-R358).
-/

namespace Sys2Proof.Machine

/-- A write to the register block; a package whose firmware failed ignores it (R356). -/
def hostWrite (s : State) (f : Pkg → Pkg) : State := if s.answers then s.setPkg (f s.pkg) else s

/-! ### Beacon time (R337-R339) -/

/-- The moment from which holdover TERR would pass 1 ms, looked at again (R337). -/
def State.armHoldover (s : State) : State :=
  let left := (1000000 - (10 + s.pkg.asym + s.pkg.residue)) * 20000000 - (s.ns - s.pkg.holdSince)
  s.after (8 * left) .holdoverExpiry []

/-- The Beacon in HOLDOVER from now on, free-running, until its TERR would pass 1 ms (R337). -/
def State.enterHoldover (s : State) : State :=
  (s.setPkg { s.pkg with beacon := .holdover, holdSince := s.ns, master := s.pkg.master.aim s.ns 0, residue := s.offset }).armHoldover

/-- A write to BCTL: DOMAIN and EN; clearing EN while LOCKED enters HOLDOVER (R337, R339). Argument: the value. -/
def execBctlWrite (s : State) : Host.Outcome State Fault Refusal :=
  let w := BitVec.ofNat 64 (s.arg 0)
  .next (if !s.answers then s
    else
      let s' := s.setPkg { s.pkg with bctlEn := w.getLsbD 7, domain := w.truncate 7 }
      if s.pkg.beacon = .locked && !w.getLsbD 7 then s'.enterHoldover else s')

/-- A write to ASYM; one with a bit of [63:32] set is ignored (R339). In HOLDOVER the time to its end changes with it
(R337). Argument: the value. -/
def execAsymWrite (s : State) : Host.Outcome State Fault Refusal :=
  .next (if s.arg 0 % 2 ^ 64 < 2 ^ 32 then
      let s' := hostWrite s (fun p => { p with asym := s.arg 0 % 2 ^ 64 })
      if s'.pkg.beacon = .holdover then s'.armHoldover else s'
    else s)

/-- The coalescing windows of deferred notifications looked at again, which a step of TIME may have ended (R151, R338). -/
def State.lookAtWindows (s : State) : State :=
  (s.homes.flatMap (fun (h : Nat × Home) => h.2.deferred.map (fun key => (h.1, key)))).foldl (fun s (h, key) =>
    s.push .nwinExpiry [h, key / 2 ^ 64, key % 2 ^ 64]) s

/-- The Beacon begins to follow a master: from FREE its TIME steps once, every die with it, and TERR stays all ones
until more than 1 microsecond has passed (R338); from HOLDOVER the offset is to be slewed (R337). Argument: the master's
time in ns. -/
def execBeaconLock (s : State) : Host.Outcome State Fault Refusal :=
  let p := s.pkg
  let m : Int := s.arg 0
  .next (if !p.bctlEn then s
    else match p.beacon with
      | .locked => s
      | .free => (s.setPkg { p with
          beacon := .locked, master := { base := m - s.ns, since := s.ns, rest := 0 }, dies := [], residue := 0,
          freeUntil := s.ns + 1001 }).lookAtWindows
      | .holdover => s.setPkg { p with
          beacon := .locked, master := p.master.aim s.ns (m - s.masterTime), residue := 0 })

/-- The master is lost while LOCKED (R337). -/
def execBeaconMasterLoss (s : State) : Host.Outcome State Fault Refusal :=
  .next (if s.pkg.beacon = .locked then s.enterHoldover else s)

/-- Holdover TERR would pass 1 ms: the Beacon enters FREE and TIME goes on without a step (R337). -/
def execHoldoverExpiry (s : State) : Host.Outcome State Fault Refusal :=
  .next (if s.pkg.beacon = .holdover && 1000000 ≤ s.holdBound then s.setPkg { s.pkg with beacon := .free, residue := 0 }
    else s)

/-- An IEEE 1588 message: the offset is measured anew, and slewed from now on (R337). Argument: the master's time in ns. -/
def execIeee1588Message (s : State) : Host.Outcome State Fault Refusal :=
  let p := s.pkg
  .next (if !p.bctlEn || p.beacon ≠ .locked then s
    else s.setPkg { p with master := p.master.aim s.ns ((s.arg 0 : Int) - s.masterTime) })

/-- The error of a token exchange, at most 2 ns either way. -/
def exchangeError (n : Nat) : Int := if n % 5 ≤ 2 then (n % 5 : Nat) else 2 - (n % 5 : Nat)

/-- The package master disciplines a die: its TIME moves toward the master's, as the exchange measured it, at no more than
200 ppm (R337). Arguments: the die, the error of the exchange. -/
def execBeaconDiscipline (s : State) : Host.Outcome State Fault Refusal :=
  let d := s.arg 0
  let p := s.pkg
  let own : Clock := AMap.get p.master p.dies d
  .next (if 12 ≤ d then s
    else s.setPkg { p with dies := AMap.set p.dies d (own.aim s.ns (p.master.at_ s.ns - own.at_ s.ns + exchangeError (s.arg 1))) })

/-! ### Telemetry (R354) -/

def State.pstatBits (s : State) : BitVec 3 :=
  (if s.pkg.ballast then 4 else 0) ||| (if s.pkg.filler then 2 else 0) ||| (if s.pkg.throttle then 1 else 0)

/-- Mean and peak of the last ten samples, in W. -/
def State.meanPower (s : State) : Nat := s.pkg.samples.foldl (· + ·) 0 / max s.pkg.samples.length 1 / 10
def State.peakPower (s : State) : Nat := s.pkg.samples.foldl max 0 / 10

/-- Doublewords that the Sound die stores in host memory; a request that the host aborts stores nothing (R342). -/
def State.hostPut (s : State) (l : Nat) : List Word → State
  | [] => s
  | w :: ws => (if s.hostAborts l then s else s.putWord l w).hostPut (l + 8) ws

/-- A record written to the ring in host memory, or lost where the ring is full (R354). -/
def State.writeRecord (s : State) (ws : List Word) : State :=
  let p := s.pkg
  let size := 2 ^ bits p.tlCtl 3 0
  if p.tlHead - p.tlTail.toNat = size then s.setPkg { p with tlDrop := p.tlDrop + 1 }
  else
    let s := s.hostPut (locHost (p.tlBase.toNat + 32 * (p.tlHead % size))) (BitVec.ofNat 64 p.tlHead :: ws)
    s.setPkg { s.pkg with tlHead := p.tlHead + 1 }

/-- The telemetry records made so far written, unless stores that entered the host queue earlier are still to be performed
(R205, R354). -/
def State.writeRecords (s : State) : State :=
  if s.pkg.tlWaiting.isEmpty then s
  else if s.egressBefore 128 0 then s.after 8 .telemetryRecord [0]
  else s.pkg.tlWaiting.foldl State.writeRecord (s.setPkg { s.pkg with tlWaiting := [] })

/-- A telemetry record made: its type and power fields, and PSTAT with the corrected errors (R354). -/
def State.putTelemetry (s : State) (type x y : Nat) : State :=
  let p := s.pkg
  if !p.tlCtl.getLsbD 4 then s
  else
    let last := (p.statOr ||| s.pstatBits).toNat + p.corrected % 2 ^ 24 * 2 ^ 8
    (s.setPkg { p with tlWaiting := p.tlWaiting ++
      [[s.time 12, BitVec.ofNat 64 (type + x * 2 ^ 32), BitVec.ofNat 64 (y + last * 2 ^ 32)]] }).writeRecords

/-- The record of a window of 1 ms, and the next window; with an argument, records that wait behind the host queue are looked
at again (R205, R354). -/
def execTelemetryRecord (s : State) : Host.Outcome State Fault Refusal :=
  .next (if !s.ev.isEmpty then s.writeRecords
    else if !s.pkg.tlCtl.getLsbD 4 then s
    else
      let s := s.putTelemetry 1 s.meanPower s.peakPower
      (s.setPkg { s.pkg with statOr := 0, corrected := 0 }).after 8000000 .telemetryRecord [])

/-! ### Fabric links (R348, R349) -/

/-- A location with two device numbers exchanged. -/
def swapDev (a b l : Nat) : Nat :=
  if !isDram l then l
  else if locDev l = a then l + b * 2 ^ 60 - a * 2 ^ 60
  else if locDev l = b then l + a * 2 ^ 60 - b * 2 ^ 60
  else l

/-- Memory as it stands once the package has another device number: what it holds stays its own (R348, log 18). -/
def State.swapDevices (s : State) (a b : Nat) : State :=
  if a = b then s
  else
    let words : List Nat → List Nat := fun ws => ws.foldl (fun l w => setInsert l (swapDev a b (8 * w) / 8)) []
    { s with
      mem := s.mem.foldl (fun m c => writeByte m (swapDev a b c.1) c.2) []
      empties := words s.empties
      poison := words s.poison }

/-- A write to FABCTL, ignored once LOCK is set (R348). Argument: the value. -/
def execFabctlWrite (s : State) : Host.Outcome State Fault Refusal :=
  let w := BitVec.ofNat 64 (s.arg 0)
  .next (if s.pkg.fabLock || !s.answers then s
    else (s.swapDevices s.pkg.device (bits w 6 0)).setPkg { s.pkg with device := bits w 6 0, fabLock := w.getLsbD 7 })

/-- LINKST changed, with its event record (R349, R354). -/
def State.setLinks (s : State) (v : BitVec 16) : State :=
  let s := s.setPkg { s.pkg with linkst := v }
  s.putTelemetry 2 v.toNat 0

/-- A fabric port comes UP: it leads to the devices behind it, and its heartbeats begin (R348, R349). A port that is UP
stays so. Arguments: the port, the devices. -/
def execLinkUp (s : State) : Host.Outcome State Fault Refusal :=
  let p := s.arg 0
  .next (if 16 ≤ p || !s.answers then s
    else
      let s := s.setPkg { s.pkg with
        routes := s.pkg.routes.filter (fun r => r.1 ≠ p) ++ (s.ev.drop 1).map (fun d => (p, d)) }
      if s.pkg.linkst.getLsbD p then s
      else ((s.setPkg { s.pkg with missed := AMap.set s.pkg.missed p 0 }).setLinks (s.pkg.linkst ||| (1#16 <<< p))).after
        80000000 .heartbeat [p])

/-- A heartbeat interval of an UP port: its flit is sent, the other side's has come or is missed, and the next is due in
10 ms (R349). Argument: the port. -/
def execHeartbeat (s : State) : Host.Outcome State Fault Refusal :=
  let p := s.arg 0
  .next (if !s.pkg.linkst.getLsbD p then s
    else if s.pkg.silent.contains p then
      ((s.setPkg { s.pkg with silent := s.pkg.silent.filter (· ≠ p) }).push .heartbeatMiss [p]).after 80000000 .heartbeat [p]
    else (s.setPkg { s.pkg with missed := AMap.set s.pkg.missed p 0 }).after 80000000 .heartbeat [p])

/-- A port's link begins or ends its retraining, with an event record (R8, R354; log 40). -/
def State.retrain (s : State) (p : Nat) : State :=
  let s := s.setPkg { s.pkg with retrain := s.pkg.retrain ^^^ (1#16 <<< p) }
  s.putTelemetry 2 s.pkg.linkst.toNat 0

/-- Requests that wait at a home that can no longer be reached are answered with poison, delegated calls and posts to one
are answered too (R349). -/
def State.failUnreachable (s : State) : State :=
  let waits := (s.homes.flatMap (fun (h : Nat × Home) => h.2.waiters)).filter (fun k => s.outOfReach ((s.req k).parts.headD 0))
  let s := waits.foldl (fun s k =>
    let h := homeOf ((s.req k).parts.headD 0)
    ((s.updHome h (fun x => { x with waiters := x.waiters.filter (· ≠ k) })).setReq k
      { s.req k with got := [(0, { poison := true })] }).push .memoryReply [k]) s
  let calls := (s.threads.map (·.1)).filterMap (fun t => match (s.th t).park with
    | some q => match q.await, q.instr with
      | .dlgReply _, .dlgCall _ _ _ =>
        let va := srcVal s t q.instr 0
        (match dlgAddr s t va with | .ok l => if s.outOfReach l then some (t, q.instr, va) else none | .error _ => none)
      | _, _ => none
    | none => none)
  let s := calls.foldl (fun s (t, i, va) => s.takeTrap t cPOISON 1 va 0 (encode i)) s
  let posts := s.units.flatMap (fun (u : Nat × Core) => (u.2.journal.filter (fun e =>
    e.2.dlg && e.2.refused.isNone && s.outOfReach e.2.loc)).map (fun e => (u.1, e.1)))
  posts.foldl (fun s (u, e) => s.push .postedRefusal [u, e, 1]) s

/-- A heartbeat of the other side is missed; with the fourth in a row the port goes DOWN and its
heartbeats end (R349). Argument: the port. -/
def execHeartbeatMiss (s : State) : Host.Outcome State Fault Refusal :=
  let p := s.arg 0
  let n := AMap.get 0 s.pkg.missed p + 1
  .next (if !s.pkg.linkst.getLsbD p then s
    else
      let s := s.setPkg { s.pkg with missed := AMap.set s.pkg.missed p n }
      if n < 4 then s
      else
        let s := { s with timers := s.timers.filter (fun x => !(x.2.1 = Instr.heartbeat && x.2.2 = [p])) }
        (s.setLinks (s.pkg.linkst &&& ~~~(1#16 <<< p))).failUnreachable)

/-! ### Power (R352, R353, R355) -/

/-- A write to PWRCTL, in force from the next sample; one with a must-be-zero bit set is ignored (R352). Argument: the
value. -/
def execPwrctlWrite (s : State) : Host.Outcome State Fault Refusal :=
  let w := BitVec.ofNat 64 (s.arg 0)
  .next (if bits w 15 2 ≠ 0 then s else hostWrite s (fun p => { p with pwr := w }))

/-- The fields of PWRCTL (R352): a limit above 4,600 acts as 4,600. -/
def Pkg.plim (p : Pkg) : Nat := min (bits p.pwr 63 48) 4600
def Pkg.rampUp (p : Pkg) : Nat := bits p.pwr 47 32
def Pkg.rampDn (p : Pkg) : Nat := bits p.pwr 31 16
def Pkg.noBal (p : Pkg) : Bool := p.pwr.getLsbD 1
def Pkg.noFill (p : Pkg) : Bool := p.pwr.getLsbD 0

/-- The homes of the device with a candidate at level 0, the filler level: a head of a queue that is ungated and fits a free
slot (R118, R148). -/
def State.fillerHomes (s : State) : List Nat :=
  let homes := ((s.queues.filter (fun (q : Nat × Queue) => queueDev q.1 = s.pkg.device && q.2.configured &&
    !q.2.queued.isEmpty)).map (fun q => homeOfQueue q.1)).eraseDups
  homes.filter (fun h => (s.candidates h).any (fun c => c.2.2.1 = 0))

/-- The filler tasks drawn that still run (R353). -/
def State.fillersRunning (s : State) : List (Nat × Nat) :=
  s.pkg.fillers.filter (fun x => (s.queue x.1).running.any (fun r => r.seq = x.2))

/-- The power controller draws level-0 queues into free slots (R353). -/
def State.drawFiller (s : State) : State := s.fillerHomes.foldl (fun s h => s.push .nearDispatch [h, 1]) s

/-- A power sample, each 100 microseconds, in tenths of a watt: the ceiling throttles, the floor draws filler and then runs
ballast; FILLER stands while tasks are drawn or drawn ones run (R353). -/
def execPowerSample (s : State) : Host.Outcome State Fault Refusal :=
  let p := s.pkg
  let demand := 10 * p.demand
  let up := min (10 * p.plim) (p.power + p.rampUp)
  let down := p.power - p.rampDn
  let short := down - demand
  let draws := !p.noFill && 0 < short && !s.fillerHomes.isEmpty
  let runs := s.fillersRunning
  let fill := if draws || !runs.isEmpty then min short (10 * p.fillerDraw) else 0
  let allFailed := 784 ≤ (s.clusters.filter (fun (c : Nat × Cluster) => c.2.failed)).length
  let ball := if p.noBal || allFailed then 0 else short - fill
  let power := if up < demand then up else demand + fill + ball
  let s' := s.setPkg { p with
    power := power, throttle := up < demand, filler := draws || !runs.isEmpty, fillers := runs, ballast := 0 < ball,
    samples := (p.samples ++ [power]).drop (p.samples.length + 1 - 10),
    ballasts := (p.ballasts ++ [if up < demand then 0 else ball]).drop (p.ballasts.length + 1 - 10) }
  let s' := (s'.setPkg { s'.pkg with statOr := s'.pkg.statOr ||| s'.pstatBits }).after 800000 .powerSample []
  .next (if draws then s'.drawFiller else s')

/-- The energy of the last ten samples of 100 microseconds without the ballast's, which goes to no region, in microjoules
(R355). -/
def State.windowEnergy (s : State) : Nat := 10 * (s.pkg.samples.foldl (· + ·) 0 - s.pkg.ballasts.foldl (· + ·) 0)

/-- The window's work on a die, by root region. -/
def State.workOn (s : State) (die : Nat) : List (Nat × Nat) :=
  (s.pkg.work.filter (fun p => p.1 / 2 ^ 128 = die)).map (fun p => (p.1 % 2 ^ 128, p.2))

/-- A die's share of what is left of the measured energy, charged to its regions in proportion to their work (R355). Which
part each die's work has used is measured, and idle energy goes to no region: a free value (log 4). -/
def State.chargeDie (x : Nat × State) (die : Nat) : Nat × State :=
  let (left, s) := x
  let ws := s.workOn die
  let sum := ws.foldl (fun n w => n + w.2) 0
  if sum = 0 then (left, s)
  else
    let (n, s) := s.drawFree
    let e := (Config.freeWord n).toNat % (left + 1)
    let energy := ws.foldl (fun m w => AMap.set m w.1 (AMap.get 0 m w.1 + e * w.2 / sum)) s.pkg.energy
    (left - e, s.setPkg { s.pkg with energy := energy })

/-- Each 1 ms of measured energy is charged to the root regions that issued and ran commands in it (R355). -/
def execEnergyUpdate (s : State) : Host.Outcome State Fault Refusal :=
  let s' := ((upTo 12).foldl State.chargeDie (s.windowEnergy, s)).2
  .next ((s'.setPkg { s'.pkg with work := [] }).after 8000000 .energyUpdate [])

/-! ### Registers without behaviour of their own (R344, R354, R357) -/

/-- TLCTL written: enabling telemetry begins a window, and disabling it ends the one that runs (R354). -/
def State.setTlCtl (s : State) (v : Word) : State :=
  let was := s.pkg.tlCtl.getLsbD 4
  let s := s.setPkg { s.pkg with tlCtl := v &&& 31 }
  if v.getLsbD 4 && !was then (s.setPkg { s.pkg with statOr := 0 }).after 8000000 .telemetryRecord []
  else if was && !v.getLsbD 4 then { s with timers := s.timers.filter (fun x => !(x.2.1 = .telemetryRecord && x.2.2.isEmpty)) }
  else s

/-- A host write to LREC, TLBASE, TLCTL, TLTAIL, ANONCE or ADEST (R344, R354, R357). Arguments: the offset, the value. -/
def execRegisterWrite (s : State) : Host.Outcome State Fault Refusal :=
  let v := BitVec.ofNat 64 (s.arg 1)
  .next (match s.arg 0 with
    | 0x000 => hostWrite s (fun p => { p with lrec := v })
    | 0x210 => hostWrite s (fun p => { p with tlBase := v })
    | 0x218 => if s.answers then s.setTlCtl v else s
    | 0x220 => hostWrite s (fun p => { p with tlTail := v })
    | 0x400 => hostWrite s (fun p => { p with anonce := AMap.set p.anonce 0 v })
    | 0x408 => hostWrite s (fun p => { p with anonce := AMap.set p.anonce 1 v })
    | 0x410 => hostWrite s (fun p => { p with anonce := AMap.set p.anonce 2 v })
    | 0x418 => hostWrite s (fun p => { p with anonce := AMap.set p.anonce 3 v })
    | 0x420 => hostWrite s (fun p => { p with adest := v })
    | _ => s)

/-- A register of logical device 12 as the host reads it (R339, R341, R344, R350-R357). -/
def State.ldRegister (s : State) (off : Nat) : Word :=
  let p := s.pkg
  let n : Nat → Word := BitVec.ofNat 64
  let b : Bool → Nat := fun x => if x then 1 else 0
  if off = 0x508 then n (p.bootImage * 256 + p.bootState)
  else if !s.answers then 0
  else match off with
    | 0x000 => p.lrec
    | 0x010 => n (p.submitted * 2 ^ 32 + p.doneCount * 2 ^ 16 + p.lerr)
    | 0x100 => n ((match p.beacon with | .free => 0 | .locked => 1 | .holdover => 2) * 256 + b p.bctlEn * 128 + p.domain.toNat)
    | 0x108 => n p.asym
    | 0x110 => s.time 12
    | 0x118 => s.terr
    | 0x200 => p.pwr
    | 0x208 => n (s.meanPower * 2 ^ 32 + s.pstatBits.toNat)
    | 0x210 => p.tlBase
    | 0x218 => p.tlCtl
    | 0x220 => p.tlTail
    | 0x228 => n p.tlHead
    | 0x230 => n p.tlDrop
    | 0x308 => n (p.contQ.length * 256 + p.cstatErr)
    | 0x310 => n (b p.fabLock * 128 + p.device)
    | 0x318 => p.linkst.zeroExtend 64
    | 0x400 => AMap.get 0 p.anonce 0
    | 0x408 => AMap.get 0 p.anonce 1
    | 0x410 => AMap.get 0 p.anonce 2
    | 0x418 => AMap.get 0 p.anonce 3
    | 0x420 => p.adest
    | 0x430 => n (p.fuse * 2 ^ 32 + if p.astat ≠ 1 && 32768 ≤ p.fuse then 3 else p.astat)
    | _ => 0

/-! ### Attestation (R357) -/

/-- A write to ADOOR: the fuse counter is burned forward and the report is signed with the leaf it gave. It is ignored
while an attestation runs and once 32,768 leaves are used (R357). -/
def execAdoorWrite (s : State) : Host.Outcome State Fault Refusal :=
  let p := s.pkg
  .next (if !s.answers || p.astat = 1 || 32768 ≤ p.fuse then s
    else (s.setPkg { p with astat := 1, leaf := p.fuse, fuse := p.fuse + 1 }).push .attestationComplete [])

/-- A number's doublewords, from the low one up. -/
def wordsOfNat : Nat → Nat → List Word
  | 0, _ => []
  | n + 1, v => BitVec.ofNat 64 v :: wordsOfNat n (v / 2 ^ 64)

/-- The 192 bytes that are signed (R357). -/
def State.report (s : State) : List Word :=
  [1, BitVec.ofNat 64 s.pkg.leaf] ++ (upTo 4).map (fun k => AMap.get 0 s.pkg.anonce k) ++ wordsOfNat 2 Config.serial ++
  (upTo 4).flatMap (fun k => wordsOfNat 4 (sha256Num (AMap.get [] s.pkg.images k)))

/-- Bytes of an LMS signature with H15 and 34 chains of 32 bytes (RFC 8554): q, the LM-OTS type, C and y; the LMS type and
the path. -/
def signatureLength : Nat := 1612

/-- Byte k of a signature: RFC 8554 fixes q, the leaf, and the two type codes, 4 for LMOTS_SHA256_N32_W8 and 7 for
LMS_SHA256_M32_H15, as 4-byte big-endian numbers; the rest is the key's (log 40). -/
def signatureAt (leaf : Nat) (report : List Word) (k : Nat) : Byte :=
  if k < 4 then BitVec.ofNat 8 (leaf / 256 ^ (3 - k))
  else if k < 8 then (if k = 7 then 4 else 0)
  else if 1128 ≤ k && k < 1132 then (if k = 1131 then 7 else 0)
  else Config.signatureByte leaf report k

/-- Bytes that the Sound die stores in host memory (R342). -/
def State.hostPutBytes (s : State) (l : Nat) : List Byte → State
  | [] => s
  | b :: bs => (if s.hostAborts l then s else s.writeBytes l [b]).hostPutBytes (l + 1) bs

/-- The signed report is written to ADEST, behind the stores that entered the host queue earlier, and ASTAT reads done (R205,
R342, R357). -/
def execAttestationComplete (s : State) : Host.Outcome State Fault Refusal :=
  let p := s.pkg
  .next (if p.astat ≠ 1 then s
    else if s.egressBefore 128 0 then s.after 8 .attestationComplete []
    else
      let l := locHost p.adest.toNat
      let s := (s.hostPut l s.report).hostPutBytes (l + 192) ((upTo signatureLength).map (signatureAt p.leaf s.report))
      s.setPkg { s.pkg with astat := 2 })

/-! ### Boot and reset (R356, R358) -/

/-- Whether a location lies outside the package: host memory, or another device's. -/
def State.elsewhere (s : State) (l : Nat) : Bool := isHost l || (isDram l && locDev l ≠ s.pkg.device)

/-- The package's own registers at their reset values, but for the fuse counter, the engine key and what the outside is
(R358). -/
def State.resetPkg (s : State) : Pkg :=
  { fuse := s.pkg.fuse, keyEpoch := s.pkg.keyEpoch, routes := s.pkg.routes, hostAbort := s.pkg.hostAbort,
    demand := s.pkg.demand, fillerDraw := s.pkg.fillerDraw, caplist := s.pkg.caplist }

/-- A reset of the package (R358): every part at its reset value, but for what lies outside it, the fuse counter, and the
engine key, which is drawn anew. Another device that has number 0 takes the number this one gives up (log 18). What the
outside is yet to do stays. -/
def State.packageReset (s : State) : State :=
  let out := ({ s with
    mem := s.mem.filter (fun c => s.elsewhere c.1)
    empties := s.empties.filter (fun w => s.elsewhere (8 * w))
    poison := s.poison.filter (fun w => s.elsewhere (8 * w)) }).swapDevices s.pkg.device 0
  { State.reset with
    mem := out.mem
    empties := out.empties
    poison := out.poison
    pkg := { s.resetPkg with keyEpoch := s.pkg.keyEpoch + 1 }
    plan := s.plan, split := s.split, fresh := s.fresh, free := s.free }

/-- A write to RSTCTL: the reset key resets the package (R358). Argument: the value. -/
def execRstctlWrite (s : State) : Host.Outcome State Fault Refusal :=
  .next (if s.arg 0 = 0xC0DE0001 then s.packageReset else s)

/-- Power comes on (R358). -/
def execPowerOn (s : State) : Host.Outcome State Fault Refusal := .next s.packageReset

/-- Whether an image verifies against one of the four fused key hashes (R356). -/
def imageGood (image : List Nat) : Bool := (upTo 4).any (fun k => Config.lmsVerifies (Config.fusedKeyHash k) image)

/-- Every die held in reset by an image that failed, with nothing under way and the registers reset; what answers is the host
port with RSTCTL and BOOTST (R356). -/
def State.holdInReset (s : State) (image : Nat) : State :=
  { s with
    timers := [], agenda := [], resume := none
    pkg := { s.resetPkg with device := s.pkg.device, bootImage := image, bootState := 2 } }

/-! ### The capability list (R359) -/

/-- An entry of the capability list: its ID and the payload of version 1. -/
structure CapEntry where
  id : Nat
  payload : List Word
  deriving DecidableEq, Repr

/-- The entries of a device (R359). DESIGN CHOICE (log 51): each number of a payload is one doubleword, in the order in
which R359 lists them. -/
def capabilities (device : Nat) : List CapEntry :=
  let entry : Nat → List Nat → CapEntry := fun id l => { id := id, payload := l.map (BitVec.ofNat 64) }
  [entry 1 [1, 64, 2048], entry 2 [64, 64, 16, 4, 1, 6], entry 3 [9, 1], entry 4 [16, 64], entry 5 [2], entry 6 [1],
   entry 7 [4, 480], entry 8 [16, device], entry 9 [8, 6, 4], entry 10 [4600, 100]]

/-- The doublewords of an entry, with the address of the next: ID, VERSION 1, LENGTH, NEXT, payload (R359). -/
def CapEntry.words (e : CapEntry) (next : Word) : List Word :=
  [BitVec.ofNat 64 (e.id + 2 ^ 16 + 8 * e.payload.length * 2 ^ 32), next] ++ e.payload

/-- The list laid out from an address on, entry behind entry; NEXT of the last is 0. -/
def capWords (at_ : Word) : List CapEntry → List Word
  | [] => []
  | e :: es =>
    let next := at_ + BitVec.ofNat 64 (16 + 8 * e.payload.length)
    e.words (if es.isEmpty then 0 else next) ++ capWords next es

/-- The list that CAPLIST names, as the doublewords from its address on. -/
def State.capList (s : State) : List Word := capWords s.pkg.caplist (capabilities s.pkg.device)

/-- Where doubleword j of the list stands. DESIGN CHOICE (log 51): in near-tier DRAM of die 0, from the offset that CAPLIST
holds on, so that a page whose addresses are its offsets there shows it. -/
def State.capLoc (s : State) (j : Nat) : Nat := placeDram s.pkg.device 0 0 (s.pkg.caplist.toNat + 8 * j)

/-- The list placed in memory, for software to follow from CAPLIST (R359). -/
def State.placeCaps (s : State) : State :=
  (upTo s.capList.length).foldl (fun s' j => s'.putWord (s.capLoc j) (s.capList.getD j 0)) s

/-! ### The boot of the package (R356) -/

/-- The root of trust loads the next firmware image from the boot window and verifies it: the four verified, the dies run,
the capability list in its place (R359, log 51); one that fails holds them in reset (R356). Arguments: the image's number, and its bytes. -/
def execBootVerify (s : State) : Host.Outcome State Fault Refusal :=
  let p := s.pkg
  let image := s.ev.drop 1
  .next (if p.bootState ≠ 0 || s.arg 0 ≠ p.verified then s
    else if !imageGood image then s.holdInReset (s.arg 0)
    else
      let s := if p.verified + 1 = 4 then s.placeCaps else s
      s.setPkg { p with
        bootImage := s.arg 0, verified := p.verified + 1, images := AMap.set p.images (s.arg 0) image,
        bootState := if p.verified + 1 = 4 then 1 else 0 })

end Sys2Proof.Machine
end

