-- ==== Sys2Proof/Machine/Threads.lean ====
section
/-!
DEFINITION. The `thr` major (R131-R137), and the commits of core-shared registers (R34, R127).
-/

namespace Sys2Proof.Machine

/-! ### `thr` (R131-R137) -/

/-- The registers a child takes over from its parent (R132). -/
def spawnRegs (th : Thread) (n : Nat) : List Nat := [5, 6, 7, 8].filter (fun i => i < n && i < th.lim)

/-- thr.spawn: a new thread of the issuer's region on its unit (R132). DESIGN CHOICE (log 49): a child register that the
parent has not got is 0. -/
def execThrSpawn (d a b : BitVec 7) (s : State) : Host.Outcome State Fault Refusal :=
  let i : Instr := .thrSpawn d a b
  runWord i s (fun s t =>
    let u := unitOfThread t
    let th := s.th t
    let n := bits (srcVal s t i 1) 6 0
    if inServer t then .trap cQUEUE 0 0 0
    else
      let refused := Res.done ((s.writeDest t d 0).wst t wstREFUSED)
      if n % 8 ≠ 0 || n < 8 || 112 < n || th.twin.isSome then refused
      else match s.fillPlace u n th.root th.rcb false with
        | none => refused
        | some (k, base) => match regsState th (spawnRegs th n) (spawnRegs th n) with
          | some r => r
          | none =>
            let c := u * 64 + k
            let child := (freshThread (srcVal s t i 0) th.root th.rcb th.st.mode base n s.fresh).setRegs
              ((spawnRegs th n).map (fun i => (i, th.reg i)))
            let s := { (s.fill c child) with fresh := s.fresh + 1 }
            .done ((s.writeDest t d (tidOfPlace s.pkg.device c)).wst t wstOK))

/-- thr.exit: drain, then free the slot; a handler slot leaves its thread FROZEN and posts its record, and in a server
slot it ends the routine (R133, R295). -/
def execThrExit (s : State) : Host.Outcome State Fault Refusal :=
  runWord .thrExit s (fun s t =>
    let th := s.th t
    if th.task ≠ 0 then .trap cQUEUE 0 0 0
    else drainThen s t (fun s =>
      if inServer t then .sent (s.routineEnd (unitOfThread t))
      else
        let s := match th.handles with
          | some h => s.postFault (s.th h).root (s.th h).rcb (s.th h).record
          | none => if th.pageReq.isSome then s.postFault th.root th.rcb th.record else s
        .sent (s.freeSlot t)))

/-- thr.yield: yielding until the rotation ends (R134). -/
def execThrYield (s : State) : Host.Outcome State Fault Refusal :=
  runWord .thrYield s (fun s t => .done (s.updTh t (fun th => { th with yielding := true })))

/-- The neighbouring core in a direction, 0 north 1 east 2 south 3 west (R128). -/
def neighbour (u dir : Nat) : Option Nat :=
  let die := dieOf u
  let k := clusterOf u
  let j := coreOf u
  let col := j % 16
  let row := j / 16
  match dir with
  | 0 => if 0 < row then some (mkCape die k (j - 16)) else if 14 ≤ k then some (mkCape die (k - 14) (112 + col)) else none
  | 1 => if col < 15 then some (mkCape die k (j + 1)) else if k % 14 < 13 then some (mkCape die (k + 1) (row * 16)) else none
  | 2 => if row < 7 then some (mkCape die k (j + 16)) else if k + 14 < 98 then some (mkCape die (k + 14) col) else none
  | _ => if 0 < col then some (mkCape die k (j - 1)) else if 0 < k % 14 then some (mkCape die (k - 1) (row * 16 + 15)) else none

/-- thr.nwr: a word to a neighbour's mailbox; several writers in the order of their issue (R128, R129, R135). DESIGN
CHOICE (log 49): a region whose RCB chain does not read has no budget, and the write is REFUSED. -/
def execThrNwr (d a : BitVec 7) (s : State) : Host.Outcome State Fault Refusal :=
  let i : Instr := .thrNwr d a
  runWord i s (fun s t =>
    let u := unitOfThread t
    let th := s.th t
    let refused := Res.done (s.wst t wstREFUSED)
    if isSkerry u then refused
    else match neighbour u d.toNat, effBudget s th.root treeDepth th.rcb with
      | some v, some b =>
        let m := (d.toNat + 2) % 4
        if !b.hasCluster (dieOf v) (clusterOf v) then refused
        else if (AMap.get none (s.core v).mbox m).isSome || s.writesBefore t i then .park (.mboxRoom v m)
        else .done ((s.updCore v (fun c => { c with mbox := AMap.set c.mbox m (some (srcVal s t i 0)) })).wst t wstOK)
      | _, _ => refused)

/-- thr.stw: pins an entry or releases it, from the next rebalance on (R136). -/
def execThrStw (a b : BitVec 7) (s : State) : Host.Outcome State Fault Refusal :=
  let i : Instr := .thrStw a b
  runWord i s (fun s t =>
    let u := unitOfThread t
    let n := slotsOf u
    let e := bits (srcVal s t i 0) 5 0
    let w := srcVal s t i 1
    let valid := w.getLsbD 14
    let slot := bits w 5 0
    let c := s.core u
    let clash := fun (f : Nat) (x : SlotEntry) => f ≠ e && x.pin && x.valid && x.slot = slot && cyclicDist n e f < spacingOf u
    let put := fun (x : SlotEntry) => Res.done ((s.updCore u (fun c => { c with stw := insertTimed c.stw (s.claimOf t i) (e, x) })).wst t wstOK)
    if n ≤ e then .done (s.wst t wstREFUSED)
    else if !w.getLsbD 15 then put {}
    else if valid && ((upTo n).any (fun f => clash f (c.entry f)) || c.stw.any (fun (_, f, x) => clash f x)) then
      .done (s.wst t wstREFUSED)
    else put { pin := true, valid := valid, slot := slot })

/-! ### Core-shared registers (R34, R127) -/

/-- A write to a core-shared register commits 12 cycles after its issue, unless a later write already holds it (R34). -/
def Core.commitShared (c : Core) (due r : Nat) (v : Word) : Core :=
  if AMap.get 0 c.cAt r ≤ due then { c with c := AMap.set c.c r v, cAt := AMap.set c.cAt r due } else c

/-- A core-shared register's commit (R34, R127). Argument: the unit. -/
def execCoreSharedCommit (s : State) : Host.Outcome State Fault Refusal :=
  .next (s.updCore (s.arg 0) (fun c =>
    match c.commits with
    | (k, .shared r v) :: rest => if k ≤ c.cycle then { c with commits := rest }.commitShared k r v else c
    | _ => c))

end Sys2Proof.Machine
end

