-- ==== Sys2Proof/Machine/Vector.lean ====
section
/-!
DEFINITION. The vector lane instructions `vop` and `vsc` (R159-R168). A lane is a `Nat` below 2^w, w its width in bits.
-/

namespace Sys2Proof.Machine

/-! ### Lanes (R159) -/

/-- Lane i of width w. -/
def laneOf (w : Nat) (x : BitVec 256) (i : Nat) : Nat := x.toNat / 2 ^ (w * i) % 2 ^ w
def lanesOf (w : Nat) (x : BitVec 256) : List Nat := (upTo (256 / w)).map (laneOf w x)

/-- Lanes of width w as a number, lane 0 lowest. -/
def packLanes (w : Nat) : List Nat → Nat
  | [] => 0
  | y :: ys => y % 2 ^ w + 2 ^ w * packLanes w ys

def vecOfLanes (w : Nat) (l : List Nat) : BitVec 256 := BitVec.ofNat 256 (packLanes w l)

/-- A lane as a signed number, and a number as a lane. -/
def signedLane (w x : Nat) : Int := if x.testBit (w - 1) then (x : Int) - 2 ^ w else x
def laneOfInt (w : Nat) (v : Int) : Nat := (v % 2 ^ w).toNat
/-- All ones where a comparison holds, else zero (R163). -/
def laneMask (w : Nat) (h : Bool) : Nat := if h then 2 ^ w - 1 else 0
/-- A signed sum clamped to the lane (R163). -/
def clampLane (w : Nat) (v : Int) : Nat := laneOfInt w (max (-(2 ^ (w - 1))) (min (2 ^ (w - 1) - 1) v))

/-- Lane results with their flags: the lanes, and the flags ORed (R161). -/
def orFlags (l : List (Nat × Flags)) : Flags := l.foldl (fun f r => f ||| r.2) 0

/-- Lanes and flags as a vector instruction's result (R160, R161). -/
def vecResult (s : State) (t : Nat) (v : BitVec 5) (w : Nat) (l : List (Nat × Flags)) : Res :=
  .done ((s.writeVec t v (vecOfLanes w (l.map (·.1)))).flag t (orFlags l))

/-- The n-th vector source's lanes. -/
def vsrc (s : State) (t : Nat) (i : Instr) (n w : Nat) : List Nat := lanesOf w (vecVal s t i n)

/-- The integer functions of two lanes (R163). -/
def laneTwo (i : Instr) (v : BitVec 5) (l : BitVec 2) (f : Nat → Nat → Nat → Nat) (s : State) :
    Host.Outcome State Fault Refusal :=
  runWord i s (fun s t =>
    let w := laneBits l
    .done (s.writeVec t v (vecOfLanes w (List.zipWith (f w) (vsrc s t i 0 w) (vsrc s t i 1 w)))))

/-- The format of a floating-point lane function (R164). -/
def laneFmt (th : Thread) (l : BitVec 2) : Fmt :=
  if l.toNat = 0 then .fp32 else if th.st.ppFmt && pfxAB th.st.pfxF = 2 then .bf16 else .fp16

/-- The floating-point functions of two lanes (R164). -/
def laneFp (i : Instr) (v : BitVec 5) (l : BitVec 2) (f : Fmt → Mode → Nat → Nat → Nat × Flags) (s : State) :
    Host.Outcome State Fault Refusal :=
  runWord i s (fun s t =>
    let w := laneBits l
    vecResult s t v w (List.zipWith (f (laneFmt (s.th t) l) (effMode (s.th t))) (vsrc s t i 0 w) (vsrc s t i 1 w)))

/-- The steps of R81, R82 and R57 on patterns. -/
def laneAdd (F : Fmt) (m : Mode) (x y : Nat) : Nat × Flags := F.add m (F.value x) (F.value y)
def laneSub (F : Fmt) (m : Mode) (x y : Nat) : Nat × Flags := F.add m (F.value x) (F.value y).flip
def laneMul (F : Fmt) (m : Mode) (x y : Nat) : Nat × Flags := F.mul m (F.value x) (F.value y)
def laneFma (F : Fmt) (m : Mode) (z x y : Nat) : Nat × Flags := F.fma m (F.value x) (F.value y) (F.value z)
def laneCmp (code : Nat) (F : Fmt) (_ : Mode) (x y : Nat) : Nat × Flags :=
  let (h, f) := F.compareOp code x y
  (laneMask F.width h, f)

/-- A lane converted from one format code to another, as the lane holds it (R165). -/
def laneConvert (w ab d : Nat) (m : Mode) (x : Nat) : Nat × Flags :=
  let (r, f) := convert d m (valueOfCode ab x)
  (r.toNat % 2 ^ w, f)

/-! ### `vop`, integer (R163) -/

/-- vop.add: x + y (R163). -/
def execVopAdd (v a b : BitVec 5) (l : BitVec 2) (s : State) : Host.Outcome State Fault Refusal :=
  laneTwo (.vopAdd v a b l) v l (fun _ x y => x + y) s

/-- vop.sub: x - y (R163). -/
def execVopSub (v a b : BitVec 5) (l : BitVec 2) (s : State) : Host.Outcome State Fault Refusal :=
  laneTwo (.vopSub v a b l) v l (fun w x y => x + 2 ^ w - y) s

/-- vop.mul: the low bits of x × y (R163). -/
def execVopMul (v a b : BitVec 5) (l : BitVec 2) (s : State) : Host.Outcome State Fault Refusal :=
  laneTwo (.vopMul v a b l) v l (fun _ x y => x * y) s

/-- vop.min, signed (R163). -/
def execVopMin (v a b : BitVec 5) (l : BitVec 2) (s : State) : Host.Outcome State Fault Refusal :=
  laneTwo (.vopMin v a b l) v l (fun w x y => if signedLane w y < signedLane w x then y else x) s

/-- vop.max, signed (R163). -/
def execVopMax (v a b : BitVec 5) (l : BitVec 2) (s : State) : Host.Outcome State Fault Refusal :=
  laneTwo (.vopMax v a b l) v l (fun w x y => if signedLane w x < signedLane w y then y else x) s

/-- vop.minu (R163). -/
def execVopMinu (v a b : BitVec 5) (l : BitVec 2) (s : State) : Host.Outcome State Fault Refusal :=
  laneTwo (.vopMinu v a b l) v l (fun _ x y => min x y) s

/-- vop.maxu (R163). -/
def execVopMaxu (v a b : BitVec 5) (l : BitVec 2) (s : State) : Host.Outcome State Fault Refusal :=
  laneTwo (.vopMaxu v a b l) v l (fun _ x y => max x y) s

/-- vop.and (R163). -/
def execVopAnd (v a b : BitVec 5) (l : BitVec 2) (s : State) : Host.Outcome State Fault Refusal :=
  laneTwo (.vopAnd v a b l) v l (fun _ x y => x &&& y) s

/-- vop.or (R163). -/
def execVopOr (v a b : BitVec 5) (l : BitVec 2) (s : State) : Host.Outcome State Fault Refusal :=
  laneTwo (.vopOr v a b l) v l (fun _ x y => x ||| y) s

/-- vop.xor (R163). -/
def execVopXor (v a b : BitVec 5) (l : BitVec 2) (s : State) : Host.Outcome State Fault Refusal :=
  laneTwo (.vopXor v a b l) v l (fun _ x y => x ^^^ y) s

/-- vop.sll by y mod w (R163). -/
def execVopSll (v a b : BitVec 5) (l : BitVec 2) (s : State) : Host.Outcome State Fault Refusal :=
  laneTwo (.vopSll v a b l) v l (fun w x y => x * 2 ^ (y % w)) s

/-- vop.srl by y mod w (R163). -/
def execVopSrl (v a b : BitVec 5) (l : BitVec 2) (s : State) : Host.Outcome State Fault Refusal :=
  laneTwo (.vopSrl v a b l) v l (fun w x y => x / 2 ^ (y % w)) s

/-- vop.sra by y mod w (R163). -/
def execVopSra (v a b : BitVec 5) (l : BitVec 2) (s : State) : Host.Outcome State Fault Refusal :=
  laneTwo (.vopSra v a b l) v l (fun w x y => laneOfInt w (signedLane w x / 2 ^ (y % w))) s

/-- vop.adds: the sum clamped (R163). -/
def execVopAdds (v a b : BitVec 5) (l : BitVec 2) (s : State) : Host.Outcome State Fault Refusal :=
  laneTwo (.vopAdds v a b l) v l (fun w x y => clampLane w (signedLane w x + signedLane w y)) s

/-- vop.subs: the difference clamped (R163). -/
def execVopSubs (v a b : BitVec 5) (l : BitVec 2) (s : State) : Host.Outcome State Fault Refusal :=
  laneTwo (.vopSubs v a b l) v l (fun w x y => clampLane w (signedLane w x - signedLane w y)) s

/-- vop.ceq (R163). -/
def execVopCeq (v a b : BitVec 5) (l : BitVec 2) (s : State) : Host.Outcome State Fault Refusal :=
  laneTwo (.vopCeq v a b l) v l (fun w x y => laneMask w (x = y)) s

/-- vop.clt, signed (R163). -/
def execVopClt (v a b : BitVec 5) (l : BitVec 2) (s : State) : Host.Outcome State Fault Refusal :=
  laneTwo (.vopClt v a b l) v l (fun w x y => laneMask w (signedLane w x < signedLane w y)) s

/-- vop.cltu (R163). -/
def execVopCltu (v a b : BitVec 5) (l : BitVec 2) (s : State) : Host.Outcome State Fault Refusal :=
  laneTwo (.vopCltu v a b l) v l (fun w x y => laneMask w (x < y)) s

/-- vop.sel: the lane of va where vd's lane has its top bit set, else of vb (R163). -/
def execVopSel (v a b : BitVec 5) (l : BitVec 2) (s : State) : Host.Outcome State Fault Refusal :=
  let i : Instr := .vopSel v a b l
  runWord i s (fun s t =>
    let w := laneBits l
    .done (s.writeVec t v (vecOfLanes w ((upTo (laneCount l)).map (fun k =>
      if (laneOf w (vecVal s t i 0) k).testBit (w - 1) then laneOf w (vecVal s t i 1) k else laneOf w (vecVal s t i 2) k)))))

/-- vop.shuf: the lane of va that vb's lane numbers, 0 past the last (R163). -/
def execVopShuf (v a b : BitVec 5) (l : BitVec 2) (s : State) : Host.Outcome State Fault Refusal :=
  let i : Instr := .vopShuf v a b l
  runWord i s (fun s t =>
    let w := laneBits l
    .done (s.writeVec t v (vecOfLanes w ((vsrc s t i 1 w).map (fun y => (vsrc s t i 0 w).getD y 0)))))

/-! ### `vop`, floating point (R164) -/

/-- vop.fadd (R164). -/
def execVopFadd (v a b : BitVec 5) (l : BitVec 2) (s : State) : Host.Outcome State Fault Refusal :=
  laneFp (.vopFadd v a b l) v l laneAdd s

/-- vop.fsub (R164). -/
def execVopFsub (v a b : BitVec 5) (l : BitVec 2) (s : State) : Host.Outcome State Fault Refusal :=
  laneFp (.vopFsub v a b l) v l laneSub s

/-- vop.fmul (R164). -/
def execVopFmul (v a b : BitVec 5) (l : BitVec 2) (s : State) : Host.Outcome State Fault Refusal :=
  laneFp (.vopFmul v a b l) v l laneMul s

/-- vop.fmin (R164). -/
def execVopFmin (v a b : BitVec 5) (l : BitVec 2) (s : State) : Host.Outcome State Fault Refusal :=
  laneFp (.vopFmin v a b l) v l (fun F _ x y => F.minmax false x y) s

/-- vop.fmax (R164). -/
def execVopFmax (v a b : BitVec 5) (l : BitVec 2) (s : State) : Host.Outcome State Fault Refusal :=
  laneFp (.vopFmax v a b l) v l (fun F _ x y => F.minmax true x y) s

/-- vop.fceq (R164). -/
def execVopFceq (v a b : BitVec 5) (l : BitVec 2) (s : State) : Host.Outcome State Fault Refusal :=
  laneFp (.vopFceq v a b l) v l (laneCmp 8) s

/-- vop.fclt (R164). -/
def execVopFclt (v a b : BitVec 5) (l : BitVec 2) (s : State) : Host.Outcome State Fault Refusal :=
  laneFp (.vopFclt v a b l) v l (laneCmp 10) s

/-- vop.fcle (R164). -/
def execVopFcle (v a b : BitVec 5) (l : BitVec 2) (s : State) : Host.Outcome State Fault Refusal :=
  laneFp (.vopFcle v a b l) v l (laneCmp 13) s

/-- vop.ffma: z + x × y with one rounding, z the lane of vd (R164). -/
def execVopFfma (v a b : BitVec 5) (l : BitVec 2) (s : State) : Host.Outcome State Fault Refusal :=
  let i : Instr := .vopFfma v a b l
  runWord i s (fun s t =>
    let w := laneBits l
    vecResult s t v w ((upTo (laneCount l)).map (fun k =>
      laneFma (laneFmt (s.th t) l) (effMode (s.th t)) (laneOf w (vecVal s t i 0) k) (laneOf w (vecVal s t i 1) k)
        (laneOf w (vecVal s t i 2) k))))

/-! ### `vop`, conversions (R165) -/

/-- vop.fcvt, lane i to lane i (R165). -/
def execVopFcvt (v a : BitVec 5) (l : BitVec 2) (s : State) : Host.Outcome State Fault Refusal :=
  let i : Instr := .vopFcvt v a l
  runWord i s (fun s t =>
    let w := laneBits l
    let c := if l.toNat = 0 then 0 else 1
    let (ab, d) := fmtsOf (s.th t) c c
    vecResult s t v w ((vsrc s t i 0 w).map (laneConvert w ab d (effMode (s.th t)))))

/-- The widening conversions: 16-bit lanes from `first` on to the 32-bit lanes (R165). -/
def laneWiden (i : Instr) (v : BitVec 5) (first : Nat) (s : State) : Host.Outcome State Fault Refusal :=
  runWord i s (fun s t =>
    let (ab, d) := fmtsOf (s.th t) 1 0
    vecResult s t v 32 ((((vsrc s t i 0 16).drop first).take 8).map (laneConvert 32 ab d (effMode (s.th t)))))

/-- vop.wlo: lanes 0 to 7 (R165). -/
def execVopWlo (v a : BitVec 5) (s : State) : Host.Outcome State Fault Refusal := laneWiden (.vopWlo v a) v 0 s

/-- vop.whi: lanes 8 to 15 (R165). -/
def execVopWhi (v a : BitVec 5) (s : State) : Host.Outcome State Fault Refusal := laneWiden (.vopWhi v a) v 8 s

/-- vop.nar: the lanes of va, then those of vb, to 16 bits (R165). -/
def execVopNar (v a b : BitVec 5) (s : State) : Host.Outcome State Fault Refusal :=
  let i : Instr := .vopNar v a b
  runWord i s (fun s t =>
    let (ab, d) := fmtsOf (s.th t) 0 1
    vecResult s t v 16 ((vsrc s t i 0 32 ++ vsrc s t i 1 32).map (laneConvert 16 ab d (effMode (s.th t)))))

/-! ### `vop`, codes (R166) -/

/-- Bits a packed code takes: a byte for C8 and C6, a nibble for C4 (R90, R166). -/
def codeStep (c : Nat) : Nat := if c = 6 then 4 else 8

/-- vop.enc: the lanes' codes packed in the low bytes, zeros above (R89, R93, R95, R166). -/
def execVopEnc (v a : BitVec 5) (l : BitVec 2) (s : State) : Host.Outcome State Fault Refusal :=
  let i : Instr := .vopEnc v a l
  runWord i s (fun s t =>
    let c := s.table t
    unlessSealing s t (
      let (ab, d) := fmtsOf (s.th t) (if l.toNat = 0 then 0 else 1) c.inForce
      if c.state ≠ .sealed || d ≠ c.inForce then .trap cTBLERR 0 0 0
      else
        let r := (vsrc s t i 0 (laneBits l)).map (fun x => c.enc (valueOfCode ab x))
        vecResult s t v (codeStep d) r))

/-- vop.dec: the lanes of the packed codes' entries (R91, R95, R166). -/
def execVopDec (v a : BitVec 5) (l : BitVec 2) (s : State) : Host.Outcome State Fault Refusal :=
  let i : Instr := .vopDec v a l
  runWord i s (fun s t =>
    let c := s.table t
    let (ab, d) := fmtsOf (s.th t) c.inForce (if l.toNat = 0 then 0 else 1)
    if ab ≠ c.inForce then .trap cTBLERR 0 0 0
    else
      let x := vecVal s t i 0
      let m := effMode (s.th t)
      vecResult s t v (laneBits l) ((upTo (laneCount l)).map (fun k =>
        let (r, f) := deliverEntry (c.entry (laneOf (codeStep ab) x k % 2 ^ codeWidth ab)) d m
        (r.toNat, f))))

/-! ### `vsc` (R167, R168) -/

/-- The low w bits of the scalar source (R167). -/
def scalarLane (s : State) (t : Nat) (i : Instr) (w : Nat) : Nat := (srcVal s t i 0).toNat % 2 ^ w

/-- vsc.bcast (R167). -/
def execVscBcast (v : BitVec 5) (r : BitVec 7) (l : BitVec 2) (s : State) : Host.Outcome State Fault Refusal :=
  let i : Instr := .vscBcast v r l
  runWord i s (fun s t =>
    let w := laneBits l
    .done (s.writeVec t v (vecOfLanes w (List.replicate (laneCount l) (scalarLane s t i w)))))

/-- An integer function of a lane and the scalar (R167). -/
def laneScalar (i : Instr) (v : BitVec 5) (l : BitVec 2) (f : Nat → Nat → Nat → Nat) (s : State) :
    Host.Outcome State Fault Refusal :=
  runWord i s (fun s t =>
    let w := laneBits l
    .done (s.writeVec t v (vecOfLanes w ((vsrc s t i 0 w).map (fun x => f w x (scalarLane s t i w))))))

/-- A floating-point function of a lane and the scalar (R167). -/
def laneScalarFp (i : Instr) (v : BitVec 5) (l : BitVec 2) (f : Fmt → Mode → Nat → Nat → Nat × Flags) (s : State) :
    Host.Outcome State Fault Refusal :=
  runWord i s (fun s t =>
    let w := laneBits l
    vecResult s t v w ((vsrc s t i 0 w).map (fun x =>
      f (laneFmt (s.th t) l) (effMode (s.th t)) x (scalarLane s t i w))))

/-- vsc.add (R167). -/
def execVscAdd (v a : BitVec 5) (r : BitVec 7) (l : BitVec 2) (s : State) :
    Host.Outcome State Fault Refusal :=
  laneScalar (.vscAdd v a r l) v l (fun _ x y => x + y) s

/-- vsc.sub (R167). -/
def execVscSub (v a : BitVec 5) (r : BitVec 7) (l : BitVec 2) (s : State) :
    Host.Outcome State Fault Refusal :=
  laneScalar (.vscSub v a r l) v l (fun w x y => x + 2 ^ w - y) s

/-- vsc.mul (R167). -/
def execVscMul (v a : BitVec 5) (r : BitVec 7) (l : BitVec 2) (s : State) :
    Host.Outcome State Fault Refusal :=
  laneScalar (.vscMul v a r l) v l (fun _ x y => x * y) s

/-- vsc.fadd (R167). -/
def execVscFadd (v a : BitVec 5) (r : BitVec 7) (l : BitVec 2) (s : State) :
    Host.Outcome State Fault Refusal :=
  laneScalarFp (.vscFadd v a r l) v l laneAdd s

/-- vsc.fmul (R167). -/
def execVscFmul (v a : BitVec 5) (r : BitVec 7) (l : BitVec 2) (s : State) :
    Host.Outcome State Fault Refusal :=
  laneScalarFp (.vscFmul v a r l) v l laneMul s

/-- vsc.ffma: z + x × y, z the lane of vd (R167). -/
def execVscFfma (v a : BitVec 5) (r : BitVec 7) (l : BitVec 2) (s : State) :
    Host.Outcome State Fault Refusal :=
  let i : Instr := .vscFfma v a r l
  runWord i s (fun s t =>
    let w := laneBits l
    vecResult s t v w (List.zipWith (fun z x =>
      laneFma (laneFmt (s.th t) l) (effMode (s.th t)) z x (scalarLane s t i w)) (vsrc s t i 0 w) (vsrc s t i 1 w)))

/-- A reduction of the lanes into a scalar register (R167). -/
def laneReduce (i : Instr) (r : BitVec 7) (l : BitVec 2) (f : Nat → List Nat → Word) (s : State) :
    Host.Outcome State Fault Refusal :=
  runWord i s (fun s t =>
    let w := laneBits l
    .done (s.writeDest t r (f w (vsrc s t i 0 w))))

/-- The first lane that no other is below, under an order. -/
def leastLane (lt : Nat → Nat → Bool) : List Nat → Nat
  | [] => 0
  | x :: xs => xs.foldl (fun a b => if lt b a then b else a) x

/-- vsc.redadd: the sum of the signed lanes modulo 2^64 (R167). -/
def execVscRedadd (a : BitVec 5) (r : BitVec 7) (l : BitVec 2) (s : State) : Host.Outcome State Fault Refusal :=
  laneReduce (.vscRedadd a r l) r l
    (fun w xs => BitVec.ofInt 64 (xs.foldl (fun a x => a + signedLane w x) 0)) s

/-- vsc.redmin (R167). -/
def execVscRedmin (a : BitVec 5) (r : BitVec 7) (l : BitVec 2) (s : State) : Host.Outcome State Fault Refusal :=
  laneReduce (.vscRedmin a r l) r l
    (fun w xs => wordOfInt (signedLane w (leastLane (fun x y => signedLane w x < signedLane w y) xs))) s

/-- vsc.redmax (R167). -/
def execVscRedmax (a : BitVec 5) (r : BitVec 7) (l : BitVec 2) (s : State) : Host.Outcome State Fault Refusal :=
  laneReduce (.vscRedmax a r l) r l
    (fun w xs => wordOfInt (signedLane w (leastLane (fun x y => signedLane w y < signedLane w x) xs))) s

/-- vsc.redminu (R167). -/
def execVscRedminu (a : BitVec 5) (r : BitVec 7) (l : BitVec 2) (s : State) : Host.Outcome State Fault Refusal :=
  laneReduce (.vscRedminu a r l) r l
    (fun _ xs => BitVec.ofNat 64 (leastLane (fun x y => x < y) xs)) s

/-- vsc.redmaxu (R167). -/
def execVscRedmaxu (a : BitVec 5) (r : BitVec 7) (l : BitVec 2) (s : State) : Host.Outcome State Fault Refusal :=
  laneReduce (.vscRedmaxu a r l) r l
    (fun _ xs => BitVec.ofNat 64 (leastLane (fun x y => y < x) xs)) s

/-- vsc.mask: the top bits of the lanes (R167). -/
def execVscMask (a : BitVec 5) (r : BitVec 7) (l : BitVec 2) (s : State) : Host.Outcome State Fault Refusal :=
  laneReduce (.vscMask a r l) r l
    (fun w xs => BitVec.ofNat 64 (packLanes 1 (xs.map (fun x => x / 2 ^ (w - 1))))) s

/-- One level of the pairwise tree: neighbours combined (R168). -/
def treeLevel (f : Nat → Nat → Nat × Flags) : List Nat → List Nat × Flags
  | x :: y :: r =>
    let (z, g) := f x y
    let (zs, h) := treeLevel f r
    (z :: zs, g ||| h)
  | r => (r, 0)

/-- The pairwise tree of 2^k lanes (R168). -/
def laneTree (f : Nat → Nat → Nat × Flags) : Nat → List Nat → Nat × Flags
  | 0, l => (l.headD 0, 0)
  | k + 1, l =>
    let (l', g) := treeLevel f l
    let (r, h) := laneTree f k l'
    (r, g ||| h)

/-- A floating-point reduction (R167, R168). -/
def laneReduceFp (i : Instr) (r : BitVec 7) (l : BitVec 2) (f : Fmt → Mode → Nat → Nat → Nat × Flags) (s : State) :
    Host.Outcome State Fault Refusal :=
  runWord i s (fun s t =>
    fpResult s t r (laneTree (f (laneFmt (s.th t) l) (effMode (s.th t))) (if l.toNat = 0 then 3 else 4)
      (vsrc s t i 0 (laneBits l))))

/-- vsc.fredadd (R167, R168). -/
def execVscFredadd (a : BitVec 5) (r : BitVec 7) (l : BitVec 2) (s : State) : Host.Outcome State Fault Refusal :=
  laneReduceFp (.vscFredadd a r l) r l laneAdd s

/-- vsc.fredmin (R167, R168). -/
def execVscFredmin (a : BitVec 5) (r : BitVec 7) (l : BitVec 2) (s : State) : Host.Outcome State Fault Refusal :=
  laneReduceFp (.vscFredmin a r l) r l (fun F _ x y => F.minmax false x y) s

/-- vsc.fredmax (R167, R168). -/
def execVscFredmax (a : BitVec 5) (r : BitVec 7) (l : BitVec 2) (s : State) : Host.Outcome State Fault Refusal :=
  laneReduceFp (.vscFredmax a r l) r l (fun F _ x y => F.minmax true x y) s

end Sys2Proof.Machine
end

