-- ==== Sys2Proof/Machine/Fetch.lean ====
section
/-!
DEFINITION. Fetching an instruction word: what a fetch comes to, the words held fetched ahead, and fetches that wait at
a closed home (R26, R68, R69, R178, R228, R285, R309).
-/

namespace Sys2Proof.Machine

/-- What a fetch comes to: a word, with the state then; a trap; or a park at a closed home. -/
inductive Fetch where
  | word (w : BitVec 32) (s : State)
  | trap (cause : Nat)
  | wait (loc : Nat)

/-- A skerry's fetch from its own channel, which all-bank mode holds up (R285). -/
def State.channelShut (s : State) (u l : Nat) : Bool :=
  isSkerry u && isDram l && locDev l = s.pkg.device && unitOfLoc l = u && (s.core u).bankOn

/-- Whether a fetch numbered `k` must wait: at a closed home, behind the accesses that arrived there earlier, or behind
stores that left for the destination earlier (R205, R228, R282). -/
def State.fetchShut (s : State) (k l : Nat) : Bool :=
  (s.shutFor k l none).isSome || match s.destOf l with | some d => s.egressBefore d 0 | none => false

/-- Whether a word at a location can be read: not poisoned, reachable, not aborted (log 15). -/
def State.fetchable (s : State) (l : Nat) : Bool := !(s.outOfReach l || s.hostAborts l || s.isPoison l 4)

/-- The word that memory holds at a location. -/
def State.wordAt (s : State) (l : Nat) : BitVec 32 := BitVec.ofNat 32 (s.read l 4)

/-- A word read from memory for a thread into its unit's cache, its four bytes charged where HBM4E gives them (R355). -/
def State.cacheWord (s : State) (t l : Nat) : State :=
  let u := unitOfThread t
  (s.charge (dieOf u) (s.th t).root (s.th t).rcb (if s.inHbm l then 4 * hbmEnergy else 0)).updCluster (cacheOf u)
    (fun c => { c with icache := AMap.set c.icache l (s.wordAt l) })

/-- A fetch for a thread that goes to memory: it waits at a closed home, or traps POISON (log 15), or reads the word, and
no older word is then held for the thread (R69). -/
def State.fetchFresh (s : State) (t l : Nat) : Fetch :=
  if s.fetchShut (s.arrivalOf t l) l then .wait l
  else if !s.fetchable l then .trap cPOISON
  else .word (s.wordAt l) ((s.cacheWord t l).updTh t (fun th => { th with ahead := AMap.del th.ahead l }))

/-- The word at a location that the core holds fetched ahead for a thread, and the one its cache holds. -/
def State.aheadWord (s : State) (t l : Nat) : Option (BitVec 32) :=
  if AMap.has (s.th t).ahead l then some (AMap.get 0 (s.th t).ahead l) else none
def State.cachedWord (s : State) (u l : Nat) : Option (BitVec 32) :=
  let c := (s.cluster (cacheOf u)).icache
  if AMap.has c l then some (AMap.get 0 c l) else none

/-- A thread's word at a location: the one held ahead, the cached one, or memory's; which of them when they differ is a
free choice (R69, log 4). -/
def State.fetchAt (s : State) (t l : Nat) : Fetch :=
  let u := unitOfThread t
  let old := (s.aheadWord t l).toList ++ (s.cachedWord u l).toList
  if s.channelShut u l && (s.th t).landed ≠ some l then .wait l
  else if old.isEmpty then s.fetchFresh t l
  else if s.fetchable l && old.all (· = s.wordAt l) then .word (s.wordAt l) s
  else match s.choose (old.map some ++ [none]) with
    | some (some w, s) => .word w (if s.aheadWord t l = some w then s
        else s.updTh t (fun th => { th with ahead := AMap.del th.ahead l }))
    | _ => s.fetchFresh t l

/-- A fetch whose word had come after its wait is over: a later fetch of the location is one of its own (R285). -/
def State.takeLanded (s : State) (t l : Nat) : State :=
  if (s.th t).landed = none then s
  else s.updTh t (fun th => { th with landed := none, ahead := if th.landed = some l then AMap.del th.ahead l else th.ahead })

/-- The fetch of a thread's next word (R26). A misaligned PC traps ALIGN before any other cause of the fetch (R132,
log 15); a window address traps PROT (R174). -/
def State.fetch (s : State) (t : Nat) : Fetch :=
  let pc := (s.th t).pc
  if bits pc 1 0 ≠ 0 then .trap cALIGN
  else if isWindow pc then .trap cPROT
  else match threadResolve s t pc .x with
    | .ok l => match s.fetchAt t l with
      | .word w s => .word w (s.takeLanded t l)
      | f => f
    | .error c => .trap c

/-- The word of a fetch that has waited at its home, held for the thread now that the home admits it (R282). -/
def State.landFetch (s : State) (t l : Nat) : State :=
  let s := s.updTh t (fun th => { th with status := .run, park := none })
  if !s.fetchable l then s
  else (s.cacheWord t l).updTh t (fun th => { th with ahead := AMap.set th.ahead l (s.wordAt l), landed := some l })

/-- A word that a unit fetches ahead for a thread, at an address the thread may fetch from (R68). -/
def State.prefetch (s : State) (t : Nat) (va : Word) : State :=
  if bits va 1 0 ≠ 0 || isWindow va || (s.th t).status = .free then s
  else match threadResolve s t va .x with
    | .error _ => s
    | .ok l =>
      let u := unitOfThread t
      if s.channelShut u l then s
      else match s.cachedWord u l with
      | some w => s.updTh t (fun th => { th with ahead := AMap.set th.ahead l w })
      | none => if s.fetchShut s.fresh l || !s.fetchable l then s
        else (s.cacheWord t l).updTh t (fun th => { th with ahead := AMap.set th.ahead l (s.wordAt l) })

end Sys2Proof.Machine
end

