-- ==== Sys2Proof/Machine/Wake.lean ====
section
/-!
DEFINITION. The end of parks: awaited events, timeouts and the region wait limit (R120, R149, R158, R223, R236, R299).
-/

namespace Sys2Proof.Machine

/-- Whether what a parked instruction awaits has come, so that it can go on (R120). The awaits that end through an event
of their own, such as a reply, are never ready here. -/
def State.ready (s : State) (t : Nat) (p : Park) : Bool :=
  let u := unitOfThread t
  let th := s.th t
  match p.await with
  | .home l => (s.closed l none).isNone && !s.parkedBefore p.came (homeOf l)
  | .transit l => !s.inTransit l none
  | .regs rs => !th.pending.any (fun x => rs.contains x.1)
  | .rlxRoom => th.outstanding.length < 4
  | .sameWord w => !s.earlier th.uid s.fresh [w] || (s.closed (8 * w) none).isSome
  | .egress d => !s.egressBefore d 0
  | .window l => !s.windowPending l
  | .journalRoom n => n ≤ s.freeEntries u
  | .drain scope loads => s.drainOver t scope loads
  | .mbox _ | .streamIn _ _ | .streamOut _ _ => (match operandState s t p.instr with | some (.park _) => false | _ => true)
  | .mboxRoom v k => (AMap.get none (s.core v).mbox k).isNone && !s.writesBefore t p.instr
  | .seal => (s.core u).table.state ≠ .sealing
  | .cmdRoom k => (s.ctx k).queued < 16 || (s.ctx k).fault || (s.ctx k).own ≠ th.rcb
  | .ctxIdle k => ((s.ctx k).tl = (s.ctx k).issued && !(s.ctx k).busy) || (s.ctx k).own ≠ th.rcb
  | .ctxQuiet k => !(s.ctx k).running || (s.ctx k).own ≠ th.rcb
  | .streamDrain k =>
    let x := s.stream k
    !x.bound || x.fifo.isEmpty || (match (s.ctx (copyCtx u x.fill)).cmd x.cmd with
      | some y => y.state = .faulted || y.state = .done
      | none => true)
  | .dlgRoom v => (s.core v).dlgq.length < 64
  | .joinZero l => joinCount (s.read64 l) = 0
  | .anyMbox mask => (s.fullMailbox u mask).isSome
  | .sleep time => time ≤ (s.time (dieOf u)).toNat
  | .timeline k n => n ≤ (s.ctx k).tl || (s.ctx k).issued < n || (s.ctx k).fault
  | .buoy l g => buoyAdvanced (bits (s.read64 (l + 8)) 63 32) g
  | .gateToken | .gateFirst => !s.gateDue t
  | .fetch l => !s.fetchShut p.came l
  | .otherPosted o =>
    (s.slotsOfPair o).all s.settledPosts && ((s.th o).stopped ≠ some t || (!s.mustWait o && (s.th o).pending.isEmpty))
  | .performed ks => !ks.any (fun k => (AMap.has s.reqs k && !(s.req k).complete) || s.threads.any (fun (_, q) =>
      q.status = .park && match q.park with
        | some p => p.came = k && (match p.await with | .joinZero _ => true | _ => false)
        | none => false))
  | .reply _ | .divider | .sealOwn _ | .xp | .matrix _ | .dlgReply _ | .migration _ | .pair => false

/-- What a parked thread awaits has come: its instruction is taken up again, and a far body's thread may begin (R120,
R149); a word whose fetch waited is there (R282, R285). A `sys.tlb` function has then done all it does (R308). Argument: the thread. -/
def execAwaitedEvent (s : State) : Host.Outcome State Fault Refusal :=
  let t := s.arg 0
  .next (match (s.th t).park with
    | none => s
    | some p =>
      if (s.th t).status ≠ .park || !s.ready t p then s
      else match p.await with
        | .fetch l => s.landFetch t l
        | .gateFirst => s.updTh t (fun th => { th with status := .run, park := none })
        | .performed _ => (s.wst t wstOK).finish t p.instr
        | _ => s.wake t)

/-- The moment a park's own timeout falls, if it has one (R31). A request that has left carries its own deadline. -/
def Park.expires (p : Park) : Option Nat :=
  match p.await with
  | .reply _ => none
  | _ => p.timeout.map (p.since + ·)

/-- The timeout of a parked `wait`, `fel` or `fes` falls: WST TIMEOUT, its destination unchanged (R31, R158). Argument:
the thread. -/
def execWaitTimeout (s : State) : Host.Outcome State Fault Refusal :=
  let t := s.arg 0
  .next (match (s.th t).park with
    | none => s
    | some p => match p.expires with
      | some x => if (s.th t).status = .park && x ≤ s.now then ((s.wst t wstTIMEOUT).finish t p.instr) else s
      | none => s)

/-- The wait kind of R32, or 31 for a park of no `wait` (R297). -/
def waitKind : Instr → Nat
  | .waitJz _ _ => 0 | .waitMbox _ _ _ => 1 | .waitSleep _ _ => 2 | .waitFe _ _ _ => 3 | .waitTl _ _ _ => 4
  | .waitBuoy _ _ _ => 5 | .waitGate _ => 6 | _ => 31

/-- The address a parked instruction or fetch awaits, or 0 (R297): that of the access that its home holds up. -/
def awaitedVa (s : State) (t : Nat) (p : Park) : Word :=
  let vas := accessVas s t p.instr
  match p.await with
  | .reply k => (s.req k).va
  | .fetch _ => (s.th t).pc
  | .home l => if isPort l then 0 else
    ((vas.find? (fun x => match threadResolve s t x.1 x.2 with | .ok m => m / 32 = l / 32 | .error _ => false)).or
      vas.head?).elim 0 (·.1)
  | .joinZero _ | .buoy _ _ | .sameWord _ | .egress _ => vas.head?.elim 0 (·.1)
  | _ => 0

/-- Whether a park is subject to the region wait limit, and when the limit passes: one whose own timeout falls no later
is not (R299). -/
def Park.limitAt (s : State) (p : Park) : Option Nat :=
  match p.limit with
  | none => none
  | some x =>
    let own := match p.await with
      | .reply k => (s.req k).deadline
      | _ => p.timeout.map (p.since + ·)
    match own with
    | some y => if y ≤ x then none else some x
    | none => some x

/-- WAITLIM of a park whose RCB stood at a closed home read now, or looked for again; the limit runs from its start (R140,
R228, R299). -/
def State.readLimit (s : State) (t : Nat) (p : Park) (since : Nat) : State :=
  match s.rcbShut (s.th t).root (s.th t).rcb (s.numberAt 2) with
  | some a => s.tryAgain .waitlimitExpiry [t, p.ticket] a
  | none =>
    let ns := s.waitLimNs t
    s.updTh t (fun th => { th with park := some { p with
      due := none, limNs := ns, limit := if ns = 0 then none else some (since + 8 * ns) } })

/-- A counted park passes the region wait limit: the instruction is abandoned and WAITLIMIT is taken at it; one already
served completes instead (R187, R299). Arguments: the thread; and the park's ticket where WAITLIM is still to be read. -/
def execWaitlimitExpiry (s : State) : Host.Outcome State Fault Refusal :=
  let t := s.arg 0
  .next (match (s.th t).park with
    | none => s
    | some p => match p.due, p.limitAt s with
      | some since, _ => if (s.th t).status = .park && s.arg 1 = p.ticket then s.readLimit t p since else s
      | none, none => s
      | none, some x =>
        if (s.th t).status ≠ .park || s.now < x || s.mustWait t then s
        else
          let va := awaitedVa s t p
          (s.abandon t).takeTrap t cWAITLIMIT (waitKind p.instr) va (BitVec.ofNat 64 p.limNs) p.word)

end Sys2Proof.Machine
end

