-- ==== Sys2Proof/Machine/Xp.lean ====
section
/-!
DEFINITION. The expansion unit of a Cape core (R259-R274): requests, their service, and the arithmetic of expansions.
-/

namespace Sys2Proof.Machine

/-! ### Steps with their flags (R264) -/

/-- A value and every flag its steps have raised. -/
abbrev FX := F32 × Flags

/-- A step on two results: its own flags join theirs. -/
def fx2 (f : F32 → F32 → F32 × Flags) (x y : FX) : FX :=
  let r := f x.1 y.1
  (r.1, x.2 ||| y.2 ||| r.2)

def xadd (x y : FX) : FX := fx2 fadd32 x y
def xsub (x y : FX) : FX := fx2 fsub32 x y
def xmul (x y : FX) : FX := fx2 fmul32 x y
def xdiv (x y : FX) : FX := fx2 fdiv32 x y
def xsqrt (x : FX) : FX :=
  let r := fsqrt32 x.1
  (r.1, x.2 ||| r.2)
def xneg (x : FX) : FX := (fneg32 x.1, x.2)
/-- An exact integer, and a register's pattern. -/
def xint (n : Nat) : FX := (fint32 n, 0)
def xval (v : F32) : FX := (v, 0)
def xone : FX := xint 1
def xzero : FX := xval 0

/-! ### Multi-indices (R261, R264) -/

/-- A multi-index. -/
structure MIdx where
  a : Nat
  b : Nat
  c : Nat
  deriving DecidableEq, Repr

def MIdx.deg (x : MIdx) : Nat := x.a + x.b + x.c
/-- T(p), the number of coefficients up to order p; T(-1) is `tcount` of no order. -/
def tcount (p : Nat) : Nat := (p + 1) * (p + 2) * (p + 3) / 6
/-- The index of a multi-index in graded order (R261). -/
def MIdx.idx (x : MIdx) : Nat :=
  let n := x.deg
  (if n = 0 then 0 else tcount (n - 1)) + (n - x.a) * (n - x.a + 1) / 2 + (n - x.a - x.b)
/-- The multi-indices of degree n in graded order. -/
def degreeList (n : Nat) : List MIdx :=
  (upTo (n + 1)).flatMap (fun i => (upTo (i + 1)).map (fun j => { a := n - i, b := i - j, c := j }))
/-- G(m): the multi-indices up to degree m in graded order. -/
def graded (m : Nat) : List MIdx := (upTo (m + 1)).flatMap degreeList
def MIdx.le (x y : MIdx) : Bool := x.a ≤ y.a && x.b ≤ y.b && x.c ≤ y.c
def MIdx.add (x y : MIdx) : MIdx := { a := x.a + y.a, b := x.b + y.b, c := x.c + y.c }
def MIdx.sub (x y : MIdx) : MIdx := { a := x.a - y.a, b := x.b - y.b, c := x.c - y.c }
/-- Component i of a multi-index, and the unit multi-index e_i, i from 0. -/
def MIdx.comp (x : MIdx) (i : Nat) : Nat := match i with | 0 => x.a | 1 => x.b | _ => x.c
def unitIdx (i : Nat) : MIdx := { a := if i = 0 then 1 else 0, b := if i = 1 then 1 else 0, c := if i = 2 then 1 else 0 }

def factorial : Nat → Nat
  | 0 => 1
  | n + 1 => (n + 1) * factorial n
def MIdx.fac (x : MIdx) : Nat := factorial x.a * factorial x.b * factorial x.c
/-- C(n, k). -/
def choose (n k : Nat) : Nat := if n < k then 0 else factorial n / (factorial k * factorial (n - k))
def binomIdx (x y : MIdx) : Nat := choose x.a y.a * choose x.b y.b * choose x.c y.c

/-! ### Vectors and tables (R264) -/

/-- A point or a difference of points. -/
structure Vec3 where
  x : FX
  y : FX
  z : FX
  deriving DecidableEq, Repr

def Vec3.comp (v : Vec3) (i : Nat) : FX := match i with | 0 => v.x | 1 => v.y | _ => v.z
def dif (u w : Vec3) : Vec3 := { x := xsub u.x w.x, y := xsub u.y w.y, z := xsub u.z w.z }
/-- The flags of the steps that have made a vector, whether a coefficient uses it or not (R77, R263). -/
def Vec3.flags (v : Vec3) : Flags := v.x.2 ||| v.y.2 ||| v.z.2
def norm2 (d : Vec3) : FX := xadd (xadd (xmul d.x d.x) (xmul d.y d.y)) (xmul d.z d.z)
def pw1 (v : FX) : Nat → FX
  | 0 => xone
  | k + 1 => xmul (pw1 v k) v
def pw (d : Vec3) (x : MIdx) : FX := xmul (xmul (pw1 d.x x.a) (pw1 d.y x.b)) (pw1 d.z x.c)

/-- A table by index. -/
abbrev FTab := AMap FX
def FTab.at (t : FTab) (x : MIdx) : FX := AMap.get xzero t x.idx

/-- Terms added in order onto a first value. -/
def sumOver {α : Type} (start : FX) (l : List α) (f : α → FX) : FX := l.foldl (fun s x => xadd s (f x)) start

/-- tcoef(x, m) (R264). -/
def tcoef (v : Vec3) (m : Nat) : FTab :=
  let r2 := norm2 v
  ((graded m).drop 1).foldl (fun t n =>
    let k := n.deg
    let s1 := sumOver xzero ((upTo 3).filter (fun i => 1 ≤ n.comp i)) (fun i =>
      xmul (v.comp i) (FTab.at t (n.sub (unitIdx i))))
    let s2 := sumOver xzero ((upTo 3).filter (fun i => 2 ≤ n.comp i)) (fun i =>
      FTab.at t ((n.sub (unitIdx i)).sub (unitIdx i)))
    AMap.set t n.idx (xdiv (xsub (xmul (xint (2 * k - 1)) s1) (xmul (xint (k - 1)) s2)) (xmul (xint k) r2)))
    [(0, xdiv xone (xsqrt r2))]

/-- The flags of every step of a table. -/
def FTab.flags (t : FTab) : Flags := t.foldl (fun f p => f ||| p.2.2) 0

/-! ### Expansion registers (R259) -/

def XReg.centre (x : XReg) : Vec3 := { x := xval x.cx, y := xval x.cy, z := xval x.cz }
def XReg.coef (x : XReg) (i : MIdx) : FX := xval (AMap.get 0 x.c i.idx)
/-- A coefficient written; the flags of its value are kept apart. -/
def XReg.put (x : XReg) (i : Nat) (v : F32) : XReg :=
  { x with c := if v = 0 then AMap.del x.c i else AMap.set x.c i v }
/-- Every coefficient of G(P) replaced by a function of the register it starts from: the register and the flags. -/
def XReg.each (x : XReg) (f : MIdx → FX) : XReg × Flags :=
  (graded x.p).foldl (fun (r : XReg × Flags) i =>
    let v := f i
    (r.1.put i.idx v.1, r.2 ||| v.2)) (x, 0)

/-- The centres of two registers are equal bit for bit (R265). -/
def sameCentre (x y : XReg) : Bool := x.cx = y.cx && x.cy = y.cy && x.cz = y.cz
def isZero32 (v : F32) : Bool := v &&& 0x7FFFFFFF = 0
/-- Whether the centres differ: some component of their difference is no zero (R265). -/
def centresDiffer (x y : XReg) : Bool :=
  let d := dif x.centre y.centre
  !(isZero32 d.x.1 && isZero32 d.y.1 && isZero32 d.z.1)

/-- The XCENTRE column of R265, on the destination and the source. -/
def xcentreOk (i : Instr) (d a : XReg) : Bool :=
  match i with
  | .xpAdd _ _ => d.localKind = a.localKind && d.p = a.p && sameCentre d a
  | .xpForm _ _ _ => !d.localKind
  | .xpM2m _ _ => !d.localKind && !a.localKind && d.p = a.p
  | .xpM2l _ _ => d.localKind && !a.localKind && d.p = a.p && centresDiffer d a
  | .xpL2l _ _ => d.localKind && a.localKind && d.p = a.p
  | _ => true

/-! ### The arithmetic (R267-R274) -/

/-- xp.add (R267). -/
def xpSum (d a : XReg) : XReg × Flags := d.each (fun i => xadd (d.coef i) (a.coef i))

/-- One particle added into a multipole (R268). -/
def formOne (d : XReg) (y : Vec3) (q : FX) : XReg × Flags :=
  let v := dif y d.centre
  let r := d.each (fun i => xadd (d.coef i) (xdiv (xmul q (pw v i)) (xint i.fac)))
  (r.1, r.2 ||| v.flags)

/-- xp.m2m (R269). -/
def xpShiftM (d a : XReg) : XReg × Flags :=
  let h := dif a.centre d.centre
  let r := d.each (fun i => sumOver (d.coef i) ((graded d.p).filter (fun j => j.le i)) (fun j =>
    xmul (a.coef j) (xdiv (pw h (i.sub j)) (xint (i.sub j).fac))))
  (r.1, r.2 ||| h.flags)

/-- xp.m2l (R270). -/
def xpToLocal (d a : XReg) : XReg × Flags :=
  let t := tcoef (dif d.centre a.centre) d.p
  let r := d.each (fun j =>
    let acc := sumOver xzero (graded (d.p - j.deg)) (fun i =>
      xmul (xmul (a.coef i) (xint ((i.add j).fac / j.fac))) (FTab.at t (i.add j)))
    xadd (d.coef j) (if j.deg % 2 = 1 then xneg acc else acc))
  (r.1, r.2 ||| t.flags)

/-- xp.l2l (R271). -/
def xpShiftL (d a : XReg) : XReg × Flags :=
  let h := dif d.centre a.centre
  let r := d.each (fun j => sumOver (d.coef j) ((graded d.p).filter (fun i => j.le i)) (fun i =>
    xmul (xmul (a.coef i) (xint (binomIdx i j))) (pw h (i.sub j))))
  (r.1, r.2 ||| h.flags)

/-- The potential of a register at a point (R272). -/
def xpPotential (x : XReg) (y : Vec3) : FX :=
  let u := dif y x.centre
  if x.localKind then
    let v := sumOver xzero (graded x.p) (fun i => xmul (x.coef i) (pw u i))
    (v.1, v.2 ||| u.flags)
  else
    let t := tcoef u x.p
    let v := sumOver xzero (graded x.p) (fun i => xmul (xmul (x.coef i) (xint i.fac)) (FTab.at t i))
    (v.1, v.2 ||| t.flags)

/-- The gradient lanes of a register at a point (R272). -/
def xpGradient (x : XReg) (y : Vec3) : List FX :=
  let u := dif y x.centre
  if x.localKind then
    (upTo 3).map (fun k =>
      let g := sumOver xzero ((graded x.p).filter (fun i => 1 ≤ i.comp k)) (fun i =>
        xmul (xmul (x.coef i) (xint (i.comp k))) (pw u (i.sub (unitIdx k))))
      (g.1, g.2 ||| u.flags))
  else
    let t := tcoef u (x.p + 1)
    (upTo 3).map (fun k =>
      let g := sumOver xzero (graded x.p) (fun i =>
        xmul (xmul (x.coef i) (xint (i.add (unitIdx k)).fac)) (FTab.at t (i.add (unitIdx k))))
      (fneg32 g.1, g.2 ||| t.flags))

/-- One particle's direct potential added at a target (R273). -/
def nearOne (t : Vec3) (acc : FX) (y : Vec3) (q : FX) : FX :=
  let r2 := norm2 (dif t y)
  if isZero32 r2.1 then acc else xadd acc (xdiv q (xsqrt r2))

/-- xp.adm (R274). -/
def xpAdmissible (a b : XReg) (theta : F32) : Bool × Flags :=
  let dist := xsqrt (norm2 (dif a.centre b.centre))
  let lhs := xadd (xval a.rad) (xval b.rad)
  let rhs := xmul (xval theta) dist
  (Fmt.fp32.cmp lhs.1.toNat rhs.1.toNat = some .lt, lhs.2 ||| rhs.2)

/-! ### Memory (R262, R263, R266) -/

/-- The location of a word that an `xp` instruction accesses: R63 orders 2 to 5, and host memory. -/
def xpLoc (s : State) (t : Nat) (va : Word) (need : Right) : Except Nat Nat :=
  match threadResolve s t va need with
  | .error c => .error c
  | .ok l => if isHost l then .error cPROT else .ok l

/-- The locations of n doublewords from an address on, or the cause and address of the first that has none. -/
def xpLocs (s : State) (t : Nat) (va : Word) (need : Right) : Nat → Except (Nat × Word) (List Nat)
  | 0 => .ok []
  | n + 1 => match xpLoc s t va need with
    | .error c => .error (c, va)
    | .ok l => match xpLocs s t (va + 8) need n with
      | .error e => .error e
      | .ok ls => .ok (l :: ls)

/-- What holds up a word of the request in service (R183, R205, R228). -/
def State.xpHeld (s : State) (q : XpReq) (l : Nat) : Option Await :=
  ((s.shutFor ((q.arrived.map (·.1)).getD s.fresh) l none).or
    (if s.earlier (s.th q.thread).uid s.fresh [wordOf l] then some (.sameWord (wordOf l)) else none)).or (s.egressAhead [l])

/-- What the accesses of a request in service come to: every word is there, with the state then; a trap, with the address
and right that were denied if one was; or the service goes on later. -/
inductive XpMem where
  | words (ws : List Word) (s : State)
  | trap (cause info : Nat) (addr : Word) (denied : Option Right)
  | wait (s : State)

/-- The request in service goes on when more of its words can be performed: at once, or when the home of one opens. -/
def State.xpWait (s : State) (q : XpReq) (l : Nat) : State :=
  let u := unitOfThread q.thread
  let put : XpReq → State → State := fun q s => s.updCore u (fun c => { c with xpq := q :: c.xpq.drop 1 })
  match s.xpHeld q l with
  | none => (put { q with arrived := none } s).push .xpRequestComplete [u]
  | some (.sameWord _) | some (.egress _) => (put { q with arrived := none } s).after 8 .xpRequestComplete [u]
  | some _ =>
    let k := (q.arrived.map (·.1)).getD s.fresh
    { (put { q with arrived := some (k, l) } s) with fresh := s.fresh + 1 }.after 8 .xpRequestComplete [u]

/-- One word of a request performed: read into what it has got, what HBM4E gives being charged, or written (R263, R355). -/
def xpWord (img : Option (List Word)) (ls : List Nat) (key j : Nat) (p : XpReq × State) : XpReq × State :=
  let l := ls.getD j 0
  match img with
  | none =>
    let th := p.2.th p.1.thread
    ({ p.1 with got := AMap.set p.1.got (key + j) (p.2.read64 l) },
      p.2.charge (dieOf (unitOfThread p.1.thread)) th.root th.rcb (if p.2.inHbm l then 8 * hbmEnergy else 0))
  | some ws => ({ p.1 with got := AMap.set p.1.got (key + j) (ws.getD j 0) }, p.2.putWord l (ws.getD j 0))

/-- Whether a thread is the secondary of a pair. -/
def State.isSecondary (s : State) (t : Nat) : Bool := match (s.th t).twin with | some (_, sec) => sec | none => false

/-- What the memory requests of a twin's request say: what is asked, where, how much, and the image that is stored (R327). -/
def xpMessage (q : XpReq) (va : Word) (n : Nat) (img : Option (List Word)) : List Nat :=
  [messageKind q.instr false, va.toNat, 8 * n] ++ (img.getD []).map (·.toNat)

/-- A twin's request waits until its memory requests have been matched with the other twin's (R327). -/
def State.xpGate (s : State) (q : XpReq) (va : Word) (n : Nat) (img : Option (List Word)) : Option State :=
  let u := unitOfThread q.thread
  match (s.th q.thread).twin with
  | none => none
  | some (o, sec) =>
    if q.opened || n = 0 then none
    else
      let m := AMap.get { primary := 0, secondary := 0 } s.pairs (if sec then o else q.thread)
      let s := if (if sec then m.hashS else m.hashP).isSome then s else s.postHash q.thread o sec (xpMessage q va n img)
      some (s.after 8 .xpRequestComplete [u])

/-- What the primary's memory requests have brought goes to the secondary's request too (R327). -/
def State.xpReply (s : State) (q : XpReq) : State :=
  match (s.th q.thread).twin with
  | some (o, false) => s.updCore (unitOfThread o) (fun c => { c with xpq := c.xpq.map (fun x =>
      if x.thread = o then { x with got := q.got.foldl (fun m p => AMap.set m p.1 p.2) x.got } else x) })
  | _ => s

/-- The words that a secondary twin's request has been given, or its wait for the rest (R327). -/
def State.xpGiven (s : State) (q : XpReq) (key n : Nat) : XpMem :=
  if (upTo n).all (fun j => AMap.has q.got (key + j)) then .words ((upTo n).map (fun j => AMap.get 0 q.got (key + j))) s
  else .wait (s.after 8 .xpRequestComplete [unitOfThread q.thread])

/-- The n doublewords at an address read, or written with an image, as words number `key` on of the request in service
(R263, R266): every translation comes before a poisoned word, the words that no home holds up are performed, one at a time
and in any order if `split` is set, and each once. -/
def xpPerform (s : State) (q : XpReq) (key : Nat) (va : Word) (n : Nat) (img : Option (List Word)) : XpMem :=
  let need : Right := if img.isSome then .w else .r
  match xpLocs s q.thread va need n with
  | .error (c, a) => .trap c (accessInfo need) a (some need)
  | .ok ls =>
    let left := (upTo n).filter (fun j => !AMap.has q.got (key + j))
    let open_ := left.filter (fun j => (s.xpHeld q (ls.getD j 0)).isNone)
    match (if s.split then (match s.choose open_ with | some (j, s) => ([j], s) | none => ([], s)) else (open_, s)) with
    | (now, s') =>
      match now.find? (fun j => s.outOfReach (ls.getD j 0) || (img.isNone && s.isPoison (ls.getD j 0) 8)) with
      | some j => .trap cPOISON (accessInfo need) (va + BitVec.ofNat 64 (8 * j)) none
      | none =>
        let (q, s') := now.foldl (fun p j => xpWord img ls key j p) (q, s')
        let s' := s'.xpReply q
        match left.filter (fun j => !now.contains j) with
        | [] => .words ((upTo n).map (fun j => AMap.get 0 q.got (key + j))) s'
        | j :: js => .wait (s'.xpWait q (ls.getD ((open_.find? (fun x => !now.contains x)).getD ((j :: js).headD j)) 0))

/-- The same for a request, a twin's once its memory requests have been matched: the primary's go on, and the secondary is
given what they bring (R327). -/
def xpMem (s : State) (q : XpReq) (key : Nat) (va : Word) (n : Nat) (img : Option (List Word)) : XpMem :=
  match s.xpGate q va n img with
  | some s => .wait s
  | none => if s.isSecondary q.thread then s.xpGiven q key n else xpPerform s q key va n img

/-- 32-bit word i of doublewords. -/
def word32 (ws : List Word) (i : Nat) : F32 := (ws.getD (i / 2) 0).extractLsb' (32 * (i % 2)) 32

/-- A particle of a run: its position and charge. -/
def particle (ws : List Word) (k : Nat) : Vec3 × FX :=
  ({ x := xval (word32 ws (4 * k)), y := xval (word32 ws (4 * k + 1)), z := xval (word32 ws (4 * k + 2)) },
   xval (word32 ws (4 * k + 3)))

/-- The image of a register (R262). -/
def XReg.image (x : XReg) : List Word :=
  let w : Nat → BitVec 32 := fun i => match i with
    | 0 => BitVec.ofNat 32 (x.p * 256 + if x.localKind then 1 else 0)
    | 1 => x.cx | 2 => x.cy | 3 => x.cz | 4 => x.rad | 5 | 6 | 7 => 0
    | _ => AMap.get 0 x.c (i - 8)
  (upTo 132).map (fun j => w (2 * j + 1) ++ w (2 * j))

/-- Whether the header of an image is well formed (R265, R267). -/
def headerOk (ws : List Word) : Bool :=
  let w0 := word32 ws 0
  w0 &&& 0xFFFFF0FE = 0 && (w0.extractLsb' 8 4).toNat ≤ 9 && word32 ws 5 = 0 && word32 ws 6 = 0 && word32 ws 7 = 0

/-- A register of an image's words (R262). -/
def XReg.ofImage (ws : List Word) : XReg :=
  let w0 := word32 ws 0
  (upTo 256).foldl (fun x i => x.put i (word32 ws (8 + i)))
    { localKind := w0.getLsbD 0, p := (w0.extractLsb' 8 4).toNat, cx := word32 ws 1, cy := word32 ws 2, cz := word32 ws 3,
      rad := word32 ws 4 }

/-- A count above 2^20 is refused (R266, R268, R273). -/
def xpMax : Nat := 2 ^ 20

/-! ### Service (R263, R266) -/

def State.xreg (s : State) (u k : Nat) : XReg := AMap.get {} (s.core u).x k
/-- An expansion register committed, with its flags (R263). -/
def State.putX (s : State) (t k : Nat) (r : XReg × Flags) : State :=
  (s.updCore (unitOfThread t) (fun c => { c with x := AMap.set c.x k r.1 })).flag t r.2

/-- A request that has read some words, numbered from `key` on. -/
def XpReq.holding (q : XpReq) (key : Nat) (ws : List Word) : XpReq :=
  { q with got := (upTo ws.length).foldl (fun g j => AMap.set g (key + j) (ws.getD j 0)) q.got }

/-- What a request in service comes to: a result, one with an address and right that were denied, or no end yet. -/
inductive XpOut where
  | res (r : Res)
  | denied (r : Res) (va : Word) (need : Right)
  | wait (s : State)

/-- Words from an address on, and what is done once all of them are there. -/
def xpThen (m : XpMem) (k : List Word → State → XpOut) : XpOut :=
  match m with
  | .words ws s => k ws s
  | .trap c i a none => .res (.trap c i a 0)
  | .trap c i a (some need) => .denied (.trap c i a 0) a need
  | .wait s => .wait s

/-- A function of two registers, after the test of R265. -/
def xpTwo (s : State) (t : Nat) (i : Instr) (d a : Nat) (f : XReg → XReg → XReg × Flags) : XpOut :=
  let u := unitOfThread t
  .res (if xcentreOk i (s.xreg u d) (s.xreg u a) then .done (s.putX t d (f (s.xreg u d) (s.xreg u a)))
    else .trap cXCENTRE 0 0 0)

/-- xp.form of particles that have been read (R268). -/
def formAll (x : XReg) (ws : List Word) (n : Nat) : XReg × Flags :=
  (upTo n).foldl (fun (r : XReg × Flags) k =>
    let o := formOne r.1 (particle ws k).1 (particle ws k).2
    (o.1, r.2 ||| o.2)) (x, 0)

/-- xp.near of particles that have been read (R273). -/
def nearAll (target : Vec3) (ws : List Word) (n : Nat) (acc : F32) : FX :=
  (upTo n).foldl (fun acc k => nearOne target acc (particle ws k).1 (particle ws k).2) (xval acc)

/-- The vector that xp.grad writes: lanes 0 to 2, the others zero (R272). -/
def gradLanes (g : List FX) : BitVec 256 :=
  let lane : Nat → BitVec 32 := fun k => (g.getD k xzero).1
  (lane 0).zeroExtend 256 ||| ((lane 1).zeroExtend 256 <<< 32) ||| ((lane 2).zeroExtend 256 <<< 64)

/-- What a request does when it is served. -/
def xpServe (s : State) (q : XpReq) : XpOut :=
  let t := q.thread
  let u := unitOfThread t
  match q.instr with
  | .xpCtrm d _ | .xpCtrl d _ =>
    xpThen (xpMem s q 0 q.a 2 none) (fun ws s => .res (.done (s.putX t d.toNat ({
         localKind := (match q.instr with | .xpCtrl _ _ => true | _ => false), p := bits q.xo 3 0,
         cx := word32 ws 0, cy := word32 ws 1, cz := word32 ws 2, rad := word32 ws 3 }, 0))))
  | .xpClr d => .res (.done (s.putX t d.toNat ({ s.xreg u d.toNat with c := [] }, 0)))
  | .xpLd d _ =>
    xpThen (xpMem s q 0 q.a 4 none) (fun h s =>
      if !headerOk h then .res (.trap cXCENTRE 0 0 0)
      else xpThen (xpMem s (q.holding 0 h) 4 (q.a + 32) 128 none) (fun ws s =>
        .res (.done (s.putX t d.toNat (XReg.ofImage (h ++ ws), 0)))))
  | .xpSt y _ => xpThen (xpMem s q 0 q.a 132 (some (s.xreg u y.toNat).image)) (fun _ s => .res (.done s))
  | .xpAdd d y => xpTwo s t q.instr d.toNat y.toNat xpSum
  | .xpForm d _ _ =>
    let n := q.b.toNat
    let x := s.xreg u d.toNat
    if xpMax < n then .res (.done (s.wst t wstREFUSED))
    else if x.localKind then .res (.trap cXCENTRE 0 0 0)
    else xpThen (xpMem s q 0 q.a (2 * n) none) (fun ws s =>
      .res (.done ((s.putX t d.toNat (formAll x ws n)).wst t wstOK)))
  | .xpM2m d y => xpTwo s t q.instr d.toNat y.toNat xpShiftM
  | .xpM2l d y => xpTwo s t q.instr d.toNat y.toNat xpToLocal
  | .xpL2l d y => xpTwo s t q.instr d.toNat y.toNat xpShiftL
  | .xpEval y _ b =>
    xpThen (xpMem s q 0 q.a 2 none) (fun ws s =>
      let v := xpPotential (s.xreg u y.toNat) (particle ws 0).1
      .res (.done ((s.writeDest t b (v.1.zeroExtend 64)).flag t v.2)))
  | .xpGrad y _ b =>
    xpThen (xpMem s q 0 q.a 2 none) (fun ws s =>
      let g := xpGradient (s.xreg u y.toNat) (particle ws 0).1
      .res (.done ((s.writeVec t (BitVec.ofNat 5 b.toNat) (gradLanes g)).flag t (g.foldl (fun f x => f ||| x.2) 0))))
  | .xpNear _ b =>
    xpThen (xpMem s q 0 q.a 4 none) (fun h s =>
      let n := (h.getD 1 0).toNat
      let base := h.getD 0 0
      if xpMax < n then .res (.done (s.wst t wstREFUSED))
      else if n ≠ 0 && bits base 3 0 ≠ 0 then .res (.trap cALIGN 1 base 0)
      else xpThen (xpMem s (q.holding 0 h) 4 base (2 * n) none) (fun ws s =>
        let target : Vec3 := { x := xval (word32 h 4), y := xval (word32 h 5), z := xval (word32 h 6) }
        let acc := nearAll target ws n (q.b.truncate 32)
        .res (.done (((s.writeDest t b (acc.1.zeroExtend 64)).flag t acc.2).wst t wstOK))))
  | .xpAdm d y b =>
    let r := xpAdmissible (s.xreg u d.toNat) (s.xreg u y.toNat) (q.xo.extractLsb' 32 32)
    .res (.done ((s.writeDest t b (if r.1 then 1 else 0)).flag t r.2))
  | _ => .res (.done s)

/-- The alignment of the record at s[a] (R262, R266). -/
def xpAlign : Instr → Nat
  | .xpCtrm _ _ | .xpCtrl _ _ | .xpForm _ _ _ | .xpEval _ _ _ | .xpGrad _ _ _ => 16
  | .xpLd _ _ | .xpSt _ _ | .xpNear _ _ => 32
  | _ => 1

/-- A request sent to the unit with XO as read at the issue: the thread parks until it completes (R260, R263). -/
def xpSend (s : State) (t : Nat) (i : Instr) : Res :=
  let u := unitOfThread t
  let a := srcVal s t i 0
  if a.toNat % xpAlign i ≠ 0 then .trap cALIGN (match i with | .xpSt _ _ => 2 | _ => 1) a 0
  else
    let c := s.core u
    let q : XpReq := { thread := t, instr := i, xo := s.keptAt t i, a := a, b := srcVal s t i 1 }
    let s' := (s.updCore u (fun c => { c with xpq := c.xpq ++ [q] })).parkOn t i .xp
    .sent (if c.xpq.isEmpty then s'.push .xpRequestComplete [u] else s')

/-- The request at the head of a unit's queue ends, and the next is served (R263). -/
def State.xpEnd (s : State) (u : Nat) (q : XpReq) (r : Res) : State :=
  let qs := (s.core u).xpq.drop 1
  let pop : State → State := fun s => s.updCore u (fun c => { c with xpq := c.xpq.drop 1 })
  let s' := match r with
    | .done s => (pop s).finish q.thread q.instr
    | r => applyRes (pop s) q.thread q.instr r
  if qs.isEmpty then s' else s'.push .xpRequestComplete [u]

/-- The request in service completes, or goes on later: another word is performed, or a home holds it up (R263). A
buffered translation that denied an access leaves its buffer (R306). Argument: the unit. -/
def execXpRequestComplete (s : State) : Host.Outcome State Fault Refusal :=
  let u := s.arg 0
  .next (match (s.core u).xpq with
    | [] => s
    | q :: _ => match xpServe s q with
      | .wait s => s
      | .res r => s.xpEnd u q r
      | .denied r va need => (s.dropDenied (tlbOfUnit u) (s.th q.thread).root va need (!(s.th q.thread).st.mode)).xpEnd u q r)

/-- A residue check fails in the request in service: it is executed again from its start, and a second mismatch traps
ARITH in its thread (R263, R320-R322). -/
def State.xpFails (s : State) (u info : Nat) : State :=
  match (s.core u).xpq with
  | [] => s
  | q :: qs =>
    if q.retried then s.xpEnd u q (.trap cARITH info 0 0)
    else
      s.updCore u (fun c => { c with xpq :=
        { q with got := if s.isSecondary q.thread then q.got else [], arrived := none, retried := true } :: qs })

/-! ### The instructions (R265) -/

def execXpCtrm (x : BitVec 3) (a : BitVec 7) (s : State) : Host.Outcome State Fault Refusal :=
  runWord (.xpCtrm x a) s (fun s t => xpSend s t (.xpCtrm x a))
def execXpCtrl (x : BitVec 3) (a : BitVec 7) (s : State) : Host.Outcome State Fault Refusal :=
  runWord (.xpCtrl x a) s (fun s t => xpSend s t (.xpCtrl x a))
def execXpClr (x : BitVec 3) (s : State) : Host.Outcome State Fault Refusal :=
  runWord (.xpClr x) s (fun s t => xpSend s t (.xpClr x))
def execXpLd (x : BitVec 3) (a : BitVec 7) (s : State) : Host.Outcome State Fault Refusal :=
  runWord (.xpLd x a) s (fun s t => xpSend s t (.xpLd x a))
def execXpSt (y : BitVec 3) (a : BitVec 7) (s : State) : Host.Outcome State Fault Refusal :=
  runWord (.xpSt y a) s (fun s t => xpSend s t (.xpSt y a))
def execXpAdd (x y : BitVec 3) (s : State) : Host.Outcome State Fault Refusal :=
  runWord (.xpAdd x y) s (fun s t => xpSend s t (.xpAdd x y))
def execXpForm (x : BitVec 3) (a b : BitVec 7) (s : State) : Host.Outcome State Fault Refusal :=
  runWord (.xpForm x a b) s (fun s t => xpSend s t (.xpForm x a b))
def execXpM2m (x y : BitVec 3) (s : State) : Host.Outcome State Fault Refusal :=
  runWord (.xpM2m x y) s (fun s t => xpSend s t (.xpM2m x y))
def execXpM2l (x y : BitVec 3) (s : State) : Host.Outcome State Fault Refusal :=
  runWord (.xpM2l x y) s (fun s t => xpSend s t (.xpM2l x y))
def execXpL2l (x y : BitVec 3) (s : State) : Host.Outcome State Fault Refusal :=
  runWord (.xpL2l x y) s (fun s t => xpSend s t (.xpL2l x y))
def execXpEval (y : BitVec 3) (a b : BitVec 7) (s : State) : Host.Outcome State Fault Refusal :=
  runWord (.xpEval y a b) s (fun s t => xpSend s t (.xpEval y a b))
def execXpGrad (y : BitVec 3) (a b : BitVec 7) (s : State) : Host.Outcome State Fault Refusal :=
  runWord (.xpGrad y a b) s (fun s t => xpSend s t (.xpGrad y a b))
def execXpNear (a b : BitVec 7) (s : State) : Host.Outcome State Fault Refusal :=
  runWord (.xpNear a b) s (fun s t => xpSend s t (.xpNear a b))
def execXpAdm (x y : BitVec 3) (b : BitVec 7) (s : State) : Host.Outcome State Fault Refusal :=
  runWord (.xpAdm x y b) s (fun s t => xpSend s t (.xpAdm x y b))

end Sys2Proof.Machine
end

