-- ==== Sys2Proof/Machine/Dispatch.lean ====
section
/-!
DEFINITION. The meaning of every instruction and event, one arm for each.
-/

namespace Sys2Proof.Machine

/-- The meaning of an instruction word, for the focus thread, or of an event, with its arguments in the state. -/
def exec (i : Instr) (s : State) : Host.Outcome State Fault Refusal :=
  match i with
  | .aluAdd d a b => Sys2Proof.Machine.execAluAdd d a b s
  | .aluSub d a b => Sys2Proof.Machine.execAluSub d a b s
  | .aluMul d a b => Sys2Proof.Machine.execAluMul d a b s
  | .aluMulh d a b => Sys2Proof.Machine.execAluMulh d a b s
  | .aluMulhu d a b => Sys2Proof.Machine.execAluMulhu d a b s
  | .aluDiv d a b => Sys2Proof.Machine.execAluDiv d a b s
  | .aluDivu d a b => Sys2Proof.Machine.execAluDivu d a b s
  | .aluRem d a b => Sys2Proof.Machine.execAluRem d a b s
  | .aluRemu d a b => Sys2Proof.Machine.execAluRemu d a b s
  | .aluAnd d a b => Sys2Proof.Machine.execAluAnd d a b s
  | .aluOr d a b => Sys2Proof.Machine.execAluOr d a b s
  | .aluXor d a b => Sys2Proof.Machine.execAluXor d a b s
  | .aluAndn d a b => Sys2Proof.Machine.execAluAndn d a b s
  | .aluSll d a b => Sys2Proof.Machine.execAluSll d a b s
  | .aluSrl d a b => Sys2Proof.Machine.execAluSrl d a b s
  | .aluSra d a b => Sys2Proof.Machine.execAluSra d a b s
  | .aluRol d a b => Sys2Proof.Machine.execAluRol d a b s
  | .aluSlt d a b => Sys2Proof.Machine.execAluSlt d a b s
  | .aluSltu d a b => Sys2Proof.Machine.execAluSltu d a b s
  | .aluMin d a b => Sys2Proof.Machine.execAluMin d a b s
  | .aluMax d a b => Sys2Proof.Machine.execAluMax d a b s
  | .aluMinu d a b => Sys2Proof.Machine.execAluMinu d a b s
  | .aluMaxu d a b => Sys2Proof.Machine.execAluMaxu d a b s
  | .aluClz d a => Sys2Proof.Machine.execAluClz d a s
  | .aluCtz d a => Sys2Proof.Machine.execAluCtz d a s
  | .aluPopc d a => Sys2Proof.Machine.execAluPopc d a s
  | .addi d a imm => Sys2Proof.Machine.execAddi d a imm s
  | .andi d a imm => Sys2Proof.Machine.execAndi d a imm s
  | .ori d a imm => Sys2Proof.Machine.execOri d a imm s
  | .xori d a imm => Sys2Proof.Machine.execXori d a imm s
  | .shiSlli d a n => Sys2Proof.Machine.execShiSlli d a n s
  | .shiSrli d a n => Sys2Proof.Machine.execShiSrli d a n s
  | .shiSrai d a n => Sys2Proof.Machine.execShiSrai d a n s
  | .shiRoli d a n => Sys2Proof.Machine.execShiRoli d a n s
  | .lui d imm => Sys2Proof.Machine.execLui d imm s
  | .auipc d imm => Sys2Proof.Machine.execAuipc d imm s
  | .csk c sel a b => Sys2Proof.Machine.execCsk c sel a b s
  | .cski c sel a imm => Sys2Proof.Machine.execCski c sel a imm s
  | .br c a o => Sys2Proof.Machine.execBr c a o s
  | .j o => Sys2Proof.Machine.execJ o s
  | .jl o => Sys2Proof.Machine.execJl o s
  | .jr d a imm => Sys2Proof.Machine.execJr d a imm s
  | .ld d a w x g imm => Sys2Proof.Machine.execLd d a w x g imm s
  | .st b a w g imm => Sys2Proof.Machine.execSt b a w g imm s
  | .felWfe d a t o => Sys2Proof.Machine.execFelWfe d a t o s
  | .felWfs d a t o => Sys2Proof.Machine.execFelWfs d a t o s
  | .felAny d a o => Sys2Proof.Machine.execFelAny d a o s
  | .fesWes b a t o => Sys2Proof.Machine.execFesWes b a t o s
  | .fesSetf b a o => Sys2Proof.Machine.execFesSetf b a o s
  | .fesSete b a o => Sys2Proof.Machine.execFesSete b a o s
  | .amoAdd d a b => Sys2Proof.Machine.execAmoAdd d a b s
  | .amoAnd d a b => Sys2Proof.Machine.execAmoAnd d a b s
  | .amoOr d a b => Sys2Proof.Machine.execAmoOr d a b s
  | .amoXor d a b => Sys2Proof.Machine.execAmoXor d a b s
  | .amoMin d a b => Sys2Proof.Machine.execAmoMin d a b s
  | .amoMax d a b => Sys2Proof.Machine.execAmoMax d a b s
  | .amoMinu d a b => Sys2Proof.Machine.execAmoMinu d a b s
  | .amoMaxu d a b => Sys2Proof.Machine.execAmoMaxu d a b s
  | .amoSwap d a b => Sys2Proof.Machine.execAmoSwap d a b s
  | .amoCas d a b => Sys2Proof.Machine.execAmoCas d a b s
  | .amoIncw d a b => Sys2Proof.Machine.execAmoIncw d a b s
  | .amoFaddb d a b => Sys2Proof.Machine.execAmoFaddb d a b s
  | .amoFaddF32 d a b => Sys2Proof.Machine.execAmoFaddF32 d a b s
  | .rupdAdd a b => Sys2Proof.Machine.execRupdAdd a b s
  | .rupdAnd a b => Sys2Proof.Machine.execRupdAnd a b s
  | .rupdOr a b => Sys2Proof.Machine.execRupdOr a b s
  | .rupdXor a b => Sys2Proof.Machine.execRupdXor a b s
  | .rupdMin a b => Sys2Proof.Machine.execRupdMin a b s
  | .rupdMax a b => Sys2Proof.Machine.execRupdMax a b s
  | .rupdMinu a b => Sys2Proof.Machine.execRupdMinu a b s
  | .rupdMaxu a b => Sys2Proof.Machine.execRupdMaxu a b s
  | .rupdSwap a b => Sys2Proof.Machine.execRupdSwap a b s
  | .rupdIncw a b => Sys2Proof.Machine.execRupdIncw a b s
  | .rupdFaddF32 a b => Sys2Proof.Machine.execRupdFaddF32 a b s
  | .mig a l => Sys2Proof.Machine.execMig a l s
  | .dlgCall d a b => Sys2Proof.Machine.execDlgCall d a b s
  | .dlgPost a b => Sys2Proof.Machine.execDlgPost a b s
  | .tqPush d a b => Sys2Proof.Machine.execTqPush d a b s
  | .tqTake d a b => Sys2Proof.Machine.execTqTake d a b s
  | .tqSteal d a b => Sys2Proof.Machine.execTqSteal d a b s
  | .tqDone => Sys2Proof.Machine.execTqDone s
  | .tqDepth d a => Sys2Proof.Machine.execTqDepth d a s
  | .tqCfg a b => Sys2Proof.Machine.execTqCfg a b s
  | .tqSub a b => Sys2Proof.Machine.execTqSub a b s
  | .jcInit a b => Sys2Proof.Machine.execJcInit a b s
  | .jcAdd d a b => Sys2Proof.Machine.execJcAdd d a b s
  | .jcDec d a => Sys2Proof.Machine.execJcDec d a s
  | .waitJz a t => Sys2Proof.Machine.execWaitJz a t s
  | .waitMbox d a t => Sys2Proof.Machine.execWaitMbox d a t s
  | .waitSleep d t => Sys2Proof.Machine.execWaitSleep d t s
  | .waitFe d a t => Sys2Proof.Machine.execWaitFe d a t s
  | .waitTl d a t => Sys2Proof.Machine.execWaitTl d a t s
  | .waitBuoy d a t => Sys2Proof.Machine.execWaitBuoy d a t s
  | .waitGate t => Sys2Proof.Machine.execWaitGate t s
  | .thrSpawn d a b => Sys2Proof.Machine.execThrSpawn d a b s
  | .thrExit => Sys2Proof.Machine.execThrExit s
  | .thrYield => Sys2Proof.Machine.execThrYield s
  | .thrNwr d a => Sys2Proof.Machine.execThrNwr d a s
  | .thrStw a b => Sys2Proof.Machine.execThrStw a b s
  | .sysSrd d a => Sys2Proof.Machine.execSysSrd d a s
  | .sysSwr d a => Sys2Proof.Machine.execSysSwr d a s
  | .sysTrap a => Sys2Proof.Machine.execSysTrap a s
  | .sysBreak => Sys2Proof.Machine.execSysBreak s
  | .sysIfence => Sys2Proof.Machine.execSysIfence s
  | .sysFenceDev => Sys2Proof.Machine.execSysFenceDev s
  | .sysFenceDom => Sys2Proof.Machine.execSysFenceDom s
  | .sysFenceSys => Sys2Proof.Machine.execSysFenceSys s
  | .sysCapget d a b => Sys2Proof.Machine.execSysCapget d a b s
  | .sysTres => Sys2Proof.Machine.execSysTres s
  | .sysTkill a => Sys2Proof.Machine.execSysTkill a s
  | .sysPre d a b => Sys2Proof.Machine.execSysPre d a b s
  | .sysTlbInv a => Sys2Proof.Machine.execSysTlbInv a s
  | .sysTlbAll a => Sys2Proof.Machine.execSysTlbAll a s
  | .pfxFmt a d sel r => Sys2Proof.Machine.execPfxFmt a d sel r s
  | .pfxRlx => Sys2Proof.Machine.execPfxRlx s
  | .fpAdd d a b => Sys2Proof.Machine.execFpAdd d a b s
  | .fpSub d a b => Sys2Proof.Machine.execFpSub d a b s
  | .fpMul d a b => Sys2Proof.Machine.execFpMul d a b s
  | .fpDiv d a b => Sys2Proof.Machine.execFpDiv d a b s
  | .fpSqrt d a => Sys2Proof.Machine.execFpSqrt d a s
  | .fpFma d a b => Sys2Proof.Machine.execFpFma d a b s
  | .fpMin d a b => Sys2Proof.Machine.execFpMin d a b s
  | .fpMax d a b => Sys2Proof.Machine.execFpMax d a b s
  | .fpCvt d a => Sys2Proof.Machine.execFpCvt d a s
  | .fpFtoi d a => Sys2Proof.Machine.execFpFtoi d a s
  | .fpItof d a => Sys2Proof.Machine.execFpItof d a s
  | .tblWr a b => Sys2Proof.Machine.execTblWr a b s
  | .tblRd d a => Sys2Proof.Machine.execTblRd d a s
  | .tblSeal => Sys2Proof.Machine.execTblSeal s
  | .tblNansub a => Sys2Proof.Machine.execTblNansub a s
  | .tblEnc d a => Sys2Proof.Machine.execTblEnc d a s
  | .tblDec d a => Sys2Proof.Machine.execTblDec d a s
  | .vopAdd v a b l => Sys2Proof.Machine.execVopAdd v a b l s
  | .vopSub v a b l => Sys2Proof.Machine.execVopSub v a b l s
  | .vopMul v a b l => Sys2Proof.Machine.execVopMul v a b l s
  | .vopMin v a b l => Sys2Proof.Machine.execVopMin v a b l s
  | .vopMax v a b l => Sys2Proof.Machine.execVopMax v a b l s
  | .vopMinu v a b l => Sys2Proof.Machine.execVopMinu v a b l s
  | .vopMaxu v a b l => Sys2Proof.Machine.execVopMaxu v a b l s
  | .vopAnd v a b l => Sys2Proof.Machine.execVopAnd v a b l s
  | .vopOr v a b l => Sys2Proof.Machine.execVopOr v a b l s
  | .vopXor v a b l => Sys2Proof.Machine.execVopXor v a b l s
  | .vopSll v a b l => Sys2Proof.Machine.execVopSll v a b l s
  | .vopSrl v a b l => Sys2Proof.Machine.execVopSrl v a b l s
  | .vopSra v a b l => Sys2Proof.Machine.execVopSra v a b l s
  | .vopAdds v a b l => Sys2Proof.Machine.execVopAdds v a b l s
  | .vopSubs v a b l => Sys2Proof.Machine.execVopSubs v a b l s
  | .vopCeq v a b l => Sys2Proof.Machine.execVopCeq v a b l s
  | .vopClt v a b l => Sys2Proof.Machine.execVopClt v a b l s
  | .vopCltu v a b l => Sys2Proof.Machine.execVopCltu v a b l s
  | .vopSel v a b l => Sys2Proof.Machine.execVopSel v a b l s
  | .vopShuf v a b l => Sys2Proof.Machine.execVopShuf v a b l s
  | .vopFadd v a b l => Sys2Proof.Machine.execVopFadd v a b l s
  | .vopFsub v a b l => Sys2Proof.Machine.execVopFsub v a b l s
  | .vopFmul v a b l => Sys2Proof.Machine.execVopFmul v a b l s
  | .vopFfma v a b l => Sys2Proof.Machine.execVopFfma v a b l s
  | .vopFmin v a b l => Sys2Proof.Machine.execVopFmin v a b l s
  | .vopFmax v a b l => Sys2Proof.Machine.execVopFmax v a b l s
  | .vopFceq v a b l => Sys2Proof.Machine.execVopFceq v a b l s
  | .vopFclt v a b l => Sys2Proof.Machine.execVopFclt v a b l s
  | .vopFcle v a b l => Sys2Proof.Machine.execVopFcle v a b l s
  | .vopFcvt v a l => Sys2Proof.Machine.execVopFcvt v a l s
  | .vopWlo v a => Sys2Proof.Machine.execVopWlo v a s
  | .vopWhi v a => Sys2Proof.Machine.execVopWhi v a s
  | .vopNar v a b => Sys2Proof.Machine.execVopNar v a b s
  | .vopEnc v a l => Sys2Proof.Machine.execVopEnc v a l s
  | .vopDec v a l => Sys2Proof.Machine.execVopDec v a l s
  | .vscBcast v sel l => Sys2Proof.Machine.execVscBcast v sel l s
  | .vscAdd v a sel l => Sys2Proof.Machine.execVscAdd v a sel l s
  | .vscSub v a sel l => Sys2Proof.Machine.execVscSub v a sel l s
  | .vscMul v a sel l => Sys2Proof.Machine.execVscMul v a sel l s
  | .vscFadd v a sel l => Sys2Proof.Machine.execVscFadd v a sel l s
  | .vscFmul v a sel l => Sys2Proof.Machine.execVscFmul v a sel l s
  | .vscFfma v a sel l => Sys2Proof.Machine.execVscFfma v a sel l s
  | .vscRedadd a sel l => Sys2Proof.Machine.execVscRedadd a sel l s
  | .vscRedmin a sel l => Sys2Proof.Machine.execVscRedmin a sel l s
  | .vscRedmax a sel l => Sys2Proof.Machine.execVscRedmax a sel l s
  | .vscRedminu a sel l => Sys2Proof.Machine.execVscRedminu a sel l s
  | .vscRedmaxu a sel l => Sys2Proof.Machine.execVscRedmaxu a sel l s
  | .vscFredadd a sel l => Sys2Proof.Machine.execVscFredadd a sel l s
  | .vscFredmin a sel l => Sys2Proof.Machine.execVscFredmin a sel l s
  | .vscFredmax a sel l => Sys2Proof.Machine.execVscFredmax a sel l s
  | .vscMask a sel l => Sys2Proof.Machine.execVscMask a sel l s
  | .vmemLd v a g n imm => Sys2Proof.Machine.execVmemLd v a g n imm s
  | .vmemSt v a g n imm => Sys2Proof.Machine.execVmemSt v a g n imm s
  | .engClaim e c => Sys2Proof.Machine.execEngClaim e c s
  | .engRelease e c => Sys2Proof.Machine.execEngRelease e c s
  | .engClear e c => Sys2Proof.Machine.execEngClear e c s
  | .copyXfer c a b => Sys2Proof.Machine.execCopyXfer c a b s
  | .copyDist c a b => Sys2Proof.Machine.execCopyDist c a b s
  | .copyBopen c a => Sys2Proof.Machine.execCopyBopen c a s
  | .copyBclose c => Sys2Proof.Machine.execCopyBclose c s
  | .copyCsr c a b => Sys2Proof.Machine.execCopyCsr c a b s
  | .streamBind c a b => Sys2Proof.Machine.execStreamBind c a b s
  | .streamUnbind c => Sys2Proof.Machine.execStreamUnbind c s
  | .streamPort c a b => Sys2Proof.Machine.execStreamPort c a b s
  | .buoySet a b => Sys2Proof.Machine.execBuoySet a b s
  | .mtxMma c a b => Sys2Proof.Machine.execMtxMma c a b s
  | .mtxMmas c a b => Sys2Proof.Machine.execMtxMmas c a b s
  | .mtxAclr c => Sys2Proof.Machine.execMtxAclr c s
  | .mtxAcopyIn c a b => Sys2Proof.Machine.execMtxAcopyIn c a b s
  | .mtxAcopyOut c a b => Sys2Proof.Machine.execMtxAcopyOut c a b s
  | .mtxTset c a b => Sys2Proof.Machine.execMtxTset c a b s
  | .mtxTseal c => Sys2Proof.Machine.execMtxTseal c s
  | .gsGather c a b => Sys2Proof.Machine.execGsGather c a b s
  | .gsScatter c a b => Sys2Proof.Machine.execGsScatter c a b s
  | .bmacOpen => Sys2Proof.Machine.execBmacOpen s
  | .bmacBcast a b => Sys2Proof.Machine.execBmacBcast a b s
  | .bmacMac a b => Sys2Proof.Machine.execBmacMac a b s
  | .bmacRd a b => Sys2Proof.Machine.execBmacRd a b s
  | .bmacAclr b => Sys2Proof.Machine.execBmacAclr b s
  | .bmacClose => Sys2Proof.Machine.execBmacClose s
  | .pmigMove c a b => Sys2Proof.Machine.execPmigMove c a b s
  | .pmigCommit c => Sys2Proof.Machine.execPmigCommit c s
  | .ewr e c r a => Sys2Proof.Machine.execEwr e c r a s
  | .erd e c r a => Sys2Proof.Machine.execErd e c r a s
  | .xpCtrm x a => Sys2Proof.Machine.execXpCtrm x a s
  | .xpCtrl x a => Sys2Proof.Machine.execXpCtrl x a s
  | .xpClr x => Sys2Proof.Machine.execXpClr x s
  | .xpLd x a => Sys2Proof.Machine.execXpLd x a s
  | .xpSt y a => Sys2Proof.Machine.execXpSt y a s
  | .xpAdd x y => Sys2Proof.Machine.execXpAdd x y s
  | .xpForm x a b => Sys2Proof.Machine.execXpForm x a b s
  | .xpM2m x y => Sys2Proof.Machine.execXpM2m x y s
  | .xpM2l x y => Sys2Proof.Machine.execXpM2l x y s
  | .xpL2l x y => Sys2Proof.Machine.execXpL2l x y s
  | .xpEval y a b => Sys2Proof.Machine.execXpEval y a b s
  | .xpGrad y a b => Sys2Proof.Machine.execXpGrad y a b s
  | .xpNear a b => Sys2Proof.Machine.execXpNear a b s
  | .xpAdm x y b => Sys2Proof.Machine.execXpAdm x y b s
  | .dividerResult => Sys2Proof.Machine.execDividerResult s
  | .feDeadline => Sys2Proof.Machine.execFeDeadline s
  | .feCancel => Sys2Proof.Machine.execFeCancel s
  | .delegationServe => Sys2Proof.Machine.execDelegationServe s
  | .delegationRoutineEnd => Sys2Proof.Machine.execDelegationRoutineEnd s
  | .retire => Sys2Proof.Machine.execRetire s
  | .nearDispatch => Sys2Proof.Machine.execNearDispatch s
  | .gateToken => Sys2Proof.Machine.execGateToken s
  | .depthAlert => Sys2Proof.Machine.execDepthAlert s
  | .stealReply => Sys2Proof.Machine.execStealReply s
  | .nwinExpiry => Sys2Proof.Machine.execNwinExpiry s
  | .awaitedEvent => Sys2Proof.Machine.execAwaitedEvent s
  | .waitTimeout => Sys2Proof.Machine.execWaitTimeout s
  | .waitlimitExpiry => Sys2Proof.Machine.execWaitlimitExpiry s
  | .rebalance => Sys2Proof.Machine.execRebalance s
  | .coreSharedCommit => Sys2Proof.Machine.execCoreSharedCommit s
  | .tableCommit => Sys2Proof.Machine.execTableCommit s
  | .sealComplete => Sys2Proof.Machine.execSealComplete s
  | .buoyCount => Sys2Proof.Machine.execBuoyCount s
  | .matrixRequestReply => Sys2Proof.Machine.execMatrixRequestReply s
  | .matrixSuspend => Sys2Proof.Machine.execMatrixSuspend s
  | .matrixResume => Sys2Proof.Machine.execMatrixResume s
  | .matrixUnitFailed => Sys2Proof.Machine.execMatrixUnitFailed s
  | .engineCommandStart => Sys2Proof.Machine.execEngineCommandStart s
  | .engineCommandComplete => Sys2Proof.Machine.execEngineCommandComplete s
  | .engineFault => Sys2Proof.Machine.execEngineFault s
  | .pageRequest => Sys2Proof.Machine.execPageRequest s
  | .xpRequestComplete => Sys2Proof.Machine.execXpRequestComplete s
  | .memoryReply => Sys2Proof.Machine.execMemoryReply s
  | .rlxLoadReply => Sys2Proof.Machine.execRlxLoadReply s
  | .homeRequest => Sys2Proof.Machine.execHomeRequest s
  | .postedAck => Sys2Proof.Machine.execPostedAck s
  | .postedRefusal => Sys2Proof.Machine.execPostedRefusal s
  | .egressAcceptance => Sys2Proof.Machine.execEgressAcceptance s
  | .drainComplete => Sys2Proof.Machine.execDrainComplete s
  | .asyncCauseTaken => Sys2Proof.Machine.execAsyncCauseTaken s
  | .trap => Sys2Proof.Machine.execTrap s
  | .trapRecordResend => Sys2Proof.Machine.execTrapRecordResend s
  | .handlerFill => Sys2Proof.Machine.execHandlerFill s
  | .slotWindowAccess => Sys2Proof.Machine.execSlotWindowAccess s
  | .returnTrap => Sys2Proof.Machine.execReturnTrap s
  | .contextMessageArrival => Sys2Proof.Machine.execContextMessageArrival s
  | .migrationResend => Sys2Proof.Machine.execMigrationResend s
  | .bufferedContextFill => Sys2Proof.Machine.execBufferedContextFill s
  | .inboundSpill => Sys2Proof.Machine.execInboundSpill s
  | .spillRestore => Sys2Proof.Machine.execSpillRestore s
  | .replyForward => Sys2Proof.Machine.execReplyForward s
  | .pairMessageMatch => Sys2Proof.Machine.execPairMessageMatch s
  | .pairSilence => Sys2Proof.Machine.execPairSilence s
  | .translationRefill => Sys2Proof.Machine.execTranslationRefill s
  | .containment => Sys2Proof.Machine.execContainment s
  | .contWrite => Sys2Proof.Machine.execContWrite s
  | .ldoorWrite => Sys2Proof.Machine.execLdoorWrite s
  | .launch => Sys2Proof.Machine.execLaunch s
  | .launchFillTimeout => Sys2Proof.Machine.execLaunchFillTimeout s
  | .hfenceRead => Sys2Proof.Machine.execHfenceRead s
  | .hostMemRead => Sys2Proof.Machine.execHostMemRead s
  | .hostMemWrite => Sys2Proof.Machine.execHostMemWrite s
  | .hostAcceptance => Sys2Proof.Machine.execHostAcceptance s
  | .bctlWrite => Sys2Proof.Machine.execBctlWrite s
  | .asymWrite => Sys2Proof.Machine.execAsymWrite s
  | .beaconLock => Sys2Proof.Machine.execBeaconLock s
  | .beaconMasterLoss => Sys2Proof.Machine.execBeaconMasterLoss s
  | .holdoverExpiry => Sys2Proof.Machine.execHoldoverExpiry s
  | .beaconDiscipline => Sys2Proof.Machine.execBeaconDiscipline s
  | .heartbeat => Sys2Proof.Machine.execHeartbeat s
  | .heartbeatMiss => Sys2Proof.Machine.execHeartbeatMiss s
  | .linkUp => Sys2Proof.Machine.execLinkUp s
  | .fabctlWrite => Sys2Proof.Machine.execFabctlWrite s
  | .pwrctlWrite => Sys2Proof.Machine.execPwrctlWrite s
  | .powerSample => Sys2Proof.Machine.execPowerSample s
  | .telemetryRecord => Sys2Proof.Machine.execTelemetryRecord s
  | .energyUpdate => Sys2Proof.Machine.execEnergyUpdate s
  | .registerWrite => Sys2Proof.Machine.execRegisterWrite s
  | .adoorWrite => Sys2Proof.Machine.execAdoorWrite s
  | .attestationComplete => Sys2Proof.Machine.execAttestationComplete s
  | .rstctlWrite => Sys2Proof.Machine.execRstctlWrite s
  | .powerOn => Sys2Proof.Machine.execPowerOn s
  | .bootVerify => Sys2Proof.Machine.execBootVerify s
  | .ieee1588Message => Sys2Proof.Machine.execIeee1588Message s
  | .trapRecordDelivery => Sys2Proof.Machine.execTrapRecordDelivery s

end Sys2Proof.Machine
end

