-- ==== Sys2Proof/Machine/Schedule.lean ====
section
/-!
DEFINITION. What the machine does next: an issued word (R26, R48), a cycle of a unit (R121-R124), residue mismatches
(R320-R322), the work that energy is charged for (R3, R355), and the choice among messages, parks that end, timers and
units (log 2).
-/

namespace Sys2Proof.Machine

/-- What is to run: an instruction or event, if any, and the state it runs in. -/
abbrev Todo := Option Instr × State

/-- An event with its arguments. -/
def State.event (s : State) (e : Instr) (args : List Nat) : Todo := (some e, { s with ev := args })

/-! ### What an instruction reads from HBM4E (R3, R355; log 46) -/

/-- Bytes that an instruction reads at each of its addresses, which it must be aligned to; `wait.fe` reads none (R189). -/
def loadBytes : Instr → Nat
  | .ld _ _ w _ _ _ => 2 ^ w.toNat
  | .vmemLd _ _ _ _ _ => 32
  | .st _ _ _ _ _ | .vmemSt _ _ _ _ _ | .waitFe _ _ _ => 0
  | .amoFaddF32 _ _ _ | .rupdFaddF32 _ _ => 4
  | .tqPush _ _ _ => 64
  | .tqCfg _ _ => 32
  | _ => 8

/-- What an instruction that comes past its operands reads from HBM4E: nothing where it traps on an address, or migrates
to make its access elsewhere (R63, R197). -/
def State.issueEnergy (s : State) (t : Nat) (i : Instr) : Nat :=
  let vas := (accessVas s t i).filter (fun p => p.2 ≠ .w)
  let n := loadBytes i
  if n = 0 || vas.any (fun p => p.1.toNat % n ≠ 0) || ((decodeState s t i).or (operandState s t i)).isSome then 0
  else match vas.mapM (fun p => threadResolve s t p.1 p.2) with
    | .error _ => 0
    | .ok ls => if isG i && s.homeUnit (ls.headD 0) ≠ some (unitOfThread t) then 0
      else (ls.filter s.inHbm).length * n * hbmEnergy

def State.chargeIssue (s : State) (t : Nat) (i : Instr) : State :=
  s.charge (dieOf (unitOfThread t)) (s.th t).root (s.th t).rcb (s.issueEnergy t i)

/-! ### Decoding what was fetched (R46, R48) -/

/-- The instruction of a fetched word, or the trap of R48 rows 1 to 3 that its bits decide. The other rows are the
instruction's own checks. -/
def State.decoded (s : State) (t : Nat) (w : BitVec 32) : Todo :=
  match decodeRaw w with
  | none => s.event .trap [t, cILLOP, 0, 0, 0, w.toNat]
  | some i =>
    if encode i = w then (some i, { (s.chargeIssue t i).dropDenials t i with focus := t })
    else match absentClass i t with
      | some .ret => s.event .returnTrap [t, w.toNat]
      | some _ => s.event .trap [t, cNOUNIT, 0, 0, 0, w.toNat]
      | none => s.event .trap [t, cILLFLD, 0, 0, 0, w.toNat]

/-! ### A cycle of a unit (R24, R121-R124, R320, R321) -/

/-- The unit brought to its next cycle. -/
def State.catchUp (s : State) (u : Nat) : State := s.updCore u (fun c => { c with cycle := s.nextCycle u })

/-- The present cycle of a unit is over, and elapsed time has come to it. -/
def State.endCycle (s : State) (u : Nat) : State :=
  let c := (s.core u).cycle
  { (s.updCore u (fun x => { x with cycle := c + 1 })) with now := max s.now (s.cycleTime u c) }

/-- A slot issues in the present cycle (R122). -/
def State.issue (s : State) (u t : Nat) : State :=
  (s.updTh t (fun th => { th with lastIssue := some (s.core u).cycle })).endCycle u

/-- INFO of an ARITH record: the unit, the lane, and the residues expected and observed, which differ, as `n` gives them
(R297, R320). DEDUCED (log 57): the spec does not say of which datapath's value they are. -/
def residueInfo (unit lane n : Nat) : Nat :=
  lane % 256 + unit * 2 ^ 8 + n % 7 * 2 ^ 12 + (n % 7 + 1 + n / 7 % 6) % 7 * 2 ^ 16

/-- Whether an instruction runs on the vector lanes. -/
def onLanes (i : Instr) : Bool :=
  match i with
  | .vmemLd _ _ _ _ _ | .vmemSt _ _ _ _ _ | .xpGrad _ _ _ => false
  | _ => !(vecSrcs i).isEmpty || !(vecDsts i).isEmpty

/-- How many lanes a `vop` or `vsc` has, by the LW field of its word (R159, R162, R167). -/
def lanesIn (i : Instr) : Nat :=
  let w := (encode i).toNat
  laneCount (BitVec.ofNat 2 (if w / 2 ^ 26 = 36 then w / 2 ^ 9 else w / 2 ^ 7))

/-- The unit whose check fails for an instruction, and the lane: one of the vector lanes it has, else 0 (R297, R320). -/
def failInfo (t : Nat) (i : Instr) (n : Nat) : Nat :=
  if isSkerry (unitOfThread t) then residueInfo 4 0 n
  else if onLanes i then residueInfo 1 (n / 42 % lanesIn i) n
  else residueInfo 0 0 n

/-- A first residue mismatch withdraws the instruction; a second in its re-execution traps ARITH (R320, R321). -/
def State.withdraw (s : State) (t info : Nat) (w : BitVec 32) : Todo :=
  if (s.th t).retried then s.event .trap [t, cARITH, info, 0, 0, w.toNat]
  else (none, s.updTh t (fun th => { th with retried := true, park := none }))

/-- Whether an instruction comes to be executed, so that its datapath's check can fail: no decode cause holds and no
operand parks it. ARITH comes before every other execution cause (R290). -/
def State.executes (s : State) (t : Nat) (i : Instr) : Bool :=
  (decodeState s t i).isNone && match operandState s t i with | some (.park _) => false | _ => true

/-- A mismatch of a thread's division: it is withdrawn from the divider, or traps ARITH (R52, R320, R321). -/
def State.divFails (s : State) (t n : Nat) : Todo :=
  match (s.th t).park with
  | some p =>
    if (s.th t).status ≠ .park || p.await ≠ .divider then (none, s)
    else
      let s := s.abandon t
      if (s.th t).retried then s.event .trap [t, cARITH, failInfo t p.instr n, 0, 0, (encode p.instr).toNat]
      else (none, s.updTh t (fun th => { th with status := .run, park := none, retried := true }))
  | none => (none, s)

/-- Whether a fetch that waits is under the region's wait limit: at a home that a reservation or all-bank mode closes, but
not a skerry's from its own channel, which is no wait (R285, R299). -/
def State.fetchLimited (s : State) (u l : Nat) : Bool :=
  !s.channelShut u l && match s.closed l none with | some (.home _) => true | _ => false

/-- A slot that issues: a held cause is taken, a routine that has returned ends, or the next word is fetched, decoded and
executed (R26, R194, R291); a buffered translation that denies the fetch leaves its buffer (R306). `bad` numbers a residue
check that fails. -/
def State.issueSlot (s : State) (u t : Nat) (bad : Option Nat) : Todo :=
  let th := s.th t
  if !th.held.isEmpty then s.event .asyncCauseTaken [t]
  else if inServer t && th.pc = 0 then s.event .delegationRoutineEnd [u]
  else
    let s := s.dropDenied (tlbOfUnit u) th.root th.pc .x (!th.st.mode)
    match s.fetch t with
    | .trap c => s.event .trap [t, c, 4, th.pc.toNat, 0, 0]
    | .wait l => (none, s.parkOn t .thrYield (.fetch l) none (s.fetchLimited u l))
    | .word w s => match bad, decode w with
      | some n, some i => if s.executes t i then s.withdraw t (failInfo t i n) w else s.decoded t w
      | _, _ => s.decoded t w

/-- The slot that issues in the present cycle, if one does (R122, R123). Rotation boundaries that other units have passed by then
come before what its word does (R119, R124). -/
def State.runSlot (s : State) (u : Nat) (bad : Option Nat) : Todo :=
  match s.pickSlot u with
  | none => (none, s.endCycle u)
  | some k => (s.issue u (u * 64 + k)).boundaries.issueSlot u (u * 64 + k) bad

/-- What comes before a slot issues in the present cycle: the rebuilding of the table at a rotation boundary, and the
commits that are due, one after another (R34, R88, R124). -/
def State.dueFirst (s : State) (u : Nat) : Option Instr :=
  let c := s.core u
  if c.rebuilt ≤ c.cycle / slotsOf u then some .rebalance
  else match c.commits with
    | (n, k) :: _ =>
      if n ≤ c.cycle then some (match k with | .shared _ _ => .coreSharedCommit | _ => .tableCommit) else none
    | [] => none

/-- The next cycle of a unit. -/
def State.runCycle (s : State) (u : Nat) (bad : Option Nat) : Todo :=
  let s := s.catchUp u
  match s.dueFirst u with
  | some e => s.event e [u]
  | none => s.runSlot u bad

/-- Units that have something to do: a thread in RUN, or a change to commit. -/
def State.busyUnits (s : State) : List Nat :=
  ((s.threads.filter (fun p => p.2.status = .run && p.2.stopped.isNone)).map (fun p => unitOfThread p.1) ++
    (s.units.filter (fun p => !p.2.commits.isEmpty)).map (·.1)).eraseDups

/-! ### Choosing among what can happen -/

/-- The entry with the smallest number, the first of equals. -/
def earliest {α : Type} : List (Nat × α) → Option (Nat × α)
  | [] => none
  | p :: ps => match earliest ps with
    | none => some p
    | some q => if p.1 ≤ q.1 then some p else some q

/-- Parked threads with their parks. -/
def State.parks (s : State) : List (Nat × Park) :=
  s.threads.filterMap (fun (p : Nat × Thread) =>
    if p.2.status = .park then p.2.park.map (fun k => (p.1, k)) else none)

/-- A parked thread that an asynchronous cause interrupts (R291). -/
def State.interrupted (s : State) : Option Nat :=
  (s.parks.find? (fun p => !(s.th p.1).held.isEmpty && (s.th p.1).stopped.isNone && !s.mustWait p.1)).map (·.1)

/-- The parked thread whose awaited event has come and that has waited longest. -/
def State.woken (s : State) : Option (Nat × Nat × Park) :=
  earliest ((s.parks.filter (fun p => s.ready p.1 p.2)).map (fun p => (p.2.ticket, p)))

/-- When a die's TIME can reach a value that it has not reached yet: it gains at most 200 ppm (R337). -/
def State.sleepEnd (s : State) (die x : Nat) : Nat :=
  let left := (x - s.dieTime die).toNat
  s.now + 8 * max 1 (left - left / 4000)

/-- When what a park awaits comes of itself, times out or passes its limit, with the event. -/
def State.parkTimes (s : State) (t : Nat) (p : Park) : List (Nat × Instr × List Nat) :=
  (match p.await with
   | .sleep x => [(s.sleepEnd (dieOf (unitOfThread t)) x, .awaitedEvent, [t])]
   | _ => []) ++
  (match p.expires with | some x => [(x, .waitTimeout, [t])] | none => []) ++
  (match p.limitAt s with
   | some x => if s.mustWait t then [] else [(x, .waitlimitExpiry, [t])]
   | none => [])

/-- Everything that a moment of elapsed time brings: timers, deadlines of waiting requests, parks (R31, R187, R299). -/
def State.timed (s : State) : List (Nat × Instr × List Nat) :=
  s.timers.take 1 ++
  s.reqs.filterMap (fun (p : Nat × Req) => match p.2.deadline with
    | some x => if s.waiting p.1 then some (x, .feDeadline, [p.1]) else none
    | none => none) ++
  s.parks.flatMap (fun p => s.parkTimes p.1 p.2)

/-- A timed event taken: elapsed time comes to it, past the rotation boundaries of units without a cycle of their own, and a
timer's leaves the list (R124). -/
def State.takeTimed (s : State) (x : Nat × Instr × List Nat) : Todo :=
  let s := { s with now := max s.now x.1, timers := if s.timers.head? = some x then s.timers.drop 1 else s.timers }
  s.boundaries.event x.2.1 x.2.2

/-- The busy unit whose next cycle comes first, if the dies have been released (R356). -/
def State.nextUnit (s : State) : Option (Nat × Nat) :=
  if s.pkg.bootState ≠ 1 then none
  else earliest (s.busyUnits.map (fun u => (s.cycleTime u (s.nextCycle u), u)))

/-- The first of a unit's cycle and a timed event. -/
def State.runNext (s : State) : Todo :=
  match earliest s.timed, s.nextUnit with
  | some x, some (m, u) => if x.1 ≤ m then s.takeTimed x else s.runCycle u none
  | some x, none => s.takeTimed x
  | none, some (_, u) => s.runCycle u none
  | none, none => (none, s)

/-- What happens when nothing is chosen: the oldest message, an interruption, a park that ends, then time goes on. -/
def State.advance (s : State) : Todo :=
  match s.agenda with
  | (e, args) :: rest => { s with agenda := rest }.event e args
  | [] => match s.interrupted with
    | some t => s.event .asyncCauseTaken [t]
    | none => match s.woken with
      | some (_, t, p) => s.event (match p.await with | .drain _ _ => .drainComplete | _ => .awaitedEvent) [t]
      | none => s.runNext

/-- The events that come from outside the package or at a moment the spec leaves open, so that only a plan brings them. -/
def outsideEvent : Instr → Bool
  | .contWrite | .ldoorWrite | .hfenceRead | .hostMemRead | .hostMemWrite | .bctlWrite | .asymWrite | .beaconLock
  | .beaconMasterLoss | .beaconDiscipline | .linkUp | .fabctlWrite | .pwrctlWrite | .registerWrite | .adoorWrite
  | .rstctlWrite | .powerOn | .bootVerify | .ieee1588Message | .matrixUnitFailed | .translationRefill => true
  | _ => false

/-- Whether a unit's next cycle may come now: no other unit with something to do loses a cycle by it (R125). -/
def State.inTurn (s : State) (u : Nat) : Bool :=
  let s' := { s with now := max s.now (s.cycleTime u (s.nextCycle u)) }
  s.busyUnits.all (fun v => s'.nextCycle v ≤ s.nextCycle v)

/-- A unit's cycle taken among those that may come now, or in which a check fails, if the dies run and the unit has something
to do. -/
def State.takeCycle (s : State) (u : Nat) (bad : Option Nat) : Todo :=
  if s.pkg.bootState = 1 && s.busyUnits.contains u && s.inTurn u then s.runCycle u bad else s.advance

/-- How many cycles a clock domain may gain now: no unit with something to do loses one by it (R125). -/
def State.gain (s : State) (clock : Nat) (n : Int) : Int :=
  (s.busyUnits.filter (fun u => clockOf u = clock)).foldl
    (fun m u => min m ((s.core u).cycle - s.clockCount clock (periodOf u) : Nat)) n

/-- An entry of the plan. -/
def State.chosen (s : State) : Choice → Todo
  | .deliver k => match s.agenda[k]? with
    | some (e, args) => { s with agenda := s.agenda.eraseIdx k }.event e args
    | none => s.advance
  | .outside e args => if outsideEvent e then s.event e args else s.advance
  | .cycle u => s.takeCycle u none
  | .mismatch u n => s.takeCycle u (some n)
  | .divMismatch t n => s.divFails t n
  | .xpMismatch u n => (none, s.xpFails u (residueInfo 3 0 n))
  | .stepMismatch k _ => (none, match (s.ctx k).cmds.find? (fun x => x.state = .running && stepChecked k x) with
    | some x => s.stepFails k x.n
    | none => s)
  | .silence p => (none, s.setPkg { s.pkg with silent := s.pkg.silent.filter (· ≠ p) ++ [p] })
  | .retrain p => (none, if s.pkg.linkst.getLsbD p then s.retrain p else s)
  | .load d f e => (none, s.setPkg { s.pkg with demand := d, fillerDraw := f, corrected := s.pkg.corrected + e })
  | .prefetch t va => (none, s.prefetch t (BitVec.ofNat 64 va))
  | .drift die n => (none, s.drift die (s.gain die n))
  | .piece k n p => s.event .engineCommandComplete [k, n, 1, p]
  | .pieceRead k n name => s.event .engineCommandComplete [k, n, 2, name]

/-- Whether a choice is a unit's own cycle, which serves its rotation boundary itself. -/
def ownCycle : Choice → Bool
  | .cycle _ | .mismatch _ _ => true
  | _ => false

/-- A woken instruction taken up again. One that has now come past its operands is charged for what it reads, and its
datapath's check can fail, as the plan's next entry says of its unit (R120, R320, R355). -/
def State.takeUp (s : State) (t : Nat) (p : Park) : Todo :=
  let s := { s.dropDenials t p.instr with resume := none, focus := t }
  if p.read.isSome then (some p.instr, s)
  else match s.plan with
    | .mismatch u n :: rest =>
      if u = unitOfThread t && s.executes t p.instr then
        { s with plan := rest }.withdraw t (failInfo t p.instr n) (encode p.instr)
      else (some p.instr, s.chargeIssue t p.instr)
    | _ => (some p.instr, s.chargeIssue t p.instr)

/-- What the machine does next: the completion of a woken instruction, the plan's choice, or the rest in order. Rotation
boundaries that units without a cycle of their own have passed come first (R119, R124). -/
def State.schedule (s : State) : Todo :=
  match s.resume with
  | some t => match (s.th t).park with
    | some p => s.takeUp t p
    | none => (none, { s with resume := none })
  | none => match s.plan with
    | c :: rest => (if ownCycle c then { s with plan := rest } else { s with plan := rest }.boundaries).chosen c
    | [] => s.boundaries.advance

/-! ### Placing a word where the next step fetches it -/

/-- The address it is placed at, the pages of its tables, and the three entries that map it (R303). -/
def probeVa : Word := 0x30000
def probePointer (dev page : Nat) : Word := BitVec.ofNat 64 (dev * 2 ^ 57 + page * 2 ^ 16 + 1)
def probeLeaf (dev : Nat) : Word := BitVec.ofNat 64 (dev * 2 ^ 57 + 0x7D)

/-- The thread in slot 0 of core 0 that fetches it: RUN, with a full partition. -/
def Thread.probe (th : Thread) (root : Word) : Thread :=
  { th with status := .run, pc := probeVa, root := root, base := 0, lim := 112, park := none, held := [],
            yielding := false, lastIssue := none, ahead := [], landed := none, stopped := none, entries := 0 }

/-- The state with an instruction word that the next step fetches: the dies released, thread 0 in RUN at a mapped page
that holds the word, the issue entry of the next cycle its own, and that cycle chosen. -/
def State.placeWord (s : State) (w : BitVec 32) : State :=
  let dev := s.pkg.device
  let root := probePointer dev 1
  let l := placeDram dev 0 0 probeVa.toNat
  let s := s.setPkg { s.pkg with bootState := 1 }
  let s := s.putWord (placeDram dev 0 0 0x10000) (probePointer dev 2)
  let s := s.putWord (placeDram dev 0 0 0x20000) (probeLeaf dev)
  let s := (s.write l 4 w.toNat).setPoison l false
  let s := s.setTlb 0 ((s.tlb 0).filter (fun e => e.root ≠ root))
  let s := s.updCluster 0 (fun c => { c with icache := AMap.del c.icache l })
  let s := s.updTh 0 (fun th => th.probe root)
  let c := s.nextCycle 0
  let s := s.updCore 0 (fun x => { x with
    cycle := c, rebuilt := c / 64 + 1, commits := [], slotTab := [(c % 64, { valid := true, slot := 0 })] })
  { s with resume := none, plan := .cycle 0 :: s.plan }

end Sys2Proof.Machine
end

