-- ==== Sys2Proof/Machine/Step.lean ====
section
/-!
DEFINITION. One step of the machine, and a word placed where it fetches next.
-/

namespace Sys2Proof.Machine

/-- One step: what comes next is run; a cycle in which nothing issues only passes. -/
def step (s : State) : Host.Outcome State Fault Refusal :=
  match s.schedule with
  | (some i, s') => exec i s'
  | (none, s') => .next s'

/-- The state with an instruction word of the opcode table stored where the next step fetches it. -/
def State.withFetchWord (s : State) (_nbits w : Nat) : State := s.placeWord (BitVec.ofNat 32 w)

end Sys2Proof.Machine
end

