-- ==== Sys2Proof/Safety.lean ====
section
/-!
DEFINITION. What the statements speak of: the canonical form of the stores, when an instruction of the focus thread
reaches its own effect and what it then comes to, and what a step leaves alone.
-/

namespace Sys2Proof.Machine

/-! ### The canonical form -/

/-- The stores are in canonical form: memory with rising addresses and no listed zero, the empty and the poisoned words
rising. Equal stores are then equal data. -/
def State.Canon (s : State) : Prop := Memory.wf s.mem = true ∧ Ascending 0 s.empties ∧ Ascending 0 s.poison

/-! ### What queues, contexts and homes keep -/

/-- A queue's numbers (R142, R144, R145): its queued tasks stand by rising SEQ, no two of its tasks share one, every SEQ
has been given out, and it holds no more than its capacity. -/
def Queue.Numbered (q : Queue) : Prop :=
  (q.queued.map (·.seq)).Pairwise (· < ·) ∧ ((q.queued ++ q.running).map (·.seq)).Nodup ∧
  (∀ r ∈ q.queued ++ q.running, 1 ≤ r.seq ∧ r.seq < q.next) ∧ 1 ≤ q.next ∧ q.occupancy ≤ q.capacity

/-- A context's numbers (R220, R221): TL is at most ISSUED, and the commands it holds are numbered between the two, each
once. -/
def Ctx.Numbered (c : Ctx) : Prop :=
  c.tl ≤ c.issued ∧ (∀ x ∈ c.cmds, c.tl < x.n ∧ x.n ≤ c.issued) ∧ (c.cmds.map (·.n)).Nodup

/-- A home's reservations (R228): at most four banks, each held once. -/
def Home.Reserved (h : Home) : Prop := h.banks.length ≤ 4 ∧ (h.banks.map (·.1)).Nodup

/-- Every queue, context and home keeps its numbers. -/
def State.Numbered (s : State) : Prop :=
  (∀ q, (s.queue q).Numbered) ∧ (∀ k, (s.ctx k).Numbered) ∧ ∀ h, (s.home h).Reserved

/-! ### When an instruction reaches its own effect -/

/-- The focus thread's instruction passes rows 2 to 6 of R48, finds its operands (R34, R178, R181) and the home of the RCB
that it reads open (R228), and is no message of a twin that still waits for the other's (R327). -/
def Ready (i : Instr) (s : State) : Prop :=
  (precheck s s.focus i).isNone = true ∧ (pairGate s s.focus i).isNone = true

/-- The value of the n-th scalar source of the focus thread's instruction. -/
def src (i : Instr) (s : State) (n : Nat) : Word := srcVal s s.focus i n

/-- The focus thread. -/
def me (s : State) : Thread := s.th s.focus

/-- The unit of the focus thread. -/
def here (s : State) : Nat := unitOfThread s.focus

/-! ### What it comes to -/

/-- The next state is that of an instruction completed at PC + 4 with the effect that leaves `s'`. -/
def Completes (i : Instr) (s s' : State) : Prop := exec i s = .next (s'.finish s.focus i)

/-- The same with control at `pc`. -/
def CompletesAt (i : Instr) (s s' : State) (pc : Word) : Prop := exec i s = .next (s'.finishAt s.focus i pc)

/-- The next state is that of a trap at the instruction, which has no other effect. -/
def TrapsWith (i : Instr) (s : State) (cause info : Nat) (addr data : Word) : Prop :=
  exec i s = .next (s.takeTrap s.focus cause info addr data (encode i))

/-- The next state is that of the thread parked at the instruction. -/
def ParksOn (i : Instr) (s : State) (a : Await) (timeout : Option Nat) : Prop :=
  exec i s = .next (s.parkOn s.focus i a timeout)

/-- A destination and WST of the focus thread written. -/
def State.give (s : State) (d : BitVec 7) (v : Word) (w : BitVec 3) : State := (s.writeDest s.focus d v).wst s.focus w

/-- WST of the focus thread. -/
def State.say (s : State) (w : BitVec 3) : State := s.wst s.focus w

/-- A two-source instruction writes a function of its sources. -/
def Result2 (mk : BitVec 7 → BitVec 7 → BitVec 7 → Instr) (f : Word → Word → Word) : Prop :=
  ∀ s d a b, Ready (mk d a b) s →
    Completes (mk d a b) s (s.writeDest s.focus d (f (src (mk d a b) s 0) (src (mk d a b) s 1)))

/-- A one-source instruction writes a value that stands in a relation to its source. -/
def Result1 (mk : BitVec 7 → BitVec 7 → Instr) (P : Word → Word → Prop) : Prop :=
  ∀ s d a, Ready (mk d a) s → ∃ r, P (src (mk d a) s 0) r ∧ Completes (mk d a) s (s.writeDest s.focus d r)

/-- An instruction of one source and an immediate writes a function of the two. -/
def ResultImm {n : Nat} (mk : BitVec 7 → BitVec 7 → BitVec n → Instr) (f : Word → BitVec n → Word) : Prop :=
  ∀ s d a k, Ready (mk d a k) s → Completes (mk d a k) s (s.writeDest s.focus d (f (src (mk d a k) s 0) k))

/-! ### Accesses -/

/-- The homes of some words perform an operation of the focus thread at once: nothing holds it up (R180, R183, R205,
R228, R282, R296, R347), the home can be reached, the bit it waits for is there, and requests are performed within their
instruction's step. -/
def Served (s : State) (op : MemOp) (ls : List Nat) : Prop :=
  s.heldUp s.focus ls = none ∧ s.split = false ∧ s.outOfReach (ls.headD 0) = false ∧ s.feReady op (ls.headD 0) = true

/-- A word that is neither poisoned, nor aborted by the host, nor of the slot window. -/
def Sound (s : State) (l : Nat) : Prop :=
  s.isPoison l 1 = false ∧ s.hostAborts l = false ∧ isSlotWin l = false

/-- A `.g` qualifier that moves nothing: absent, or the home is here (R195, R197). -/
def Stays (s : State) (g : BitVec 1) (l : Nat) : Prop :=
  g = 0 ∨ (inServer s.focus = false ∧ s.homeUnit l = some (here s))

/-- A function of `amo` completes: its old word goes to s[d], the new word to memory, and WST where the function writes
it (R190). -/
def AmoDoes (mk : BitVec 7 → BitVec 7 → BitVec 7 → Instr) (fn : Nat) (f : Word → Word → Word) : Prop :=
  ∀ s d a b l, Ready (mk d a b) s → addrAtDevice s s.focus (src (mk d a b) s 0) 8 .rw true = .ok l →
    Served s (.amo fn (src (mk d a b) s 1) 0 d) [l] → Sound s l →
    exec (mk d a b) s = .next ((((s.putWord l (f (s.read64 l) (src (mk d a b) s 1))).writeDest s.focus d (s.read64 l)).flag
      s.focus 0).finish s.focus (mk d a b))

/-- The same for a function that reads s[d] first and reports by WST whether it stored. -/
def AmoTests (mk : BitVec 7 → BitVec 7 → BitVec 7 → Instr) (fn : Nat) (ok : Word → Word → Word → Bool)
    (f : Word → Word → Word) : Prop :=
  ∀ s d a b l, Ready (mk d a b) s → addrAtDevice s s.focus (src (mk d a b) s 1) 8 .rw true = .ok l →
    Served s (.amo fn (src (mk d a b) s 2) (src (mk d a b) s 0) d) [l] → Sound s l →
    let m := s.read64 l
    let c := ok m (src (mk d a b) s 2) (src (mk d a b) s 0)
    exec (mk d a b) s = .next (((((s.putWord l (if c then f m (src (mk d a b) s 2) else m)).writeDest s.focus d m).flag
      s.focus 0).wst s.focus (if c then wstOK else wstREFUSED)).finish s.focus (mk d a b))

/-- A remote update is posted: one entry of the journal, and its request on the way (R193). -/
def UpdatePosts (mk : BitVec 7 → BitVec 7 → Instr) (fn : Nat) : Prop :=
  ∀ s a b l, Ready (mk a b) s → addrAtDevice s s.focus (src (mk a b) s 0) (amoSize fn) .rw false = .ok l →
    s.freeEntries (here s) ≠ 0 →
    Completes (mk a b) s (s.postOne s.focus (src (mk a b) s 0) (.amo fn (src (mk a b) s 1) 0 0)
      (blockOf l (amoSize fn) (src (mk a b) s 1).toNat).1 (blockOf l (amoSize fn) (src (mk a b) s 1).toNat).2 (some fn) [l])

/-! ### What commands do -/

/-- A state after the reads that a command's access makes first: the buffered leaves that deny it a read of some addresses
are dropped, and a last sweep drops those that deny the access itself (R306). What it has drawn of free values and charged
for its work does not matter to where an address stands. -/
def State.sweptFor (s : State) (k : Nat) (x : Cmd) (reads : List Word) (need : Right) (va : Word) (free : Nat)
    (work : AMap Nat) : State :=
  let r := s.engSweep k x .r reads
  let r := if need = .r then r else r.engSweep k x need [va]
  { r with free := free, pkg := { r.pkg with work := work } }

/-- A command's write that covers its byte index p, from `s` to `s'`: one byte, or one whole word. Each byte written at
an address is the value of an index that goes to that address; nothing else in memory changes, and a whole word loses
its poison. `dst` is the address of an index, `loc` the location of an address, `val` the value of an index. -/
def CommandWrites (s s' : State) (dst : Nat → Word) (total p : Nat) (loc : Word → Nat → Prop)
    (val : Nat → Byte → Prop) : Prop :=
  ∃ len va l, (len = 1 ∨ (len = 8 ∧ va.toNat % 8 = 0)) ∧ (dst p - va).toNat < len ∧ loc va l ∧
    (∀ j, j < len → ∃ i, i < total ∧ dst i = va + BitVec.ofNat 64 j ∧ val i (readByte s'.mem (l + j))) ∧
    (∀ q, q < l ∨ l + len ≤ q → readByte s'.mem q = readByte s.mem q) ∧
    s'.poison = (if len = 8 then setErase s.poison (wordOf l) else s.poison) ∧
    s'.empties = s.empties ∧ s'.threads = s.threads ∧ s'.queues = s.queues

/-- Where a command's access to an address stands, the access being one that its home admits now: the location that the
unit's own buffers and page tables give, once leaves that deny the accesses of this piece have left the buffers. -/
def CommandReaches (s : State) (k : Nat) (x : Cmd) (need : Right) (ok : Nat → Bool) (va : Word) (l : Nat) : Prop :=
  ∃ reads free work, engLoc (s.sweptFor k x reads need va free work) k x va need ok = .ok l

/-- The byte that a command reads at an address under a name: memory's, or the one that it has read ahead. -/
def CommandReads (s : State) (k : Nat) (x : Cmd) (ok : Nat → Bool) (name : Nat) (va : Word) (b : Byte) : Prop :=
  if AMap.has x.got name then b = AMap.get 0 x.got name
  else ∃ l, CommandReaches s k x .r ok va l ∧ s.isPoison l 1 = false ∧ b = readByte s.mem l

/-- The bytes that a command reads from an address on, named in a row. -/
def CommandReadsAll (s : State) (k : Nat) (x : Cmd) (ok : Nat → Bool) (name : Nat) (va : Word) (bs : List Byte) : Prop :=
  ∀ j, j < bs.length → CommandReads s k x ok (name + j) (va + BitVec.ofNat 64 j) (bs.getD j 0)

/-- A piece that has done something, and what it leaves. -/
def Piece.Does (r : Piece) (s' : State) : Prop := r = .more s' ∨ r = .last s'

end Sys2Proof.Machine
end

