-- ==== Sys2Proof/Certificates/Slice0/Obligations.lean ====
section
/-!
DEFINITION. The statements for the provers.
-/

open Sys2Proof Sys2Proof.Machine

/-- R53: the four immediate instructions. -/
def Obligations.ImmediatesWriteTheirResults : Prop :=
  ResultImm .addi (fun x k => BitVec.ofInt 64 (x.toInt + k.toInt)) ∧
  ResultImm .andi (fun x k => x &&& k.signExtend 64) ∧
  ResultImm .ori (fun x k => x ||| k.signExtend 64) ∧
  ResultImm .xori (fun x k => x ^^^ k.signExtend 64)

/-- R58: `br` under the conditions of R40. -/
def Obligations.BranchesTestAgainstZero : Prop :=
  ∀ s (c : BitVec 4) a (o : BitVec 15), Ready (.br c a o) s →
    let x := (src (.br c a o) s 0).toInt
    let holds : Bool := match c.toNat with
      | 0 => x = 0 | 1 => x ≠ 0 | 2 => x < 0 | 3 => 0 ≤ x | 4 => 0 < x | 5 => x ≤ 0 | _ => true
    CompletesAt (.br c a o) s s (if holds then (me s).pc + o.signExtend 64 * 4 else (me s).pc + 4)

/-- R50 but for the four divide functions: what each `alu` function writes. R54 and R55: `shi`, `lui` and `auipc`. R51
and R52: the requests that the divide functions send, and the event that completes the oldest of them. -/
def Obligations.ScalarFunctionsWriteTheirResults : Prop :=
  (Result2 .aluAdd (fun x y => BitVec.ofNat 64 (x.toNat + y.toNat)) ∧
  Result2 .aluSub (fun x y => BitVec.ofInt 64 (x.toInt - y.toInt)) ∧
  Result2 .aluMul (fun x y => BitVec.ofNat 64 (x.toNat * y.toNat)) ∧
  Result2 .aluMulh (fun x y => BitVec.ofInt 64 (x.toInt * y.toInt / 2 ^ 64)) ∧
  Result2 .aluMulhu (fun x y => BitVec.ofNat 64 (x.toNat * y.toNat / 2 ^ 64)) ∧
  Result2 .aluAnd (fun x y => x &&& y) ∧
  Result2 .aluOr (fun x y => x ||| y) ∧
  Result2 .aluXor (fun x y => x ^^^ y) ∧
  Result2 .aluAndn (fun x y => x &&& ~~~y) ∧
  Result2 .aluSll (fun x y => BitVec.ofNat 64 (x.toNat * 2 ^ (y.toNat % 64))) ∧
  Result2 .aluSrl (fun x y => BitVec.ofNat 64 (x.toNat / 2 ^ (y.toNat % 64))) ∧
  Result2 .aluSra (fun x y => BitVec.ofInt 64 (x.toInt / 2 ^ (y.toNat % 64))) ∧
  Result2 .aluRol (fun x y =>
    BitVec.ofNat 64 (x.toNat * 2 ^ (y.toNat % 64) % 2 ^ 64 + x.toNat / 2 ^ (64 - y.toNat % 64))) ∧
  Result2 .aluSlt (fun x y => if x.toInt < y.toInt then 1 else 0) ∧
  Result2 .aluSltu (fun x y => if x.toNat < y.toNat then 1 else 0) ∧
  Result2 .aluMin (fun x y => BitVec.ofInt 64 (min x.toInt y.toInt)) ∧
  Result2 .aluMax (fun x y => BitVec.ofInt 64 (max x.toInt y.toInt)) ∧
  Result2 .aluMinu (fun x y => BitVec.ofNat 64 (min x.toNat y.toNat)) ∧
  Result2 .aluMaxu (fun x y => BitVec.ofNat 64 (max x.toNat y.toNat)) ∧
  Result1 .aluClz (fun x r => (x = 0 ∧ r = 64) ∨ ∃ n, n < 64 ∧ r = BitVec.ofNat 64 n ∧ x.toNat / 2 ^ (63 - n) = 1) ∧
  Result1 .aluCtz (fun x r => (x = 0 ∧ r = 64) ∨
    ∃ n, n < 64 ∧ r = BitVec.ofNat 64 n ∧ x.toNat % 2 ^ n = 0 ∧ x.toNat / 2 ^ n % 2 = 1) ∧
  Result1 .aluPopc (fun x r => r = BitVec.ofNat 64 ((List.range 64).countP (fun k => x.getLsbD k)))) ∧
  (ResultImm .shiSlli (fun x n => BitVec.ofNat 64 (x.toNat * 2 ^ n.toNat)) ∧
  ResultImm .shiSrli (fun x n => BitVec.ofNat 64 (x.toNat / 2 ^ n.toNat)) ∧
  ResultImm .shiSrai (fun x n => BitVec.ofInt 64 (x.toInt / 2 ^ n.toNat)) ∧
  ResultImm .shiRoli (fun x n => BitVec.ofNat 64 (x.toNat * 2 ^ n.toNat % 2 ^ 64 + x.toNat / 2 ^ (64 - n.toNat))) ∧
  (∀ s d k, Ready (.lui d k) s →
    Completes (.lui d k) s (s.writeDest s.focus d (BitVec.ofInt 64 (k.toInt * 4096)))) ∧
  (∀ s d k, Ready (.auipc d k) s →
    Completes (.auipc d k) s (s.writeDest s.focus d ((me s).pc + BitVec.ofInt 64 (k.toInt * 4096))))) ∧
  (let asks (mk : BitVec 7 → BitVec 7 → BitVec 7 → Instr) (q : Word → Word → Word) : Prop := ∀ s d a b, Ready (mk d a b) s →
    ∃ t, exec (mk d a b) s = .next t ∧
      t = (((s.parkOn s.focus (mk d a b) .divider).updCore (here s) (fun c => { c with
        div := c.div ++ [{ thread := s.focus, d := d, result := q (src (mk d a b) s 0) (src (mk d a b) s 1), flags := 0 }] })).push
          .dividerResult [here s]) ∧ (t.th s.focus).status = .park
  asks .aluDiv (fun x y => if y = 0 then 0xFFFFFFFFFFFFFFFF else if x.toInt = -2 ^ 63 ∧ y.toInt = -1 then x
    else BitVec.ofInt 64 (x.toInt.tdiv y.toInt)) ∧
  asks .aluRem (fun x y => if y = 0 then x else if x.toInt = -2 ^ 63 ∧ y.toInt = -1 then 0
    else BitVec.ofInt 64 (x.toInt - y.toInt * x.toInt.tdiv y.toInt)) ∧
  asks .aluDivu (fun x y => if y = 0 then 0xFFFFFFFFFFFFFFFF else BitVec.ofNat 64 (x.toNat / y.toNat)) ∧
  asks .aluRemu (fun x y => if y = 0 then x else BitVec.ofNat 64 (x.toNat % y.toNat)) ∧
  ∀ s r rest p, (s.core (s.arg 0)).div = r :: rest → (s.th r.thread).park = some p → p.await = .divider →
    exec .dividerResult s = .next ((((s.updCore (s.arg 0) (fun c => { c with div := rest })).writeDest r.thread r.d
      r.result).flag r.thread r.flags).finish r.thread p.instr))

/-- R41 and R56: the integer compare-skips. R57: the floating-point conditions of `csk` and the one flag they raise.
R59 and R60: the jumps, and the one trap of `jr`. R15 and R42: a prefix is kept, and nothing else changes but PC. -/
def Obligations.ControlTransfersAct : Prop :=
  (let goal (s : State) (h : Bool) (k : BitVec 2) : Word := if h then (me s).pc + 4 + BitVec.ofNat 64 (4 * k.toNat) else (me s).pc + 4
  let holds (c : Nat) (x y : Word) (n : Nat) : Bool := match c with
    | 0 => x.toNat = y.toNat | 1 => x.toNat ≠ y.toNat | 2 => x.toInt < y.toInt | 3 => y.toInt ≤ x.toInt
    | 4 => x.toNat < y.toNat | 5 => y.toNat ≤ x.toNat | 6 => x.toNat / 2 ^ n % 2 = 1 | _ => x.toNat / 2 ^ n % 2 = 0
  (∀ s (c : BitVec 4) k a b, Ready (.csk c k a b) s → c.toNat < 8 →
    CompletesAt (.csk c k a b) s s
      (goal s (holds c.toNat (src (.csk c k a b) s 0) (src (.csk c k a b) s 1) ((src (.csk c k a b) s 1).toNat % 64)) k)) ∧
  (∀ s (c : BitVec 4) k a imm, Ready (.cski c k a imm) s →
    CompletesAt (.cski c k a imm) s s
      (goal s (holds c.toNat (src (.cski c k a imm) s 0) (imm.signExtend 64) (imm.toNat % 64)) k))) ∧
  (∀ s (c : BitVec 4) k a b, Ready (.csk c k a b) s → 8 ≤ c.toNat →
    let x := (src (.csk c k a b) s 0).toNat % 2 ^ 32
    let y := (src (.csk c k a b) s 1).toNat % 2 ^ 32
    let nan (v : Nat) : Bool := v / 2 ^ 23 % 256 = 255 && v % 2 ^ 23 ≠ 0
    let snan (v : Nat) : Bool := nan v && v / 2 ^ 22 % 2 = 0
    let ord := Fmt.fp32.cmp x y
    let holds : Bool := match c.toNat with
      | 8 => ord = some .eq | 9 => ord ≠ some .eq | 10 => ord = some .lt | 11 => ord = some .eq || ord = some .gt
      | _ => nan x || nan y
    let invalid : Bool := if c.toNat = 10 ∨ c.toNat = 11 then nan x || nan y else snan x || snan y
    CompletesAt (.csk c k a b) s (s.flag s.focus (if invalid then 0x10 else 0))
      (if holds then (me s).pc + 4 + BitVec.ofNat 64 (4 * k.toNat) else (me s).pc + 4)) ∧
  ((∀ s o, Ready (.j o) s → CompletesAt (.j o) s s ((me s).pc + o.signExtend 64 * 4)) ∧
  (∀ s o, Ready (.jl o) s →
    CompletesAt (.jl o) s (s.updTh s.focus (fun th => th.setReg 1 (th.pc + 4))) ((me s).pc + o.signExtend 64 * 4)) ∧
  (∀ s d a k, Ready (.jr d a k) s → (src (.jr d a k) s 0 + k.signExtend 64).toNat % 4 = 0 →
    CompletesAt (.jr d a k) s (s.writeDest s.focus d ((me s).pc + 4)) (src (.jr d a k) s 0 + k.signExtend 64)) ∧
  (∀ s d a k, Ready (.jr d a k) s → (src (.jr d a k) s 0 + k.signExtend 64).toNat % 4 ≠ 0 →
    TrapsWith (.jr d a k) s cALIGN 4 (src (.jr d a k) s 0 + k.signExtend 64) 0)) ∧
  ((∀ s a d sc r, Ready (.pfxFmt a d sc r) s →
    Completes (.pfxFmt a d sc r) s (s.updTh s.focus (fun th => { th with st := { th.st with
      ppFmt := true, pfxF := BitVec.ofNat 23 (a.toNat * 2 ^ 19 + d.toNat * 2 ^ 15 + sc.toNat * 2 ^ 13 + r.toNat * 2 ^ 11) } }))) ∧
  (∀ s, Ready .pfxRlx s →
    Completes .pfxRlx s (s.updTh s.focus (fun th => { th with st := { th.st with ppRlx := true, pfxR := 0 } }))))

/-- R62: a load from the word's home, and a store to it. R169 and R171: the blocks of a vector access. R63 orders 1 to
5 and 7 for a load, and R178 for a poisoned word: nothing is changed but by the trap. -/
def Obligations.AccessesReachTheirHome : Prop :=
  ((∀ s d a (w : BitVec 2) (x g : BitVec 1) (imm : BitVec 8) l, let i := Instr.ld d a w x g imm
    Ready i s → (me s).st.ppRlx = false → Stays s g l → Sound s l →
    addrOf s s.focus (src i s 0 + imm.signExtend 64 * BitVec.ofNat 64 (2 ^ w.toNat)) (2 ^ w.toNat) .r true = .ok l →
    Served s (.load (2 ^ w.toNat) (x = 1) d) [l] →
    let n := 8 * 2 ^ w.toNat
    let v := readNat s.mem l (2 ^ w.toNat)
    Completes i s (s.writeDest s.focus d
      (if x = 1 ∧ 2 ^ (n - 1) ≤ v then BitVec.ofInt 64 ((v : Int) - 2 ^ n) else BitVec.ofNat 64 v))) ∧
  (∀ s b a (w : BitVec 2) (g : BitVec 1) (imm : BitVec 8) l, let i := Instr.st b a w g imm
    Ready i s → (me s).st.ppRlx = false → Stays s g l → (w = 3 ∨ Sound s l) → s.hostAborts l = false →
    isSlotWin l = false →
    addrOf s s.focus (src i s 1 + imm.signExtend 64 * BitVec.ofNat 64 (2 ^ w.toNat)) (2 ^ w.toNat) .w true = .ok l →
    Served s (.store (2 ^ w.toNat) (src i s 0)) [l] →
    Completes i s { s with
      mem := writeNat s.mem l (2 ^ w.toNat) (src i s 0).toNat
      poison := if w = 3 then setErase s.poison (l / 8) else s.poison })) ∧
  ((∀ s (v : BitVec 5) a (g : BitVec 1) (n : BitVec 2) (imm : BitVec 10) ls, let i := Instr.vmemLd v a g n imm
    Ready i s → (me s).st.ppRlx = false → Stays s g (ls.headD 0) →
    blockLocs s s.focus (src i s 0 + imm.signExtend 64 * 32) n .r = .ok ls →
    Served s (.vload v n.toNat) (wordsOf ls) → (∀ l ∈ wordsOf ls, Sound s l ∧ s.outOfReach l = false) →
    Completes i s (s.writeVecs s.focus v (n.toNat + 1) ((wordsOf ls).map s.read64))) ∧
  (∀ s (v : BitVec 5) a (g : BitVec 1) (n : BitVec 2) (imm : BitVec 10) ls, let i := Instr.vmemSt v a g n imm
    Ready i s → (me s).st.ppRlx = false → Stays s g (ls.headD 0) →
    blockLocs s s.focus (src i s 0 + imm.signExtend 64 * 32) n .w = .ok ls →
    let ws := (List.range (n.toNat + 1)).flatMap (fun j => (List.range 4).map (fun k =>
      (vecVal s s.focus i j).extractLsb' (64 * k) 64))
    Served s (.vstore ws) (wordsOf ls) → (∀ l ∈ wordsOf ls, s.hostAborts l = false ∧ s.outOfReach l = false) →
    Completes i s (((wordsOf ls).zip ws).foldl (fun s p => s.putWord p.1 p.2) s)) ∧
  (∀ s (v : BitVec 5) a (g : BitVec 1) (n : BitVec 2) (imm : BitVec 10), let i := Instr.vmemLd v a g n imm
    let va := src i s 0 + imm.signExtend 64 * 32
    Ready i s → (g = 0 ∨ inServer s.focus = false) → va.toNat % 32 ≠ 0 → TrapsWith i s cALIGN 1 va 0)) ∧
  (∀ s d a (w : BitVec 2) (x g : BitVec 1) (imm : BitVec 8), let i := Instr.ld d a w x g imm
    let n := 2 ^ w.toNat
    let va := src i s 0 + imm.signExtend 64 * BitVec.ofNat 64 n
    Ready i s → (g = 0 ∨ inServer s.focus = false) → slotWindow s.focus va = none →
    (va.toNat % n ≠ 0 → TrapsWith i s cALIGN 1 va 0) ∧
    (va.toNat % n = 0 → isWindow va = false → isCanonical va = false → TrapsWith i s cPAGE 1 va 0) ∧
    (va.toNat % n = 0 → isWindow va = true → windowOk s (me s).root (me s).rcb va = false → TrapsWith i s cPROT 1 va 0) ∧
    (va.toNat % n = 0 → isCanonical va = true → leafOf s (tlbOfUnit (here s)) (me s).root va = none →
      TrapsWith i s cPAGE 1 va 0) ∧
    (∀ leaf lvl, va.toNat % n = 0 → isCanonical va = true → walk s (me s).root va = some (leaf, lvl) →
      leafOf s (tlbOfUnit (here s)) (me s).root va = some (leaf, lvl) →
      (leaf.getLsbD 3 = false ∨ ((me s).st.mode = false ∧ leaf.getLsbD 6 = false)) → TrapsWith i s cPROT 1 va 0) ∧
    (∀ l, addrOf s s.focus va n .r true = .ok l → Stays s g l → (me s).st.ppRlx = false → isSlotWin l = false →
      s.isPoison l 1 = true → Served s (.load n (x = 1) d) [l] → TrapsWith i s cPOISON 1 va 0))

/-- R63 orders 1 to 5 and 7 for a store and for the atomic and full/empty accesses, with PROT for host memory after
them (R179, R188, R192, R193), POISON where a poisoned word is read, and the park of a `fes` that drains. R170: the
causes of a vector access in their order, every block translated before any right is asked, and POISON of the first
poisoned word of a load. R194 and R196: the address causes of `dlg` and `mig`, and their drain. -/
def Obligations.AccessCausesComeInTheirOrder : Prop :=
  (let orders (i : Instr) (s : State) (va : Word) (n : Nat) (need : Right) (win host : Bool) : Prop :=
    let info := accessInfo need
    (va.toNat % n ≠ 0 → TrapsWith i s cALIGN info va 0) ∧
    (va.toNat % n = 0 → (win && n == 8) = false ∨ slotWindow s.focus va = none →
      (isWindow va = false → isCanonical va = false → TrapsWith i s cPAGE info va 0) ∧
      (isWindow va = true → windowOk s (me s).root (me s).rcb va = false → TrapsWith i s cPROT info va 0) ∧
      (isCanonical va = true → leafOf s (tlbOfUnit (here s)) (me s).root va = none → TrapsWith i s cPAGE info va 0) ∧
      (∀ leaf lvl, isCanonical va = true → walk s (me s).root va = some (leaf, lvl) →
        leafOf s (tlbOfUnit (here s)) (me s).root va = some (leaf, lvl) → grants leaf need (!(me s).st.mode) = false →
        TrapsWith i s cPROT info va 0)) ∧
    (∀ l, host = true → addrOf s s.focus va n need win = .ok l → isHost l = true → TrapsWith i s cPROT info va 0)
  let fel (i : Instr) (m : Nat) (d : BitVec 7) (o : BitVec 4) : Prop := ∀ s,
    let va := src i s 0 + BitVec.ofNat 64 (8 * o.toNat)
    Ready i s → orders i s va 8 .r false true ∧
    (∀ l, addrAtDevice s s.focus va 8 .r false = .ok l → s.isPoison l 1 = true → Served s (.fel m d) [l] →
      isSlotWin l = false → TrapsWith i s cPOISON 1 va 0)
  let fes (i : Instr) (o : BitVec 4) : Prop := ∀ s,
    let va := src i s 1 + BitVec.ofNat 64 (8 * o.toNat)
    Ready i s → orders i s va 8 .w false true ∧
    (∀ l, addrAtDevice s s.focus va 8 .w false = .ok l → s.posted s.focus ≠ [] → ParksOn i s (.drain 2 false) none)
  let amo (mk : BitVec 7 → BitVec 7 → BitVec 7 → Instr) (fn n a v c : Nat) : Prop := ∀ s d x y,
    let i := mk d x y
    Ready i s → orders i s (src i s a) n .rw true true ∧
    (∀ l, addrAtDevice s s.focus (src i s a) n .rw true = .ok l → s.isPoison l 1 = true → isSlotWin l = false →
      Served s (.amo fn (src i s v) (if c = 0 then src i s 0 else 0) d) [l] → TrapsWith i s cPOISON 1 (src i s a) 0)
  let rupd (mk : BitVec 7 → BitVec 7 → Instr) (n : Nat) : Prop := ∀ s x y,
    let i := mk x y
    Ready i s → orders i s (src i s 0) n .rw false true ∧
    (∀ l, addrAtDevice s s.focus (src i s 0) n .rw false = .ok l → s.freeEntries (here s) = 0 →
      ParksOn i s (.journalRoom 1) none)
  (∀ s b a (w : BitVec 2) (g : BitVec 1) (imm : BitVec 8), let i := Instr.st b a w g imm
    let n := 2 ^ w.toNat
    let va := src i s 1 + imm.signExtend 64 * BitVec.ofNat 64 n
    Ready i s → (g = 0 ∨ inServer s.focus = false) → orders i s va n .w true false ∧
    (∀ l, addrOf s s.focus va n .w true = .ok l → Stays s g l → (me s).st.ppRlx = false → isSlotWin l = false →
      w ≠ 3 → s.isPoison l 1 = true → Served s (.store n (src i s 0)) [l] → TrapsWith i s cPOISON 2 va 0)) ∧
  (∀ d a te o, fel (.felWfe d a te o) 0 d o) ∧ (∀ d a te o, fel (.felWfs d a te o) 1 d o) ∧
  (∀ d a o, fel (.felAny d a o) 2 d o) ∧ (∀ b a te o, fes (.fesWes b a te o) o) ∧ (∀ b a o, fes (.fesSetf b a o) o) ∧
  (∀ b a o, fes (.fesSete b a o) o) ∧
  (∀ s d a te, Ready (.waitFe d a te) s → orders (.waitFe d a te) s (src (.waitFe d a te) s 1) 8 .r false true) ∧
  amo .amoAdd 0 8 0 1 1 ∧ amo .amoAnd 1 8 0 1 1 ∧ amo .amoOr 2 8 0 1 1 ∧ amo .amoXor 3 8 0 1 1 ∧ amo .amoMin 4 8 0 1 1 ∧
  amo .amoMax 5 8 0 1 1 ∧ amo .amoMinu 6 8 0 1 1 ∧ amo .amoMaxu 7 8 0 1 1 ∧ amo .amoSwap 8 8 0 1 1 ∧
  amo .amoCas 9 8 1 2 0 ∧ amo .amoIncw 10 8 0 1 1 ∧ amo .amoFaddb 11 8 1 2 0 ∧ amo .amoFaddF32 12 4 0 1 1 ∧
  rupd .rupdAdd 8 ∧ rupd .rupdAnd 8 ∧ rupd .rupdOr 8 ∧ rupd .rupdXor 8 ∧ rupd .rupdMin 8 ∧ rupd .rupdMax 8 ∧
  rupd .rupdMinu 8 ∧ rupd .rupdMaxu 8 ∧ rupd .rupdSwap 8 ∧ rupd .rupdIncw 8 ∧ rupd .rupdFaddF32 4) ∧
  (let orders (i : Instr) (s : State) (va : Word) (n : BitVec 2) (need : Right) : Prop :=
    let info := accessInfo need
    let blk (j : Nat) : Word := va + BitVec.ofNat 64 (32 * j)
    let leaf (j : Nat) : Option (Word × Nat) := leafOf s (tlbOfUnit (here s)) (me s).root (blk j)
    let found (j : Nat) : Prop := isCanonical (blk j) = true ∧ (leaf j).isSome = true
    (va.toNat % 32 ≠ 0 → TrapsWith i s cALIGN info va 0) ∧
    (va.toNat % 32 = 0 → isWindow va = false → isCanonical va = false → TrapsWith i s cPAGE info va 0) ∧
    (va.toNat % 32 = 0 → isWindow va = true → windowOk s (me s).root (me s).rcb va = false →
      TrapsWith i s cPROT info va 0) ∧
    (va.toNat % 32 = 0 → isWindow va = true → 0x6000 < va.toNat % 2 ^ 15 + 32 * (n.toNat + 1) →
      ∃ a, TrapsWith i s cPROT info a 0) ∧
    (∀ j, va.toNat % 32 = 0 → isCanonical va = true → j ≤ n.toNat → (∀ k, k < j → found k) → ¬ found j →
      TrapsWith i s cPAGE info (blk j) 0) ∧
    (∀ j e lvl, va.toNat % 32 = 0 → isCanonical va = true → (∀ k, k ≤ n.toNat → found k) → j ≤ n.toNat →
      (∀ k, k < j → ∃ l, translate s (tlbOfUnit (here s)) (me s).root (blk k) need (!(me s).st.mode) = .ok l) →
      leaf j = some (e, lvl) → walk s (me s).root (blk j) = some (e, lvl) → grants e need (!(me s).st.mode) = false →
      TrapsWith i s cPROT info (blk j) 0)
  (∀ s (v : BitVec 5) a (g : BitVec 1) (n : BitVec 2) (imm : BitVec 10), let i := Instr.vmemLd v a g n imm
    let va := src i s 0 + imm.signExtend 64 * 32
    Ready i s → (g = 0 ∨ inServer s.focus = false) → orders i s va n .r ∧
    (∀ ls k, (me s).st.ppRlx = false → Stays s g (ls.headD 0) → blockLocs s s.focus va n .r = .ok ls →
      Served s (.vload v n.toNat) (wordsOf ls) → k < (wordsOf ls).length →
      (∀ j, j < k → Sound s ((wordsOf ls).getD j 0) ∧ s.outOfReach ((wordsOf ls).getD j 0) = false) →
      isSlotWin ((wordsOf ls).getD k 0) = false → s.isPoison ((wordsOf ls).getD k 0) 1 = true →
      TrapsWith i s cPOISON 1 (va + BitVec.ofNat 64 (8 * k)) 0)) ∧
  (∀ s (v : BitVec 5) a (g : BitVec 1) (n : BitVec 2) (imm : BitVec 10), let i := Instr.vmemSt v a g n imm
    Ready i s → (g = 0 ∨ inServer s.focus = false) → orders i s (src i s 0 + imm.signExtend 64 * 32) n .w)) ∧
  (let dlg (i : Instr) (s : State) : Prop :=
    let va := src i s 0
    (isWindow va = true → TrapsWith i s cPROT 1 va 0) ∧
    (isWindow va = false → isCanonical va = false → TrapsWith i s cPAGE 1 va 0) ∧
    (isCanonical va = true → leafOf s (tlbOfUnit (here s)) (me s).root va = none → TrapsWith i s cPAGE 1 va 0) ∧
    (∀ leaf lvl, isCanonical va = true → leafOf s (tlbOfUnit (here s)) (me s).root va = some (leaf, lvl) →
      isHost (locOfLeaf va leaf lvl) = true → TrapsWith i s cPROT 1 va 0) ∧
    (∀ l, dlgAddr s s.focus va = .ok l → s.posted s.focus ≠ [] → ParksOn i s (.drain 2 false) none) ∧
    (∀ l u, dlgAddr s s.focus va = .ok l → s.posted s.focus = [] → s.homeUnit l = some u →
      64 ≤ (s.core u).dlgq.length → ParksOn i s (.dlgRoom u) none)
  (∀ s d a b, Ready (.dlgCall d a b) s → inServer s.focus = false → dlg (.dlgCall d a b) s) ∧
  (∀ s a b, let i := Instr.dlgPost a b
    Ready i s → inServer s.focus = false → dlg i s ∧
    (∀ l u, dlgAddr s s.focus (src i s 0) = .ok l → s.posted s.focus = [] → s.homeUnit l = some u →
      (s.core u).dlgq.length < 64 → s.freeEntry (here s) = none → ParksOn i s (.journalRoom 1) none)) ∧
  (∀ s a b, Ready (.dlgPost a b) s → inServer s.focus = true → TrapsWith (.dlgPost a b) s cQUEUE 0 0 0) ∧
  (∀ s a m, let i := Instr.mig a m
    let va := src i s 0
    Ready i s → (inServer s.focus = true → TrapsWith i s cQUEUE 0 0 0) ∧ (inServer s.focus = false →
    (isWindow va = false → isCanonical va = false → TrapsWith i s cPAGE 1 va 0) ∧
    (isWindow va = true → windowOk s (me s).root (me s).rcb va = false → TrapsWith i s cPROT 1 va 0) ∧
    (isCanonical va = true → leafOf s (tlbOfUnit (here s)) (me s).root va = none → TrapsWith i s cPAGE 1 va 0) ∧
    (∀ l u, migAddr s s.focus va = .ok l → s.homeUnit l = some u → (me s).twin = none → s.posted s.focus ≠ [] →
      ParksOn i s (.drain 2 false) none) ∧
    (∀ l u x, migAddr s s.focus va = .ok l → s.homeUnit l = some u → u ≠ here s → (me s).twin = none →
      s.posted s.focus = [] → s.destRefused s.focus l = false → s.heldBack s.focus = some x → ParksOn i s x none))))

/-- R62's frame for a store that completes: every byte outside the bytes it stores reads as before, and so does every
register, flag and bit. -/
def Obligations.StoresLeaveTheRestAlone : Prop :=
  ∀ s t b a (w : BitVec 2) (g : BitVec 1) (imm : BitVec 8) l, let i := Instr.st b a w g imm
    Ready i s → (me s).twin = none → (me s).st.ppRlx = false → Stays s g l → isSlotWin l = false →
    addrOf s s.focus (src i s 1 + imm.signExtend 64 * BitVec.ofNat 64 (2 ^ w.toNat)) (2 ^ w.toNat) .w true = .ok l →
    Served s (.store (2 ^ w.toNat) (src i s 0)) [l] → exec i s = .next t → (me t).status = .run →
    (∀ k, k < l ∨ l + 2 ^ w.toNat ≤ k → readByte t.mem k = readByte s.mem k) ∧ t.empties = s.empties ∧
    (∀ k, k ≠ l / 8 → t.poison.contains k = s.poison.contains k) ∧
    t.th s.focus = { me s with
      status := .run, park := none, pc := (me s).pc + 4, retried := false, st := (me s).st.noPfx } ∧
    (∀ k, k ≠ s.focus → t.th k = s.th k) ∧ (∀ u, u ≠ here s → t.core u = s.core u) ∧
    t.core (here s) = { s.core (here s) with mbox := (t.core (here s)).mbox } ∧ t.queues = s.queues ∧ t.homes = s.homes ∧
    t.ctxs = s.ctxs ∧ t.tlbs = s.tlbs ∧ t.msgs = s.msgs ∧
    t.clusters = s.clusters ∧ t.reqs = s.reqs ∧ t.pkg = s.pkg

/-- R181 and R182: an RLX load leaves its register pending on a request, an RLX store posts one entry; both complete.
R193: the remote updates post. R182: what a posted entry holds, and that it takes one free entry of the journal. -/
def Obligations.RelaxedAccessesAndUpdatesPost : Prop :=
  ((∀ s d a (w : BitVec 2) (x g : BitVec 1) (imm : BitVec 8) l, let i := Instr.ld d a w x g imm
    let va := src i s 0 + imm.signExtend 64 * BitVec.ofNat 64 (2 ^ w.toNat)
    Ready i s → (me s).st.ppRlx = true → Stays s g l → isSlotWin l = false → d.toNat < 112 →
    addrOf s s.focus va (2 ^ w.toNat) .r true = .ok l → (me s).outstanding.length < 4 →
    (me s).twin = none →
    ∃ t, exec i s = .next t ∧ (t.th s.focus).pending = (me s).pending ++ [(d.toNat, s.fresh)] ∧
      (t.req s.fresh).op = .load (2 ^ w.toNat) (x = 1) d ∧ (t.req s.fresh).parts = [l] ∧ (t.req s.fresh).rlx = true ∧
      (Instr.homeRequest, [s.fresh, 0]) ∈ t.agenda ∧ t.mem = s.mem ∧ (t.th s.focus).pc = (me s).pc + 4) ∧
  (∀ s d a (w : BitVec 2) (x g : BitVec 1) (imm : BitVec 8) l, let i := Instr.ld d a w x g imm
    Ready i s → (me s).st.ppRlx = true → Stays s g l → isSlotWin l = false → d.toNat < 112 →
    addrOf s s.focus (src i s 0 + imm.signExtend 64 * BitVec.ofNat 64 (2 ^ w.toNat)) (2 ^ w.toNat) .r true = .ok l →
    4 ≤ (me s).outstanding.length → ParksOn i s .rlxRoom none) ∧
  (∀ s b a (w : BitVec 2) (g : BitVec 1) (imm : BitVec 8) l, let i := Instr.st b a w g imm
    let va := src i s 1 + imm.signExtend 64 * BitVec.ofNat 64 (2 ^ w.toNat)
    Ready i s → (me s).st.ppRlx = true → Stays s g l → isSlotWin l = false →
    addrOf s s.focus va (2 ^ w.toNat) .w true = .ok l → s.freeEntries (here s) ≠ 0 →
    Completes i s (s.postOne s.focus va (.post (blockOf l (2 ^ w.toNat) (src i s 0).toNat).1
      (blockOf l (2 ^ w.toNat) (src i s 0).toNat).2) (blockOf l (2 ^ w.toNat) (src i s 0).toNat).1
      (blockOf l (2 ^ w.toNat) (src i s 0).toNat).2 none [l / 8 * 8])) ∧
  (∀ s b a (w : BitVec 2) (g : BitVec 1) (imm : BitVec 8) l, let i := Instr.st b a w g imm
    Ready i s → (me s).st.ppRlx = true → Stays s g l → isSlotWin l = false →
    addrOf s s.focus (src i s 1 + imm.signExtend 64 * BitVec.ofNat 64 (2 ^ w.toNat)) (2 ^ w.toNat) .w true = .ok l →
    s.freeEntries (here s) = 0 → ParksOn i s (.journalRoom 1) none)) ∧
  (UpdatePosts .rupdAdd 0 ∧ UpdatePosts .rupdAnd 1 ∧ UpdatePosts .rupdOr 2 ∧ UpdatePosts .rupdXor 3 ∧
  UpdatePosts .rupdMin 4 ∧ UpdatePosts .rupdMax 5 ∧ UpdatePosts .rupdMinu 6 ∧ UpdatePosts .rupdMaxu 7 ∧
  UpdatePosts .rupdSwap 8 ∧ UpdatePosts .rupdIncw 10 ∧ UpdatePosts .rupdFaddF32 12) ∧
  (∀ (s : State) (t : Nat) va op data mask fn parts e, s.freeEntry (unitOfThread t) = some e → s.freeEntries (unitOfThread t) ≠ 0 →
    let s' := s.postOne t va op data mask fn parts
    let x := s'.jentry (unitOfThread t) e
    x.va = va ∧ x.data = data ∧ x.mask = mask ∧ x.pc = (s.th t).pc ∧ x.thread = t ∧ x.uid = (s.th t).uid ∧
    x.rcb = (s.th t).rcb ∧ x.refused = none ∧ s'.freeEntries (unitOfThread t) + 1 = s.freeEntries (unitOfThread t) ∧
    (s'.req s.fresh).posted = some (unitOfThread t, e) ∧ (s'.req s.fresh).op = op ∧ s'.mem = s.mem)

/-- R186: `fel` and `fes` at a home whose bit lets them go on, and R189. R187: a mode whose bit is not there waits at
the home, behind those that came earlier, with its deadline. Log 52 (DESIGN CHOICE): a fel of a poisoned word whose
bit does not satisfy its mode waits like any other, and takes POISON when it is served. -/
def Obligations.FullEmptyWordsActOrWait : Prop :=
  (let ea (i : Instr) (s : State) (n : Nat) (o : BitVec 4) : Word := src i s n + BitVec.ofNat 64 (8 * o.toNat)
  let waiters (s : State) (l : Nat) : Nat := (s.home (homeOf l)).waiters.length
  let reads (i : Instr) (s : State) (d : BitVec 7) (o : BitVec 4) (m l : Nat) : Prop :=
    Ready i s ∧ addrAtDevice s s.focus (ea i s 0 o) 8 .r false = .ok l ∧ Served s (.fel m d) [l] ∧ Sound s l
  let writes (i : Instr) (s : State) (o : BitVec 4) (m l : Nat) : Prop :=
    Ready i s ∧ addrAtDevice s s.focus (ea i s 1 o) 8 .w false = .ok l ∧ Served s (.fes m (src i s 0)) [l] ∧
    s.posted s.focus = []
  (∀ s d a te o l, reads (.felWfe d a te o) s d o 0 l → s.full l = true ∧
    Completes (.felWfe d a te o) s (((State.serveWaiters (waiters s l) s l).writeDest s.focus d (s.read64 l)).wst s.focus wstOK)) ∧
  (∀ s d a te o l, reads (.felWfs d a te o) s d o 1 l → s.full l = true ∧
    Completes (.felWfs d a te o) s (((State.serveWaiters (waiters s l) (s.setFull l false) l).writeDest s.focus d
      (s.read64 l)).wst s.focus wstOK)) ∧
  (∀ s d a o l, reads (.felAny d a o) s d o 2 l →
    Completes (.felAny d a o) s (((State.serveWaiters (waiters s l) s l).writeDest s.focus d (s.read64 l)).wst s.focus
      (if s.full l then wstOK else wstEMPTY))) ∧
  (∀ s b a te o l, writes (.fesWes b a te o) s o 0 l → s.full l = false ∧
    Completes (.fesWes b a te o) s ((State.serveWaiters (waiters s l)
      ((s.putWord l (src (.fesWes b a te o) s 0)).setFull l true) l).wst s.focus wstOK)) ∧
  (∀ s b a o l, writes (.fesSetf b a o) s o 1 l →
    Completes (.fesSetf b a o) s ((State.serveWaiters (waiters s l)
      ((s.putWord l (src (.fesSetf b a o) s 0)).setFull l true) l).wst s.focus wstOK)) ∧
  (∀ s b a o l, writes (.fesSete b a o) s o 2 l →
    Completes (.fesSete b a o) s ((State.serveWaiters (waiters s l)
      ((s.putWord l (src (.fesSete b a o) s 0)).setFull l false) l).wst s.focus wstOK)) ∧
  (∀ s d a te l, let i := Instr.waitFe d a te
    Ready i s → addrAtDevice s s.focus (src i s 1) 8 .r false = .ok l →
    Served s (.feBit ((src i s 0).getLsbD 0)) [l] → s.full l = (src i s 0).getLsbD 0 ∧ Completes i s (s.say wstOK))) ∧
  (let waits (i : Instr) (s : State) (l : Nat) (te : BitVec 5) : Prop :=
    ∃ t, exec i s = .next t ∧ (t.th s.focus).status = .park ∧
      (t.home (homeOf l)).waiters = (s.home (homeOf l)).waiters ++ [s.fresh] ∧ (t.req s.fresh).thread = s.focus ∧
      (∃ p, (t.th s.focus).park = some p ∧ p.await = .reply s.fresh) ∧
      ((me s).park = none → (t.req s.fresh).deadline = (timeoutOf te).map (s.now + ·)) ∧ t.mem = s.mem
  (∀ s d a te o l, let i := Instr.felWfe d a te o
    Ready i s → addrAtDevice s s.focus (src i s 0 + BitVec.ofNat 64 (8 * o.toNat)) 8 .r false = .ok l →
    s.heldUp s.focus [l] = none → s.outOfReach l = false → s.full l = false → waits i s l te) ∧
  (∀ s d a te o l, let i := Instr.felWfs d a te o
    Ready i s → addrAtDevice s s.focus (src i s 0 + BitVec.ofNat 64 (8 * o.toNat)) 8 .r false = .ok l →
    s.heldUp s.focus [l] = none → s.outOfReach l = false → s.full l = false → waits i s l te) ∧
  (∀ s b a te o l, let i := Instr.fesWes b a te o
    Ready i s → addrAtDevice s s.focus (src i s 1 + BitVec.ofNat 64 (8 * o.toNat)) 8 .w false = .ok l →
    s.posted s.focus = [] → s.heldUp s.focus [l] = none → s.outOfReach l = false → s.full l = true → waits i s l te) ∧
  (∀ s d a te l, let i := Instr.waitFe d a te
    Ready i s → addrAtDevice s s.focus (src i s 1) 8 .r false = .ok l → s.heldUp s.focus [l] = none →
    s.outOfReach l = false → s.full l ≠ (src i s 0).getLsbD 0 → waits i s l te))

/-- R190: every function of `amo` at its home. -/
def Obligations.AtomicsReadModifyWrite : Prop :=
  AmoDoes .amoAdd 0 (fun m v => BitVec.ofNat 64 (m.toNat + v.toNat)) ∧
  AmoDoes .amoAnd 1 (fun m v => m &&& v) ∧
  AmoDoes .amoOr 2 (fun m v => m ||| v) ∧
  AmoDoes .amoXor 3 (fun m v => m ^^^ v) ∧
  AmoDoes .amoMin 4 (fun m v => BitVec.ofInt 64 (min m.toInt v.toInt)) ∧
  AmoDoes .amoMax 5 (fun m v => BitVec.ofInt 64 (max m.toInt v.toInt)) ∧
  AmoDoes .amoMinu 6 (fun m v => BitVec.ofNat 64 (min m.toNat v.toNat)) ∧
  AmoDoes .amoMaxu 7 (fun m v => BitVec.ofNat 64 (max m.toNat v.toNat)) ∧
  AmoDoes .amoSwap 8 (fun _ v => v) ∧
  AmoTests .amoCas 9 (fun m _ c => m = c) (fun _ v => v) ∧
  AmoDoes .amoIncw 10 (fun m v => if v.toNat ≤ m.toNat then 0 else m + 1) ∧
  AmoTests .amoFaddb 11 (fun m v c => m.toNat + v.toNat ≤ c.toNat) (fun m v => m + v) ∧
  (∀ s d a b l, let i := Instr.amoFaddF32 d a b
    Ready i s → addrAtDevice s s.focus (src i s 0) 4 .rw true = .ok l →
    Served s (.amo 12 (src i s 1) 0 d) [l] → Sound s l →
    let m := readNat s.mem l 4
    let r := Fmt.fp32.add .rne (Fmt.fp32.value m) (Fmt.fp32.value ((src i s 1).toNat % 2 ^ 32))
    Completes i s ((({ s with mem := writeNat s.mem l 4 r.1 }).writeDest s.focus d (BitVec.ofNat 64 m)).flag s.focus r.2))

/-- R80 to R83 and R85: what each `fp` function writes and flags. R74, R80 and R81: the special cases of the
arithmetic functions. R75, R80 and R81: on finite operands the arithmetic functions give the exact result rounded
once. An exact zero sum has the sign of R75. A quotient or a root that no m * 2^e equals is rounded as an odd m beside
it: it lies between m - 1 and m + 1, and m has so many bits that no pattern, and no value halfway between two, lies
between these but m. R79 and R83: conversion to an integer of n bits rounds as the mode says and saturates, with NV
alone where it does, and conversion to a format gives the rounded value, an infinity, or the canonical NaN. -/
def Obligations.FloatingFunctionsDeliverTheirResults : Prop :=
  (let v (i : Instr) (s : State) (n : Nat) : FVal := Fmt.fp32.value ((src i s n).toNat % 2 ^ 32)
  let out (s : State) (d : BitVec 7) (r : Nat × Flags) : State :=
    (s.writeDest s.focus d (BitVec.ofNat 64 r.1)).flag s.focus r.2
  let two (mk : BitVec 7 → BitVec 7 → BitVec 7 → Instr) (f : Mode → FVal → FVal → Nat × Flags) : Prop :=
    ∀ s d a b, Ready (mk d a b) s → Completes (mk d a b) s
      (out s d (f (effMode (me s)) (v (mk d a b) s 0) (v (mk d a b) s 1)))
  let pick (mk : BitVec 7 → BitVec 7 → BitVec 7 → Instr) (max : Bool) : Prop :=
    ∀ s d a b, let i := mk d a b
      let x := (src i s 0).toNat % 2 ^ 32
      let y := (src i s 1).toNat % 2 ^ 32
      let nv : Flags := if (v i s 0).isSnan || (v i s 1).isSnan then 0x10 else 0
      Ready i s → ∃ r, Completes i s (out s d (r, nv)) ∧
        ((v i s 0).isNan = true → (v i s 1).isNan = true → r = 0x7FC00000) ∧
        ((v i s 0).isNan = false → (v i s 1).isNan = true → r = x) ∧
        ((v i s 0).isNan = true → (v i s 1).isNan = false → r = y) ∧
        ((v i s 0).isNan = false → (v i s 1).isNan = false →
          r = if (Fmt.fp32.orderKey x ≤ Fmt.fp32.orderKey y) = !max then x else y)
  let asks (i : Instr) (s : State) (d : BitVec 7) (r : Nat × Flags) : Prop :=
    ∃ t, exec i s = .next t ∧ (t.th s.focus).status = .park ∧ (Instr.dividerResult, [here s]) ∈ t.agenda ∧
      (t.core (here s)).div = (s.core (here s)).div ++
        [{ thread := s.focus, d := d, result := BitVec.ofNat 64 r.1, flags := r.2 }]
  two .fpAdd (fun m x y => Fmt.fp32.add m x y) ∧
  two .fpSub (fun m x y => Fmt.fp32.add m x y.flip) ∧
  two .fpMul (fun m x y => Fmt.fp32.mul m x y) ∧
  (∀ s d a b, let i := Instr.fpFma d a b
    Ready i s → Completes i s (out s d (Fmt.fp32.fma (effMode (me s)) (v i s 1) (v i s 2) (v i s 0)))) ∧
  pick .fpMin false ∧ pick .fpMax true ∧
  (∀ s d a b, let i := Instr.fpDiv d a b
    Ready i s → asks i s d (Fmt.fp32.div (effMode (me s)) (v i s 0) (v i s 1))) ∧
  (∀ s d a, let i := Instr.fpSqrt d a
    Ready i s → asks i s d (Fmt.fp32.sqrt (effMode (me s)) (v i s 0))) ∧
  (∀ s d a, let i := Instr.fpItof d a
    Ready i s → Completes i s (out s d (Fmt.fp32.roundVal (effMode (me s)) (ofInt (src i s 0).toInt)))) ∧
  (∀ s d a, let i := Instr.fpFtoi d a
    let r := toInt 64 (effMode (me s)) (v i s 0)
    Ready i s → Completes i s ((s.writeDest s.focus d (BitVec.ofInt 64 r.1)).flag s.focus r.2)) ∧
  (∀ s d a, let i := Instr.fpCvt d a
    let ab := if (me s).st.ppFmt then pfxAB (me s).st.pfxF else 0
    let fd := if (me s).st.ppFmt then pfxD (me s).st.pfxF else 0
    let r := convert fd (effMode (me s)) (valueOfCode ab (src i s 0).toNat)
    Ready i s → Completes i s ((s.writeDest s.focus d r.1).flag s.focus r.2))) ∧
  (∀ (f : Fmt) (mode : Mode) (x y z : FVal),
    let nan (nv : Bool) : Nat × Flags := (f.nanPat, if nv then 0x10 else 0)
    let s2 := x.isSnan || y.isSnan
    (x.isNan = true ∨ y.isNan = true →
      f.add mode x y = nan s2 ∧ f.mul mode x y = nan s2 ∧ f.div mode x y = nan s2) ∧
    (x.isInf = true → y.isInf = true → x.neg ≠ y.neg → f.add mode x y = nan true) ∧
    ((x.isZero = true ∧ y.isInf = true) ∨ (x.isInf = true ∧ y.isZero = true) →
      f.mul mode x y = nan true ∧ f.fma mode x y z = nan true) ∧
    ((x.isZero = true ∧ y.isZero = true) ∨ (x.isInf = true ∧ y.isInf = true) → f.div mode x y = nan true) ∧
    (∀ n m e, x = .fin n m e → m ≠ 0 → y.isZero = true →
      f.div mode x y = (f.signPat (n != y.neg) + f.infPat, 0x08)) ∧
    (x.isNan = true → f.sqrt mode x = nan x.isSnan) ∧
    (x.isNan = false → x.isZero = false → x.neg = true → f.sqrt mode x = nan true) ∧
    (∀ n e, x = .fin n 0 e → f.sqrt mode x = (f.signPat n, 0)) ∧
    (z.isNan = true → (mulExact x y).isSome = true →
      f.fma mode x y z = nan (x.isSnan || y.isSnan || z.isSnan))) ∧
  (∀ (f : Fmt) (mode : Mode) (n1 : Bool) (m1 : Nat) (e1 : Int) (n2 : Bool) (m2 : Nat) (e2 : Int) (n3 : Bool) (m3 : Nat) (e3 : Int),
    let x : FVal := .fin n1 m1 e1
    let y : FVal := .fin n2 m2 e2
    let le (a : Nat) (p : Int) (b : Nat) (q : Int) : Prop := scaled false a p (min p q) ≤ scaled false b q (min p q)
    let eq (a : Nat) (p : Int) (b : Nat) (q : Int) : Prop := le a p b q ∧ le b q a p
    let once (r : Nat × Flags) (neg : Bool) (a : Nat) (p : Int) : Prop := ∃ m e, r = f.round mode neg m e ∧ eq m e a p
    let sums (r : Nat × Flags) (na : Bool) (a : Nat) (p : Int) (nb : Bool) (b : Nat) (q : Int) : Prop :=
      let sum := scaled na a p (min p q) + scaled nb b q (min p q)
      (sum ≠ 0 → once r (decide (sum < 0)) sum.natAbs (min p q)) ∧
      (sum = 0 → r = (f.signPat (if a = 0 ∧ na = nb then na else decide (mode = .rdn)), 0))
    sums (f.add mode x y) n1 m1 e1 n2 m2 e2 ∧ sums (f.add mode x y.flip) n1 m1 e1 (!n2) m2 e2 ∧
    once (f.mul mode x y) (n1 != n2) (m1 * m2) (e1 + e2) ∧
    sums (f.fma mode x y (.fin n3 m3 e3)) (n1 != n2) (m1 * m2) (e1 + e2) n3 m3 e3 ∧
    (m1 = 0 → m2 ≠ 0 → f.div mode x y = (f.signPat (n1 != n2), 0)) ∧
    (m1 ≠ 0 → m2 ≠ 0 → ∃ m e, f.div mode x y = f.round mode (n1 != n2) m e ∧
      (eq (m * m2) (e + e2) m1 e1 ∨ (m % 2 = 1 ∧ 2 ^ (f.frac + 2) ≤ m ∧
        ¬ le m1 e1 ((m - 1) * m2) (e + e2) ∧ ¬ le ((m + 1) * m2) (e + e2) m1 e1))) ∧
    (m1 ≠ 0 → n1 = false → ∃ m e, f.sqrt mode x = f.round mode false m e ∧
      (eq (m * m) (2 * e) m1 e1 ∨ (m % 2 = 1 ∧ 2 ^ (f.frac + 2) ≤ m ∧
        ¬ le m1 e1 ((m - 1) * (m - 1)) (2 * e) ∧ ¬ le ((m + 1) * (m + 1)) (2 * e) m1 e1)))) ∧
  ((∀ (n : Nat) (mode : Mode), 0 < n →
    let lo : Int := -(2 ^ (n - 1))
    let hi : Int := 2 ^ (n - 1) - 1
    (∀ s, toInt n mode (.nan s) = (0, 0x10)) ∧ (∀ s, toInt n mode (.inf s) = (if s then lo else hi, 0x10)) ∧
    ∀ s m e, let D : Int := 2 ^ (-(min e 0)).toNat
      let X := scaled s m e (min e 0)
      ∃ v : Int, (match mode with
          | .rtz => v = X.tdiv D
          | .rup => X ≤ v * D ∧ (v - 1) * D < X
          | .rdn => v * D ≤ X ∧ X < (v + 1) * D
          | .rne => 2 * (v * D - X) ≤ D ∧ -D ≤ 2 * (v * D - X) ∧
              (2 * (v * D - X) = D ∨ 2 * (v * D - X) = -D → v % 2 = 0)) ∧
        toInt n mode (.fin s m e) =
          if v < lo then (lo, 0x10) else if hi < v then (hi, 0x10) else (v, if v * D = X then 0 else 1)) ∧
  ∀ (d : Nat) (mode : Mode),
    (∀ f, fmtOfCode d = some f → (∀ s, convert d mode (.nan s) = (BitVec.ofNat 64 f.nanPat, if s then 0x10 else 0)) ∧
      (∀ s, convert d mode (.inf s) = (BitVec.ofNat 64 (f.signPat s + f.infPat), 0)) ∧
      ∀ s m e, convert d mode (.fin s m e) = (BitVec.ofNat 64 (f.round mode s m e).1, (f.round mode s m e).2)) ∧
    (fmtOfCode d = none → ∀ x, convert d mode x =
      (BitVec.ofInt 64 (toInt (codeWidth d) mode x).1, (toInt (codeWidth d) mode x).2)))

/-- R72, R75: a finite value rounds to a pattern of the format. It overflows, with OF and NX, exactly where rounding
without a bound on the exponent leaves the format's range, to infinity or the largest finite value as the mode names.
Else the pattern's value is the adjacent one below the exact value or above it in the directed modes, and the nearest
one, a tie going to the even pattern, under RNE; NX is raised exactly where the two differ, and UF exactly where they
differ and the value rounded without a bound on the exponent lies below the least normal one. -/
def Obligations.RoundingFollowsItsMode : Prop :=
  ∀ (f : Fmt) (mode : Mode) (neg : Bool) (m : Nat) (e : Int), 0 < m →
    let r := f.round mode neg m e
    let le (a : Nat) (x : Int) (b : Nat) (y : Int) : Prop := scaled false a x (min x y) ≤ scaled false b y (min x y)
    let B : Int := f.bias
    let F : Int := f.frac
    let down : Bool := decide (mode = .rtz) || (decide (mode = .rup) && neg) || (decide (mode = .rdn) && !neg)
    let tooBig : Prop :=
      if mode = .rne then le (2 ^ (f.frac + 2) - 1) (B - F - 1) m e
      else if down then le 1 (B + 1) m e
      else ¬ le m e (2 ^ (f.frac + 1) - 1) (B - F)
    let tiny : Prop :=
      if mode = .rne then ¬ le (2 ^ (f.frac + 2) - 1) (-1 - B - F) m e
      else if down then ¬ le 1 (1 - B) m e
      else le m e (2 ^ (f.frac + 1) - 1) (-B - F)
    r.1 < 2 ^ f.width ∧ r.2.toNat < 8 ∧ (r.2.getLsbD 2 = true ↔ tooBig) ∧
    (tooBig → r = (f.signPat neg + (if down then f.infPat - 1 else f.infPat), 5)) ∧
    (¬ tooBig → ∃ a x, f.value r.1 = .fin neg a x ∧
      (r.2.getLsbD 0 = true ↔ ¬ (le m e a x ∧ le a x m e)) ∧
      (r.2.getLsbD 1 = true ↔ r.2.getLsbD 0 = true ∧ tiny) ∧
      ∀ q b y, q < 2 ^ f.width → f.value q = .fin neg b y →
        (down = true → le a x m e ∧ (le b y m e → le b y a x)) ∧
        (down = false → mode ≠ .rne → le m e a x ∧ (le m e b y → le a x b y)) ∧
        (mode = .rne →
          let z := min e (min x y)
          let d (c : Nat) (w : Int) : Nat := (scaled false m e z - scaled false c w z).natAbs
          d a x ≤ d b y ∧ (d a x = d b y → (le a x b y ∧ le b y a x) ∨ r.1 % 2 = 0)))

/-- R87 to R89, R92 and R94: what changes the code table, when it commits, and what reads it. A change counts from its
instruction's issue, or from its resumption if it parked, and its thread's next instruction comes after that; a reader
sees the table as committed at its issue, or, if it waited for a seal, what the seal leaves with the NANSUB of its
issue. R89, R91, R93 and R95: `tbl.enc` and `tbl.dec`. -/
def Obligations.TableChangesCommitLaterAndConvert : Prop :=
  (let table (s : State) : CodeTable := s.table s.focus
  let at12 (s : State) (c : Commit) : State := (s.updCore (here s) (fun k =>
    { k with commits := insertTimed k.commits (s.changeCycle s.focus + 12) c })).updTh s.focus (fun th =>
    { th with lastIssue := th.lastIssue.map (fun _ => s.changeCycle s.focus) })
  (∀ s, (me s).park = none →
    table s = (s.core (here s)).table ∧ s.changeCycle s.focus = (me s).lastIssue.getD 0) ∧
  (∀ s p, (me s).park = some p → s.changeCycle s.focus = p.woken.getD ((me s).lastIssue.getD 0) ∧
    (p.tab = none → table s = (s.core (here s)).table) ∧
    (∀ x, p.tab = some x → table s = x)) ∧
  (∀ s i a, (me s).park = none → readsTable i = true → ∃ p,
    ((s.parkOn s.focus i a).th s.focus).park = some p ∧ p.tab = some (s.core (here s)).table) ∧
  (∀ (s : State) t p, (s.th t).park = some p → ((s.wake t).th t).park = some { p with woken := some (s.nextCycle (unitOfThread t)) }) ∧
  (∀ s a b, let i := Instr.tblWr a b
    Ready i s → (table s).state ≠ .sealing →
    Completes i s (at12 s (.entry ((src i s 0).toNat % 256) ((src i s 1).truncate 19)))) ∧
  (∀ s a b, let i := Instr.tblWr a b
    Ready i s → (table s).state = .sealing → ParksOn i s .seal none) ∧
  (∀ s d a, let i := Instr.tblRd d a
    Ready i s → Completes i s (s.writeDest s.focus d (((table s).entry ((src i s 0).toNat % 256)).zeroExtend 64))) ∧
  (∀ s a, let i := Instr.tblNansub a
    let v := (src i s 0).toNat % 256
    Ready i s → (v < entriesOf (table s).width → Completes i s (at12 s (.nansub v))) ∧
      (entriesOf (table s).width ≤ v → TrapsWith i s cTBLERR 0 0 0)) ∧
  (∀ s, Ready .tblSeal s → (table s).state ≠ .sealing → ∃ t, exec .tblSeal s = .next t ∧
    (t.th s.focus).status = .park ∧ (∃ p, (t.th s.focus).park = some p ∧ p.await = .sealOwn s.fresh) ∧
    (t.core (here s)).commits =
      insertTimed (s.core (here s)).commits (s.changeCycle s.focus + 12) (.startSeal s.fresh)) ∧
  (∀ s, Ready .tblSeal s → (table s).state = .sealing → ParksOn .tblSeal s .seal none) ∧
  (∀ s n c rest, let u := s.arg 0
    (s.core u).commits = (n, c) :: rest → n ≤ (s.core u).cycle →
    let put (f : CodeTable → CodeTable) : State :=
      s.updCore u (fun k => { k with commits := rest, table := f k.table })
    (∀ k v, c = .entry k v → exec .tableCommit s = .next (put (fun x => x.writeEntry k v))) ∧
    (∀ v, c = .nansub v → exec .tableCommit s = .next (put (fun x => { x with nansub := v }))) ∧
    (∀ v, c = .width v → exec .tableCommit s = .next (put (fun x => x.writeWidth v))) ∧
    (∀ v, c = .xo v → exec .tableCommit s = .next (s.updCore u (fun k => { k with commits := rest, xo := v }))) ∧
    (∀ k, c = .startSeal k → (s.core u).table.state ≠ .sealing →
      exec .tableCommit s = .next ((put (fun x => x.startSeal)).push .sealComplete [u, k]))) ∧
  (∀ s k, let u := s.arg 0
    (s.core u).table.state = .sealing → k < slotsOf u → (∀ j, j < k → ∀ p, (s.th (u * 64 + j)).park = some p →
      p.await ≠ .sealOwn (s.arg 1)) →
    (s.th (u * 64 + k)).status = .park → (∃ p, (s.th (u * 64 + k)).park = some p ∧ p.await = .sealOwn (s.arg 1)) →
    let left := (s.core u).table.endSeal
    ∃ s1 : State, exec .sealComplete s = .next (s1.finish (u * 64 + k) .tblSeal) ∧
      s1.core u = { s.core u with table := left } ∧ (∀ v, v ≠ u → s1.core v = s.core v) ∧ s1.mem = s.mem ∧
      (∀ j, j < slotsOf u → ∀ p x, (s.th (u * 64 + j)).status = .park → (s.th (u * 64 + j)).park = some p →
        p.tab = some x → ∃ q, (s1.th (u * 64 + j)).park = some q ∧ q.instr = p.instr ∧ q.await = p.await ∧
          q.tab = some (if x.state = .sealing then { left with nansub := x.nansub } else x)) ∧
      ∀ t, t / 64 ≠ u → s1.th t = s.th t)) ∧
  (let table (s : State) : CodeTable := s.table s.focus
  let ab (s : State) (dflt : Nat) : Nat := if (me s).st.ppFmt then pfxAB (me s).st.pfxF else dflt
  let fd (s : State) (dflt : Nat) : Nat := if (me s).st.ppFmt then pfxD (me s).st.pfxF else dflt
  (∀ s d a, let i := Instr.tblEnc d a
    let c := table s
    let r := c.enc (valueOfCode (ab s 0) (src i s 0).toNat)
    Ready i s →
    (c.state = .sealing → ParksOn i s .seal none) ∧
    (c.state = .unsealed → TrapsWith i s cTBLERR 0 0 0) ∧
    (c.state = .sealed → fd s (4 + c.width) ≠ 4 + c.width → TrapsWith i s cTBLERR 0 0 0) ∧
    (c.state = .sealed → fd s (4 + c.width) = 4 + c.width →
      Completes i s ((s.writeDest s.focus d (BitVec.ofNat 64 r.1)).flag s.focus r.2))) ∧
  (∀ s d a, let i := Instr.tblDec d a
    let c := table s
    let k := (src i s 0).toNat % 2 ^ codeWidth (4 + c.width)
    let cv := convert (fd s 0) (effMode (me s)) (Fmt.e8m10.value (c.entry k).toNat)
    Ready i s →
    (ab s (4 + c.width) ≠ 4 + c.width → TrapsWith i s cTBLERR 0 0 0) ∧
    (ab s (4 + c.width) = 4 + c.width → fd s 0 = 3 →
      Completes i s ((s.writeDest s.focus d ((c.entry k).zeroExtend 64)).flag s.focus 0)) ∧
    (ab s (4 + c.width) = 4 + c.width → fd s 0 ≠ 3 →
      Completes i s ((s.writeDest s.focus d cv.1).flag s.focus cv.2))))

/-- R89 and R92: the sealed order. It holds exactly the patterns of the entries in use that are no NaN, each with its
lowest code, by rising value with -0 before +0; NANV, NANLO, STATE and GEN are as the seal finds them. Its start
clears NANV and NANLO and keeps the rest. R93: a finite value encodes to the held finite element nearest to it, of
several the one of smaller magnitude, and of two of one magnitude the one with the value's sign; NX is raised where
they differ, and OF with it beyond the ends. R93: the other operands and tables. A NaN gives NANLO, or NANSUB with NV;
with ORD empty everything else gives NANSUB with NV. An infinity gives its own code where it is held, else the
greatest or the least finite element with OF and NX; where only infinities are held, the one of its sign, or the other
with OF and NX, and a finite value gives one so, too. -/
def Obligations.SealsSortAndEncodingPicksTheNearest : Prop :=
  ((∀ t : CodeTable, let r := t.startSeal
    r.state = .sealing ∧ r.nanv = false ∧ r.nanlo = 0 ∧ r.snapEnt = t.ent ∧ r.snapWidth = t.width ∧ r.changed = false ∧
    r.ent = t.ent ∧ r.width = t.width ∧ r.nansub = t.nansub ∧ r.gen = t.gen ∧ r.ord = t.ord) ∧
  ∀ t : CodeTable, let r := t.endSeal
    let w := entriesOf t.snapWidth
    let e (c : Nat) : BitVec 19 := AMap.get 0 t.snapEnt c
    let nan (c : Nat) : Bool := (Fmt.e8m10.value (e c).toNat).isNan
    r.ord.Pairwise (fun x y => Fmt.e8m10.orderKey x.1.toNat < Fmt.e8m10.orderKey y.1.toNat) ∧
    (∀ p c, (p, c) ∈ r.ord ↔ c < w ∧ e c = p ∧ nan c = false ∧ ∀ k, k < c → e k ≠ p) ∧
    (r.nanv = true ↔ ∃ c, c < w ∧ nan c = true) ∧
    (r.nanv = true → r.nanlo < w ∧ nan r.nanlo = true ∧ ∀ k, k < r.nanlo → nan k = false) ∧
    (r.nanv = false → r.nanlo = 0) ∧
    r.state = (if t.changed then .unsealed else .sealed) ∧ r.gen = (t.gen + 1) % 65536 ∧
    r.ent = t.ent ∧ r.width = t.width ∧ r.nansub = t.nansub) ∧
  (∀ (t : CodeTable) (n : Bool) (m : Nat) (e : Int), -149 ≤ e →
    let val (p : BitVec 19) : Int := scaledVal (Fmt.e8m10.value p.toNat)
    let fin (p : BitVec 19) : Prop := ∃ a b c, Fmt.e8m10.value p.toNat = .fin a b c
    t.ord.Pairwise (fun x y => Fmt.e8m10.orderKey x.1.toNat < Fmt.e8m10.orderKey y.1.toNat) →
    (∀ x ∈ t.ord, (Fmt.e8m10.value x.1.toNat).isNan = false) → (∃ x ∈ t.ord, fin x.1) →
    let v := scaled n m e (-149)
    let r := t.enc (.fin n m e)
    ∃ p, (p, r.1) ∈ t.ord ∧ fin p ∧ (∀ q ∈ t.ord, fin q.1 → (v - val p).natAbs ≤ (v - val q.1).natAbs ∧
        ((v - val p).natAbs = (v - val q.1).natAbs → (val p).natAbs ≤ (val q.1).natAbs ∧
          ((val p).natAbs = (val q.1).natAbs → q.1.getLsbD 18 = n → p.getLsbD 18 = n))) ∧
      (r.2.getLsbD 0 = true ↔ val p ≠ v) ∧ r.2.getLsbD 4 = false ∧ r.2.getLsbD 3 = false ∧ r.2.getLsbD 1 = false ∧
      (r.2.getLsbD 2 = true ↔ ((∀ q ∈ t.ord, fin q.1 → val q.1 < v) ∨ (∀ q ∈ t.ord, fin q.1 → v < val q.1)))) ∧
  (∀ t : CodeTable,
    let val (p : BitVec 19) : Int := scaledVal (Fmt.e8m10.value p.toNat)
    let fin (p : BitVec 19) : Prop := ∃ a b c, Fmt.e8m10.value p.toNat = .fin a b c
    let holds (n : Bool) (c : Nat) : Prop := ∃ p, (p, c) ∈ t.ord ∧ Fmt.e8m10.value p.toNat = .inf n
    t.ord.Pairwise (fun x y => Fmt.e8m10.orderKey x.1.toNat < Fmt.e8m10.orderKey y.1.toNat) →
    (∀ x ∈ t.ord, (Fmt.e8m10.value x.1.toNat).isNan = false) →
    (∀ s, t.enc (.nan s) = if t.nanv then (t.nanlo, if s then 0x10 else 0) else (t.nansub, 0x10)) ∧
    (t.ord = [] → (∀ n, t.enc (.inf n) = (t.nansub, 0x10)) ∧ ∀ n m e, t.enc (.fin n m e) = (t.nansub, 0x10)) ∧
    (∀ n c, holds n c → t.enc (.inf n) = (c, 0)) ∧
    (∀ n, (¬ ∃ c, holds n c) → (∃ x ∈ t.ord, fin x.1) → ∃ p, (p, (t.enc (.inf n)).1) ∈ t.ord ∧ fin p ∧
      (t.enc (.inf n)).2 = 0x05 ∧ ∀ q ∈ t.ord, fin q.1 → if n then val p ≤ val q.1 else val q.1 ≤ val p) ∧
    ((∀ x ∈ t.ord, ¬ fin x.1) → t.ord ≠ [] →
      (∀ n, (¬ ∃ c, holds n c) → ∃ c, holds (!n) c ∧ t.enc (.inf n) = (c, 0x05)) ∧
      ∀ n m e, (∀ c, holds n c → t.enc (.fin n m e) = (c, 0x05)) ∧
        ((¬ ∃ c, holds n c) → ∃ c, holds (!n) c ∧ t.enc (.fin n m e) = (c, 0x05))))

/-- R159, R162, R163: the integer lane functions, lane by lane. R167 and R168: the `vsc` functions, lane by lane, and
the reductions. -/
def Obligations.IntegerAndScalarLanesCompute : Prop :=
  (let sg (w x : Nat) : Int := if 2 ^ (w - 1) ≤ x then (x : Int) - 2 ^ w else x
  let un (w : Nat) (v : Int) : Nat := (v % 2 ^ w).toNat
  let sat (w : Nat) (v : Int) : Nat :=
    un w (if v < -(2 ^ (w - 1)) then -(2 ^ (w - 1)) else if 2 ^ (w - 1) - 1 < v then 2 ^ (w - 1) - 1 else v)
  let lanes (mk : BitVec 5 → BitVec 5 → BitVec 5 → BitVec 2 → Instr) (f : Nat → Nat → Nat → Nat) : Prop :=
    ∀ s v a b l, let i := mk v a b l
      Ready i s → ∃ r : BitVec 256, Completes i s (s.writeVec s.focus v r) ∧ ∀ k, k < laneCount l →
        laneOf (laneBits l) r k =
          f (laneBits l) (laneOf (laneBits l) (vecVal s s.focus i 0) k) (laneOf (laneBits l) (vecVal s s.focus i 1) k)
  lanes .vopAdd (fun w x y => (x + y) % 2 ^ w) ∧
  lanes .vopSub (fun w x y => un w ((x : Int) - y)) ∧
  lanes .vopMul (fun w x y => x * y % 2 ^ w) ∧
  lanes .vopMin (fun w x y => un w (min (sg w x) (sg w y))) ∧
  lanes .vopMax (fun w x y => un w (max (sg w x) (sg w y))) ∧
  lanes .vopMinu (fun _ x y => min x y) ∧
  lanes .vopMaxu (fun _ x y => max x y) ∧
  lanes .vopAnd (fun _ x y => x &&& y) ∧
  lanes .vopOr (fun _ x y => x ||| y) ∧
  lanes .vopXor (fun _ x y => x ^^^ y) ∧
  lanes .vopSll (fun w x y => x * 2 ^ (y % w) % 2 ^ w) ∧
  lanes .vopSrl (fun w x y => x / 2 ^ (y % w)) ∧
  lanes .vopSra (fun w x y => un w (sg w x / 2 ^ (y % w))) ∧
  lanes .vopAdds (fun w x y => sat w (sg w x + sg w y)) ∧
  lanes .vopSubs (fun w x y => sat w (sg w x - sg w y)) ∧
  lanes .vopCeq (fun w x y => if x = y then 2 ^ w - 1 else 0) ∧
  lanes .vopClt (fun w x y => if sg w x < sg w y then 2 ^ w - 1 else 0) ∧
  lanes .vopCltu (fun w x y => if x < y then 2 ^ w - 1 else 0) ∧
  (∀ s v a b l, let i := Instr.vopSel v a b l
    let w := laneBits l
    let x (n k : Nat) : Nat := laneOf w (vecVal s s.focus i n) k
    Ready i s → ∃ r : BitVec 256, Completes i s (s.writeVec s.focus v r) ∧ ∀ k, k < laneCount l →
      laneOf w r k = if 2 ^ (w - 1) ≤ x 0 k then x 1 k else x 2 k) ∧
  (∀ s v a b l, let i := Instr.vopShuf v a b l
    let w := laneBits l
    let x (n k : Nat) : Nat := laneOf w (vecVal s s.focus i n) k
    Ready i s → ∃ r : BitVec 256, Completes i s (s.writeVec s.focus v r) ∧ ∀ k, k < laneCount l →
      laneOf w r k = if x 1 k < laneCount l then x 0 (x 1 k) else 0)) ∧
  (let sg (w x : Nat) : Int := if 2 ^ (w - 1) ≤ x then (x : Int) - 2 ^ w else x
  let fmt (s : State) (l : BitVec 2) : Fmt :=
    if l = 0 then .fp32 else if (me s).st.ppFmt && pfxAB (me s).st.pfxF = 2 then .bf16 else .fp16
  let put (i : Instr) (s : State) (v : BitVec 5) (l : BitVec 2) (g : Nat → Nat) : Prop :=
    ∃ r : BitVec 256, Completes i s (s.writeVec s.focus v r) ∧ ∀ k, k < laneCount l → laneOf (laneBits l) r k = g k
  let putF (i : Instr) (s : State) (v : BitVec 5) (l : BitVec 2) (g : Nat → Nat × Flags) : Prop :=
    ∃ (r : BitVec 256) (fl : Flags), Completes i s ((s.writeVec s.focus v r).flag s.focus fl) ∧
      (∀ k, k < laneCount l → laneOf (laneBits l) r k = (g k).1 % 2 ^ laneBits l) ∧
      (∀ b, fl.getLsbD b = (List.range (laneCount l)).any (fun k => (g k).2.getLsbD b))
  let x (i : Instr) (s : State) (l : BitVec 2) (n k : Nat) : Nat := laneOf (laneBits l) (vecVal s s.focus i n) k
  let y (i : Instr) (s : State) (l : BitVec 2) : Nat := (src i s 0).toNat % 2 ^ laneBits l
  let int (mk : BitVec 5 → BitVec 5 → BitVec 7 → BitVec 2 → Instr) (f : Nat → Nat → Nat → Nat) : Prop :=
    ∀ s v a r l, let i := mk v a r l
      Ready i s → put i s v l (fun k => f (laneBits l) (x i s l 0 k) (y i s l))
  let fp (mk : BitVec 5 → BitVec 5 → BitVec 7 → BitVec 2 → Instr) (f : Fmt → Mode → FVal → FVal → Nat × Flags) : Prop :=
    ∀ s v a r l, let i := mk v a r l
      Ready i s → putF i s v l (fun k =>
        f (fmt s l) (effMode (me s)) ((fmt s l).value (x i s l 0 k)) ((fmt s l).value (y i s l)))
  let red (mk : BitVec 5 → BitVec 7 → BitVec 2 → Instr) (P : Nat → Nat → (Nat → Nat) → Word → Prop) : Prop :=
    ∀ s a r l, let i := mk a r l
      Ready i s → ∃ v, P (laneBits l) (laneCount l) (x i s l 0) v ∧ Completes i s (s.writeDest s.focus r v)
  let tree (mk : BitVec 5 → BitVec 7 → BitVec 2 → Instr) (f : Fmt → Mode → Nat → Nat → Nat × Flags) : Prop :=
    ∀ s a r l, let i := mk a r l
      let g := f (fmt s l) (effMode (me s))
      Ready i s → ∃ lv fl : Nat → Nat → Nat,
        (∀ k, k < laneCount l → lv 0 k = x i s l 0 k) ∧
        (∀ n k, n < (if l = 0 then 3 else 4) → k < laneCount l / 2 ^ (n + 1) →
          lv (n + 1) k = (g (lv n (2 * k)) (lv n (2 * k + 1))).1 ∧
          fl n k = (g (lv n (2 * k)) (lv n (2 * k + 1))).2.toNat) ∧
        ∃ all : Flags, (∀ b, all.getLsbD b = (List.range (if l = 0 then 3 else 4)).any (fun n =>
            (List.range (laneCount l / 2 ^ (n + 1))).any (fun k => (fl n k).testBit b))) ∧
          Completes i s ((s.writeDest s.focus r (BitVec.ofNat 64 (lv (if l = 0 then 3 else 4) 0))).flag s.focus all)
  (∀ s v r l, let i := Instr.vscBcast v r l
    Ready i s → put i s v l (fun _ => y i s l)) ∧
  int .vscAdd (fun w p q => (p + q) % 2 ^ w) ∧
  int .vscSub (fun w p q => (((p : Int) - q) % 2 ^ w).toNat) ∧
  int .vscMul (fun w p q => p * q % 2 ^ w) ∧
  fp .vscFadd (fun F m p q => F.add m p q) ∧
  fp .vscFmul (fun F m p q => F.mul m p q) ∧
  (∀ s v a r l, let i := Instr.vscFfma v a r l
    Ready i s → putF i s v l (fun k => (fmt s l).fma (effMode (me s)) ((fmt s l).value (x i s l 1 k))
      ((fmt s l).value (y i s l)) ((fmt s l).value (x i s l 0 k)))) ∧
  red .vscRedadd (fun w n f v => v = BitVec.ofInt 64 (((List.range n).map (fun k => sg w (f k))).sum)) ∧
  red .vscRedmin (fun w n f v => (∀ k, k < n → v.toInt ≤ sg w (f k)) ∧ ∃ k, k < n ∧ v.toInt = sg w (f k)) ∧
  red .vscRedmax (fun w n f v => (∀ k, k < n → sg w (f k) ≤ v.toInt) ∧ ∃ k, k < n ∧ v.toInt = sg w (f k)) ∧
  red .vscRedminu (fun _ n f v => (∀ k, k < n → v.toNat ≤ f k) ∧ ∃ k, k < n ∧ v.toNat = f k) ∧
  red .vscRedmaxu (fun _ n f v => (∀ k, k < n → f k ≤ v.toNat) ∧ ∃ k, k < n ∧ v.toNat = f k) ∧
  red .vscMask (fun w n f v => ∀ k, v.getLsbD k = (decide (k < n) && decide (2 ^ (w - 1) ≤ f k))) ∧
  tree .vscFredadd (fun F m p q => F.add m (F.value p) (F.value q)) ∧
  tree .vscFredmin (fun F _ p q => F.minmax false p q) ∧
  tree .vscFredmax (fun F _ p q => F.minmax true p q))

/-- R161, R164: the floating-point lane functions, lane by lane, with the flags of all lanes ORed. R165 and R166: the
lane conversions, and the packed codes of a table. -/
def Obligations.FloatingLanesCompute : Prop :=
  (let fmt (s : State) (l : BitVec 2) : Fmt :=
    if l = 0 then .fp32 else if (me s).st.ppFmt && pfxAB (me s).st.pfxF = 2 then .bf16 else .fp16
  let put (i : Instr) (s : State) (v : BitVec 5) (l : BitVec 2) (g : Nat → Nat × Flags) : Prop :=
    ∃ (r : BitVec 256) (fl : Flags), Completes i s ((s.writeVec s.focus v r).flag s.focus fl) ∧
      (∀ k, k < laneCount l → laneOf (laneBits l) r k = (g k).1 % 2 ^ laneBits l) ∧
      (∀ b, fl.getLsbD b = (List.range (laneCount l)).any (fun k => (g k).2.getLsbD b))
  let lanes (mk : BitVec 5 → BitVec 5 → BitVec 5 → BitVec 2 → Instr) (f : Fmt → Mode → Nat → Nat → Nat × Flags) : Prop :=
    ∀ s v a b l, let i := mk v a b l
      Ready i s → put i s v l (fun k => f (fmt s l) (effMode (me s))
        (laneOf (laneBits l) (vecVal s s.focus i 0) k) (laneOf (laneBits l) (vecVal s s.focus i 1) k))
  let mask (F : Fmt) (r : Bool × Flags) : Nat × Flags := (if r.1 then 2 ^ F.width - 1 else 0, r.2)
  lanes .vopFadd (fun F m x y => F.add m (F.value x) (F.value y)) ∧
  lanes .vopFsub (fun F m x y => F.add m (F.value x) (F.value y).flip) ∧
  lanes .vopFmul (fun F m x y => F.mul m (F.value x) (F.value y)) ∧
  lanes .vopFmin (fun F _ x y => F.minmax false x y) ∧
  lanes .vopFmax (fun F _ x y => F.minmax true x y) ∧
  lanes .vopFceq (fun F _ x y => mask F (F.compareOp 8 x y)) ∧
  lanes .vopFclt (fun F _ x y => mask F (F.compareOp 10 x y)) ∧
  lanes .vopFcle (fun F _ x y => mask F (F.compareOp 13 x y)) ∧
  (∀ s v a b l, let i := Instr.vopFfma v a b l
    let F := fmt s l
    let x (n k : Nat) : FVal := F.value (laneOf (laneBits l) (vecVal s s.focus i n) k)
    Ready i s → put i s v l (fun k => F.fma (effMode (me s)) (x 1 k) (x 2 k) (x 0 k)))) ∧
  (let ab (s : State) (dflt : Nat) : Nat := if (me s).st.ppFmt then pfxAB (me s).st.pfxF else dflt
  let fd (s : State) (dflt : Nat) : Nat := if (me s).st.ppFmt then pfxD (me s).st.pfxF else dflt
  let put (i : Instr) (s : State) (v : BitVec 5) (w n : Nat) (g : Nat → Nat × Flags) : Prop :=
    ∃ (r : BitVec 256) (fl : Flags), Completes i s ((s.writeVec s.focus v r).flag s.focus fl) ∧
      (∀ k, k < n → laneOf w r k = (g k).1 % 2 ^ w) ∧
      (∀ b, fl.getLsbD b = (List.range n).any (fun k => (g k).2.getLsbD b))
  let cv (s : State) (a d x : Nat) : Nat × Flags :=
    ((convert d (effMode (me s)) (valueOfCode a x)).1.toNat, (convert d (effMode (me s)) (valueOfCode a x)).2)
  let dflt (l : BitVec 2) : Nat := if l = 0 then 0 else 1
  let table (s : State) : CodeTable := s.table s.focus
  (∀ s v a l, let i := Instr.vopFcvt v a l
    Ready i s → put i s v (laneBits l) (laneCount l) (fun k =>
      cv s (ab s (dflt l)) (fd s (dflt l)) (laneOf (laneBits l) (vecVal s s.focus i 0) k))) ∧
  (∀ s v a, let i := Instr.vopWlo v a
    Ready i s → put i s v 32 8 (fun k => cv s (ab s 1) (fd s 0) (laneOf 16 (vecVal s s.focus i 0) k))) ∧
  (∀ s v a, let i := Instr.vopWhi v a
    Ready i s → put i s v 32 8 (fun k => cv s (ab s 1) (fd s 0) (laneOf 16 (vecVal s s.focus i 0) (k + 8)))) ∧
  (∀ s v a b, let i := Instr.vopNar v a b
    Ready i s → put i s v 16 16 (fun k => cv s (ab s 0) (fd s 1)
      (laneOf 32 (vecVal s s.focus i (if k < 8 then 0 else 1)) (k % 8)))) ∧
  (∀ s v a l, let i := Instr.vopEnc v a l
    let c := table s
    let w := if c.inForce = 6 then 4 else 8
    Ready i s →
    (c.state = .sealing → ParksOn i s .seal none) ∧
    (c.state = .unsealed → TrapsWith i s cTBLERR 0 0 0) ∧
    (c.state = .sealed → fd s c.inForce ≠ c.inForce → TrapsWith i s cTBLERR 0 0 0) ∧
    (c.state = .sealed → fd s c.inForce = c.inForce → put i s v w (laneCount l) (fun k =>
      c.enc (valueOfCode (ab s (dflt l)) (laneOf (laneBits l) (vecVal s s.focus i 0) k))))) ∧
  (∀ s v a l, let i := Instr.vopDec v a l
    let c := table s
    let w := if c.inForce = 6 then 4 else 8
    Ready i s →
    (ab s c.inForce ≠ c.inForce → TrapsWith i s cTBLERR 0 0 0) ∧
    (ab s c.inForce = c.inForce → put i s v (laneBits l) (laneCount l) (fun k =>
      let e := c.entry (laneOf w (vecVal s s.focus i 0) k % 2 ^ codeWidth c.inForce)
      let r := convert (fd s (dflt l)) (effMode (me s)) (Fmt.e8m10.value e.toNat)
      if fd s (dflt l) = 3 then (e.toNat, 0) else (r.1.toNat, r.2)))))

/-- R12, R16, R65: what `sys.srd` reads. JRNL, ENERGY and XO are read as they stood when it issued, also where it has
parked since: the park keeps them. R13, R16, R66, R87, R89, R126 and R294: what `sys.swr` writes, and the writes it
refuses; one to TBLD parks while a seal runs, before the check of its WIDTH (log 52, DESIGN CHOICE). R329: a
capability within the grants, or REFUSED. Log 25 (DEDUCED): GRANTS that cannot be read grant nothing. -/
def Obligations.StateRegistersReadAndWrite : Prop :=
  ((∀ s d (a : BitVec 7) w, let i := Instr.sysSrd d a
    (me s).park = none → a = 11 ∨ a = 12 ∨ a = 14 → ∃ p, ((s.parkOn s.focus i w).th s.focus).park = some p ∧
      (Ready i s → Completes i s (s.writeDest s.focus d p.kept))) ∧
  ∀ s d (a : BitVec 7), let i := Instr.sysSrd d a
    let th := me s
    let c := s.core (here s)
    let kept (v : Word) : Word := match s.parkOf s.focus i with | some p => p.kept | none => v
    Ready i s → Completes i s (s.writeDest s.focus d (match a.toNat with
      | 0 => BitVec.ofBool th.st.mode ++ BitVec.ofBool th.st.ppRlx ++ BitVec.ofBool th.st.ppFmt ++ th.st.pfxF ++
          th.st.pfxR ++ th.st.wst ++ th.st.fpf ++ (0 : BitVec 7)
      | 1 => s.tid s.focus
      | 2 => th.rcb
      | 3 => th.live.zeroExtend 64
      | 4 => th.rnd.zeroExtend 64
      | 5 => (s.table s.focus).descriptor
      | 6 => BitVec.ofNat 64 (th.lastIssue.getD 0)
      | 7 => s.time (dieOf (here s))
      | 8 => s.terr
      | 9 => th.task
      | 10 => th.seq
      | 11 => kept (BitVec.ofNat 64
          (s.freeEntries (here s) * 2 ^ 24 + th.outstanding.length * 2 ^ 16 + (s.posted s.focus).length))
      | 12 => kept (BitVec.ofNat 64 (AMap.get 0 s.pkg.energy
          (th.root.toNat * 2 ^ 64 + ((rcbRoot s th.root treeDepth th.rcb).getD 0).toNat)))
      | 13 => s.pkg.caplist
      | 14 => kept c.xo
      | 15 => BitVec.ofNat 64 (c.tabIndex * 2 ^ 16 + (c.entry c.tabIndex).word)
      | _ => s.pairt (here s)))) ∧
  (∀ s (d : BitVec 7) a, let i := Instr.sysSwr d a
    let th := me s
    let u := here s
    let v := src i s 0
    let set (f : Thread → Thread) : State := s.updTh s.focus f
    let later (c : Commit) : State := (s.updCore u (fun k =>
      { k with commits := insertTimed k.commits (s.changeCycle s.focus + 12) c })).updTh s.focus (fun th =>
      { th with lastIssue := th.lastIssue.map (fun _ => s.changeCycle s.focus) })
    Ready i s →
    (d = 0 → th.st.mode = false → v.getLsbD 63 = true → TrapsWith i s cPRIV 0 0 0) ∧
    (d = 0 → th.st.mode = true ∨ v.getLsbD 63 = false → Completes i s (set (fun t => { t with st := { t.st with
      mode := v.getLsbD 63, wst := v.extractLsb' 12 3, fpf := v.extractLsb' 7 5 } }))) ∧
    (d = 3 → Completes i s (set (fun t => { t with live := v.truncate 15 }))) ∧
    (d = 4 → Completes i s (set (fun t => { t with rnd := v.truncate 2 }))) ∧
    (d = 5 → (s.table s.focus).state = .sealing → ParksOn i s .seal none) ∧
    (d = 5 → (s.table s.focus).state ≠ .sealing → v.toNat % 4 = 3 → TrapsWith i s cILLFLD 0 0 0) ∧
    (d = 5 → (s.table s.focus).state ≠ .sealing → v.toNat % 4 ≠ 3 → Completes i s (later (.width (v.toNat % 4)))) ∧
    (d = 14 → 9 < v.toNat % 2 ^ 32 → TrapsWith i s cILLFLD 0 0 0) ∧
    (d = 14 → v.toNat % 2 ^ 32 ≤ 9 → Completes i s (later (.xo v))) ∧
    (d = 15 → Completes i s (s.updCore u (fun c => { c with tabIndex := v.toNat / 2 ^ 16 % 64 % slotsOf u }))) ∧
    (d = 16 → v.toNat < 2 ^ 19 → v.toNat / 2 ^ 14 % 16 < 8 → v.toNat / 2 ^ 7 % 128 < 98 → v.toNat % 2 ^ 18 ≠ u →
      (isSkerry u = true → isHolm u = true ∨ v.toNat / 2 ^ 14 % 16 = dieOf u) →
      Completes i s (s.updCore u (fun c => { c with pairt := some v }))) ∧
    (d = 16 → 2 ^ 19 ≤ v.toNat ∨ 8 ≤ v.toNat / 2 ^ 14 % 16 ∨ 98 ≤ v.toNat / 2 ^ 7 % 128 ∨ v.toNat % 2 ^ 18 = u ∨
      (isSkerry u = true ∧ isHolm u = false ∧ v.toNat / 2 ^ 14 % 16 ≠ dieOf u) → TrapsWith i s cILLFLD 0 0 0)) ∧
  (∀ s d a b, let i := Instr.sysCapget d a b
    let t := (src i s 0).toNat
    let q := (src i s 1).toNat
    let g := (effGrants s (me s).root (me s).rcb).getD 0
    let rights := q / 2 ^ 32 % 16
    let within := t < 2 ^ 11 ∧ t / 2 ^ 7 ≤ 7 ∧ t % 2 ^ 7 ≤ 97 ∧ q = 4 * 2 ^ 40 + rights * 2 ^ 32 ∧
      (∀ k, k < 4 → rights.testBit k = true → g.getLsbD k = true) ∧ g.getLsbD (8 + t / 2 ^ 7) = true
    Ready i s →
    (within → Completes i s (s.give d (BitVec.ofNat 64 ((me s).rcb.toNat / 2 ^ 6 % 2 ^ 16 * 2 ^ 48 + 4 * 2 ^ 40 +
      rights * 2 ^ 32 + s.capTag (me s).rcb rights (t / 2 ^ 7) (t % 2 ^ 7))) wstOK)) ∧
    (¬ within → Completes i s (s.give d 0 wstREFUSED)))

/-- R67, R68 and R70: calls of the handler, and the fences. R205: what an entry of the journal still holds of a fence:
until it is performed, or, at an egress queue that accepted it, for the narrower scopes. -/
def Obligations.TrapCallsAndFences : Prop :=
  ((∀ s a, Ready (.sysTrap a) s → TrapsWith (.sysTrap a) s cTRAPCALL 0 0 0) ∧
  (∀ s, Ready .sysBreak s → TrapsWith .sysBreak s cBREAK 0 0 0) ∧
  (∀ s, Ready .sysIfence s → s.posted s.focus = [] →
    Completes .sysIfence s ((s.updCluster (cacheOf (here s)) (fun c => { c with icache := [] })).updTh s.focus
      (fun th => { th with ahead := [] }))) ∧
  (∀ s, Ready .sysIfence s → s.posted s.focus ≠ [] → ParksOn .sysIfence s (.drain 2 false) none) ∧
  (∀ i scope, (i, scope) ∈ [(Instr.sysFenceDev, 0), (Instr.sysFenceDom, 1), (Instr.sysFenceSys, 2)] → ∀ s, Ready i s →
    ((me s).pending = [] → (∀ x ∈ s.posted s.focus, s.holdsFence scope x.2 = false) → Completes i s s) ∧
    ((me s).pending ≠ [] ∨ (∃ x ∈ s.posted s.focus, s.holdsFence scope x.2 = true) →
      ParksOn i s (.drain scope true) none))) ∧
  (∀ (s : State) (x : JEntry),
    (s.destOf x.loc = none → ∀ n, s.holdsFence n x = true) ∧
    (∀ d, s.destOf x.loc = some d →
      (x.accepted = false → ∀ n, s.holdsFence n x = true) ∧
      (x.accepted = true → s.holdsFence 0 x = false ∧ (s.holdsFence 1 x = false ↔ d = 128) ∧ s.holdsFence 2 x = true)))

/-- R306 and R308: the functions that drop buffered translations, and wait for the accesses under way that were
translated with one they cover, a `wait.jz` at its home among them; and the refill of a buffer. -/
def Obligations.TranslationsAreDroppedAndRefilled : Prop :=
  let without (s : State) (drop : TlbEntry → Bool) : State := { s with
    tlbs := (s.tlbs.map (fun p => (p.1, p.2.filter (fun e => !drop e)))).filter (fun p => !p.2.isEmpty) }
  let drops (i : Instr) (s : State) (drop : TlbEntry → Bool) (covers : Word → Word → Nat → Bool) : Prop :=
    (s.posted s.focus ≠ [] → ParksOn i s (.drain 2 false) none) ∧
    (s.posted s.focus = [] → s.sentUnder covers = [] → Completes i s ((without s drop).say wstOK)) ∧
    (s.posted s.focus = [] → s.sentUnder covers ≠ [] →
      exec i s = .next ((without s drop).parkOn s.focus i (.performed (s.sentUnder covers)))) ∧
    (∀ k, k ∈ s.sentUnder covers ↔
      (∃ r, (k, r) ∈ s.reqs ∧ ∃ j ∈ r.unperformed, r.levels.getD j 0 ≠ 0 ∧
        covers r.root (r.va + BitVec.ofNat 64 (8 * j)) (r.levels.getD j 0) = true) ∨
      ∃ t th p l a te, (t, th) ∈ s.threads ∧ th.park = some p ∧ p.came = k ∧ p.await = .joinZero l ∧
        p.instr = .waitJz a te ∧ p.kept ≠ 0 ∧ covers th.root (srcVal s t (.waitJz a te) 0) p.kept.toNat = true)
  (∀ s a, let i := Instr.sysTlbInv a
    let va := src i s 0
    let th := me s
    Ready i s → drops i s (fun e => isCanonical va && e.root = th.root && e.page = pageOf va e.level)
      (fun r x l => isCanonical va && r = th.root && pageOf x l = pageOf va l)) ∧
  (∀ s a, let i := Instr.sysTlbAll a
    Ready i s → drops i s (fun e => src i s 0 = 0 || e.root = src i s 0)
      (fun r _ _ => src i s 0 = 0 || r = src i s 0)) ∧
  (∀ s leaf lvl, let root := BitVec.ofNat 64 (s.arg 1)
    let va := BitVec.ofNat 64 (s.arg 2)
    isCanonical va = true → walk s root va = some (leaf, lvl) → ∃ t, exec .translationRefill s = .next t ∧
      tlbFind (t.tlb (s.arg 0)) root va = some (leaf, lvl) ∧ t.mem = s.mem ∧ t.threads = s.threads)

/-- R132 to R136: the `thr` functions. A release is queued as an entry that is not pinned. Log 49 (DESIGN CHOICE): a
register of s5 to s8 that the parent lacks is 0 in the child. -/
def Obligations.ThreadFunctionsAct : Prop :=
  (∀ s d a b k base, let i := Instr.thrSpawn d a b
    let th := me s
    let n := (src i s 1).toNat % 128
    let c := here s * 64 + k
    let rs := [5, 6, 7, 8].filter (fun j => j < n && j < th.lim)
    Ready i s → inServer s.focus = false → th.twin = none → n % 8 = 0 → 8 ≤ n → n ≤ 112 →
    s.fillPlace (here s) n th.root th.rcb false = some (k, base) →
    ((th.pending.map (·.1)).filter (fun r => r ≠ 0 && rs.contains r) = [] → (∀ x ∈ th.poisoned, rs.contains x.1 = false) →
      Completes i s (({ s.fill c ((freshThread (src i s 0) th.root th.rcb th.st.mode base n s.fresh).setRegs
        (rs.map (fun j => (j, th.reg j)))) with fresh := s.fresh + 1 }).give d (tidOfPlace s.pkg.device c) wstOK)) ∧
    ((th.pending.map (·.1)).filter (fun r => r ≠ 0 && rs.contains r) ≠ [] →
      ParksOn i s (.regs ((th.pending.map (·.1)).filter (fun r => r ≠ 0 && rs.contains r))) none) ∧
    (∀ r a, (th.pending.map (·.1)).filter (fun r => r ≠ 0 && rs.contains r) = [] →
      th.poisoned.find? (fun x => rs.contains x.1) = some (r, a) → TrapsWith i s cPOISON 1 a 0)) ∧
  (∀ s d a b, let i := Instr.thrSpawn d a b
    let n := (src i s 1).toNat % 128
    Ready i s → inServer s.focus = false →
    n % 8 ≠ 0 ∨ n < 8 ∨ 112 < n ∨ (me s).twin.isSome = true ∨
      s.fillPlace (here s) n (me s).root (me s).rcb false = none →
    Completes i s (s.give d 0 wstREFUSED)) ∧
  (∀ s, Ready .thrExit s → (me s).task ≠ 0 → TrapsWith .thrExit s cQUEUE 0 0 0) ∧
  (∀ s, Ready .thrExit s → (me s).task = 0 → s.posted s.focus = [] → inServer s.focus = false → (me s).handles = none →
    (me s).pageReq = none → exec .thrExit s = .next (s.freeSlot s.focus)) ∧
  (∀ s, Ready .thrYield s → Completes .thrYield s (s.updTh s.focus (fun th => { th with yielding := true }))) ∧
  (∀ s (d : BitVec 7) a v b, let i := Instr.thrNwr d a
    let m := (d.toNat + 2) % 4
    Ready i s → isSkerry (here s) = false → neighbour (here s) d.toNat = some v →
    effBudget s (me s).root treeDepth (me s).rcb = some b → b.hasCluster (dieOf v) (clusterOf v) = true →
    (AMap.get none (s.core v).mbox m = none → s.writesBefore s.focus i = false →
      Completes i s ((s.updCore v (fun c => { c with mbox := AMap.set c.mbox m (some (src i s 0)) })).say wstOK)) ∧
    ((AMap.get none (s.core v).mbox m).isSome = true ∨ s.writesBefore s.focus i = true →
      ParksOn i s (.mboxRoom v m) none)) ∧
  (∀ s (d : BitVec 7) a v b, let i := Instr.thrNwr d a
    Ready i s → neighbour (here s) d.toNat = some v → effBudget s (me s).root treeDepth (me s).rcb = some b →
    b.hasCluster (dieOf v) (clusterOf v) = false → Completes i s (s.say wstREFUSED)) ∧
  (∀ s (d : BitVec 7) a, let i := Instr.thrNwr d a
    Ready i s → isSkerry (here s) = true ∨ neighbour (here s) d.toNat = none → Completes i s (s.say wstREFUSED)) ∧
  (∀ s a b, let i := Instr.thrStw a b
    let e := (src i s 0).toNat % 64
    let w := src i s 1
    let c := s.core (here s)
    let put (x : SlotEntry) : State := s.updCore (here s) (fun c =>
      { c with stw := insertTimed c.stw (s.claimOf s.focus i) (e, x) })
    Ready i s →
    (slotsOf (here s) ≤ e → Completes i s (s.say wstREFUSED)) ∧
    (e < slotsOf (here s) → w.getLsbD 15 = false → Completes i s ((put {}).say wstOK)) ∧
    (e < slotsOf (here s) → w.getLsbD 15 = true → w.getLsbD 14 = false →
      Completes i s ((put { pin := true, valid := false, slot := w.toNat % 64 }).say wstOK)) ∧
    (e < slotsOf (here s) → w.getLsbD 15 = true → w.getLsbD 14 = true → c.stw = [] →
      (∀ f, f < slotsOf (here s) → f ≠ e → (c.entry f).pin = true → (c.entry f).valid = true →
        (c.entry f).slot = w.toNat % 64 → spacingOf (here s) ≤ cyclicDist (slotsOf (here s)) e f) →
      Completes i s ((put { pin := true, valid := true, slot := w.toNat % 64 }).say wstOK)) ∧
    (∀ f, e < slotsOf (here s) → w.getLsbD 15 = true → w.getLsbD 14 = true → f < slotsOf (here s) → f ≠ e →
      (c.entry f).pin = true → (c.entry f).valid = true → (c.entry f).slot = w.toNat % 64 →
      cyclicDist (slotsOf (here s)) e f < spacingOf (here s) → Completes i s (s.say wstREFUSED)))

/-- R124 and R134: a rebalance rebuilds the table, empties the written entries and ends every yield; R34 and R127: a
core-shared write commits at its cycle, unless one that was due later has committed. R122, R124: the rebuilt table
keeps its pinned entries, and any two entries of one slot, one of them not pinned, lie at least the spacing apart. -/
def Obligations.UnitsRebuildAndCommit : Prop :=
  ((∀ s, let u := s.arg 0
    ∃ t, exec .rebalance s = .next t ∧ (t.core u).slotTab = s.rebuild u ∧ (t.core u).stw = [] ∧
      (t.core u).rebuilt = (s.core u).cycle / slotsOf u + 1 ∧ t.mem = s.mem ∧
      (∀ k, k < slotsOf u → (s.th (u * 64 + k)).status ≠ .free → t.th (u * 64 + k) =
        { s.th (u * 64 + k) with yielding := false })) ∧
  (∀ s n r v rest, let u := s.arg 0
    (s.core u).commits = (n, .shared r v) :: rest → n ≤ (s.core u).cycle →
    (AMap.get 0 (s.core u).cAt r ≤ n → exec .coreSharedCommit s = .next (s.updCore u (fun c =>
      { c with commits := rest, c := AMap.set c.c r v, cAt := AMap.set c.cAt r n }))) ∧
    (n < AMap.get 0 (s.core u).cAt r → exec .coreSharedCommit s = .next (s.updCore u (fun c =>
      { c with commits := rest }))))) ∧
  (∀ (s : State) (u e f : Nat), (s.core u).stw = [] →
    let old (k : Nat) : SlotEntry := (s.core u).entry k
    let new (k : Nat) : SlotEntry := AMap.get {} (s.rebuild u) k
    (AMap.Rising 0 (s.core u).slotTab → (old e).pin = true → new e = old e) ∧
    (e ≠ f → (new e).valid = true → (new f).valid = true → (new e).slot = (new f).slot → (new e).pin = false →
      spacingOf u ≤ cyclicDist (slotsOf u) e f))

/-- R194 and R195: a delegated call or post, the server slot that takes it, and its end. That a call whose region has
no fill budget is looked at again 8000 units (1 us) later is the model's choice, and that the routine has the caller's
MODE and ROOTPT its reading (log 17). -/
def Obligations.DelegatedCallsRunAtTheHome : Prop :=
  let call (i : Instr) (s : State) (c : DlgCall) : Prop :=
    c.ticket = s.fresh ∧ c.arg = src i s 0 ∧ c.entry = src i s 1 ∧ c.s5 = (me s).reg 5 ∧ c.s6 = (me s).reg 6 ∧
    c.s7 = (me s).reg 7 ∧ c.s8 = (me s).reg 8 ∧ c.rcb = (me s).rcb ∧ c.root = (me s).root ∧ c.mode = (me s).st.mode
  (∀ s d a b l u, let i := Instr.dlgCall d a b
    Ready i s → inServer s.focus = false → dlgAddr s s.focus (src i s 0) = .ok l → s.posted s.focus = [] →
    s.homeUnit l = some u → (s.core u).dlgq.length < 64 →
    ∃ t c, exec i s = .next t ∧ (t.th s.focus).status = .park ∧
      (∃ p, (t.th s.focus).park = some p ∧ p.await = .dlgReply s.fresh ∧ p.instr = i) ∧
      (t.core u).dlgq = (s.core u).dlgq ++ [c] ∧ call i s c ∧ c.caller = some s.focus ∧ c.entryOf = none ∧ c.d = d ∧
      (Instr.delegationServe, [u]) ∈ t.agenda ∧ t.mem = s.mem) ∧
  (∀ s a b l u e, let i := Instr.dlgPost a b
    Ready i s → inServer s.focus = false → dlgAddr s s.focus (src i s 0) = .ok l → s.posted s.focus = [] →
    s.freeEntry (here s) = some e → s.homeUnit l = some u → (s.core u).dlgq.length < 64 →
    ∃ s' c, Completes i s s' ∧ (s'.core u).dlgq = (s.core u).dlgq ++ [c] ∧ call i s c ∧ c.caller = none ∧
      c.entryOf = some (here s, e) ∧ (s'.jentry (here s) e).dlg = true ∧ (s'.jentry (here s) e).va = src i s 0 ∧
      (Instr.delegationServe, [u]) ∈ s'.agenda ∧ s'.mem = s.mem ∧ s'.threads = s.threads) ∧
  (∀ s d a b, Ready (.dlgCall d a b) s → inServer s.focus = true → TrapsWith (.dlgCall d a b) s cQUEUE 0 0 0) ∧
  (∀ s c rest, let u := s.arg 0
    let t := u * 64 + 31
    (s.core u).dlgq = c :: rest → (s.th t).status = .free → (s.core u).serving = none →
    (∀ a, s.rcbShut c.root c.rcb (s.numberAt 1) = some a →
      exec .delegationServe s = .next (s.tryAgain .delegationServe [u] a)) ∧
    (s.rcbShut c.root c.rcb (s.numberAt 1) = none →
    ((s.fillBudget c.root c.rcb).isNone = true → exec .delegationServe s = .next (s.after 8000 .delegationServe [u])) ∧
    ((s.fillBudget c.root c.rcb).isSome = true → ∃ s' : State, exec .delegationServe s = .next s' ∧ (s'.core u).serving = some c ∧ (s'.core u).dlgq = rest ∧
      (s'.th t).status = .run ∧ (s'.th t).pc = c.entry ∧ (s'.th t).reg 3 = c.arg ∧ (s'.th t).reg 5 = c.s5 ∧
      (s'.th t).reg 6 = c.s6 ∧ (s'.th t).reg 7 = c.s7 ∧ (s'.th t).reg 8 = c.s8 ∧ (s'.th t).rcb = c.rcb ∧
      (s'.th t).root = c.root ∧ (s'.th t).lim = 16 ∧ (s'.th t).st = { mode := c.mode } ∧
      (∀ n, n ∉ [3, 5, 6, 7, 8] → (s'.th t).reg n = 0) ∧
      (c.entry = 0 → (Instr.delegationRoutineEnd, [u]) ∈ s'.agenda)))) ∧
  (∀ s c t p, let u := s.arg 0
    let done := (s.updCore u (fun x => { x with serving := none })).freeSlot (u * 64 + 31)
    (s.core u).serving = some c → c.entryOf = none → c.caller = some t → t ≠ u * 64 + 31 → (s.th t).park = some p →
    p.await = .dlgReply c.ticket →
    exec .delegationRoutineEnd s = .next ((done.writeDest t c.d ((s.th (u * 64 + 31)).reg 5)).finish t p.instr)) ∧
  (∀ s c v e, let u := s.arg 0
    (s.core u).serving = some c → c.entryOf = some (v, e) →
    exec .delegationRoutineEnd s =
      .next (((s.updCore u (fun x => { x with serving := none })).freeSlot (u * 64 + 31)).freeJournal v e))

/-- R196 to R199, R276: `mig`, the return trap, and a context message at its destination. R198: what a context message
carries. R195 and R197: a `.g` form aimed at a word of another unit takes the thread there, its PC at the instruction,
once it has drained; it traps MIGREF where the destination is refused. That it traps QUEUE in a server slot at every
address is the model's choice (log 50). -/
def Obligations.MigrationsMoveTheContext : Prop :=
  ((∀ s a m l, let i := Instr.mig a m
    Ready i s → inServer s.focus = false → migAddr s s.focus (src i s 0) = .ok l →
    (s.homeUnit l = none → TrapsWith i s cMIGREF 0 0 0) ∧
    (∀ u, s.homeUnit l = some u → (me s).twin = none → s.posted s.focus = [] →
      (u = here s → Completes i s s) ∧
      (u ≠ here s → s.destRefused s.focus l = true → TrapsWith i s cMIGREF 0 0 0) ∧
      (u ≠ here s → s.destRefused s.focus l = false → s.heldBack s.focus = none →
        exec i s = .next ((s.finish s.focus i).sendContext s.focus u false m)))) ∧
  (∀ s i, let t := s.arg 0
    decodeRaw (BitVec.ofNat 32 (s.arg 1)) = some i → s.heldBack t = none →
    exec .returnTrap s = .next (s.sendContext t (s.landing t) true 0)) ∧
  (∀ s m n b, let k := s.arg 0
    s.message k = some m → m.buffered = false → s.rcbShut m.thread.root m.thread.rcb (s.numberAt 1) = none →
    s.fillPlace m.dest m.thread.lim m.thread.root m.thread.rcb false = some (n, b) →
    exec .contextMessageArrival s = .next (({ s.vacate m.source with msgs := AMap.del s.msgs k }).fill (m.dest * 64 + n)
      (landed m.thread b))) ∧
  (∀ s m, let k := s.arg 0
    s.message k = some m → m.buffered = false → s.rcbShut m.thread.root m.thread.rcb (s.numberAt 1) = none →
    s.fillPlace m.dest m.thread.lim m.thread.root m.thread.rcb false = none →
    ((s.core m.dest).inbound.length < inboundRoom m.dest → ∃ t, exec .contextMessageArrival s = .next t ∧
      (t.core m.dest).inbound = (s.core m.dest).inbound ++ [k] ∧ (t.th m.source).status = .free) ∧
    (inboundRoom m.dest ≤ (s.core m.dest).inbound.length →
      exec .contextMessageArrival s = .next (s.after 8000 .migrationResend [m.source]))) ∧
  (∀ s m a, let k := s.arg 0
    s.message k = some m → m.buffered = false → s.rcbShut m.thread.root m.thread.rcb (s.numberAt 1) = some a →
      exec .contextMessageArrival s = .next (s.tryAgain .contextMessageArrival [k] a)) ∧
  (∀ s k, (s.th (s.arg 0)).msg = some k → exec .migrationResend s = .next (s.push .contextMessageArrival [k])) ∧
  (∀ s k m n b, let u := s.arg 0
    s.fitting u = some (k, m, n, b) → s.inboundShut u = none → exec .bufferedContextFill s =
      .next ((({ s.updCore u (fun c => { c with inbound := c.inbound.filter (· ≠ k) }) with msgs := AMap.del s.msgs k }).fill
        (u * 64 + n) (landed m.thread b)).push .bufferedContextFill [u]))) ∧
  (∀ (s : State) (t dest : Nat) (whole : Bool) (live : BitVec 15), let s' := s.sendContext t dest whole live
    let th := s.th t
    ∃ m, AMap.get { thread := {}, source := 0, dest := 0 } s'.msgs s.fresh = m ∧ m.source = t ∧ m.dest = dest ∧
      m.thread.pc = th.pc ∧ m.thread.st = th.st ∧ m.thread.rcb = th.rcb ∧ m.thread.root = th.root ∧
      m.thread.lim = th.lim ∧ m.thread.uid = th.uid ∧ m.thread.task = th.task ∧ m.thread.seq = th.seq ∧
      (whole = true → ∀ n, m.thread.reg n = th.reg n) ∧
      (whole = false → ∀ n, m.thread.reg n =
        if 1 ≤ n ∧ n ≤ 15 ∧ n < th.lim ∧ live.getLsbD (n - 1) = true then th.reg n else 0) ∧
      (s'.th t).status = .migrating ∧ (s'.th t).msg = some s.fresh ∧ (Instr.contextMessageArrival, [s.fresh]) ∈ s'.agenda) ∧
  (let moves (i : Instr) (s : State) (l : Nat) : Prop :=
    s.homeUnit l ≠ some (here s) →
    (s.destRefused s.focus l = true → TrapsWith i s cMIGREF 0 0 0) ∧
    (∀ a, s.destRefused s.focus l = false → s.heldBack s.focus = some a → ParksOn i s a none) ∧
    (∀ u, s.destRefused s.focus l = false → s.heldBack s.focus = none → s.homeUnit l = some u →
      exec i s = .next (s.sendContext s.focus u false (me s).live))
  (∀ s d a (w : BitVec 2) (x : BitVec 1) (imm : BitVec 8), let i := Instr.ld d a w x 1 imm
    let va := src i s 0 + imm.signExtend 64 * BitVec.ofNat 64 (2 ^ w.toNat)
    Ready i s → (inServer s.focus = true → TrapsWith i s cQUEUE 0 0 0) ∧
    (∀ l, inServer s.focus = false → addrOf s s.focus va (2 ^ w.toNat) .r true = .ok l → isSlotWin l = false →
      moves i s l)) ∧
  (∀ s b a (w : BitVec 2) (imm : BitVec 8), let i := Instr.st b a w 1 imm
    let va := src i s 1 + imm.signExtend 64 * BitVec.ofNat 64 (2 ^ w.toNat)
    Ready i s → (inServer s.focus = true → TrapsWith i s cQUEUE 0 0 0) ∧
    (∀ l, inServer s.focus = false → addrOf s s.focus va (2 ^ w.toNat) .w true = .ok l → isSlotWin l = false →
      moves i s l)) ∧
  (∀ s (v : BitVec 5) a (n : BitVec 2) (imm : BitVec 10), let i := Instr.vmemLd v a 1 n imm
    Ready i s → ∀ ls, blockLocs s s.focus (src i s 0 + imm.signExtend 64 * 32) n .r = .ok ls → moves i s (ls.headD 0)) ∧
  (∀ s (v : BitVec 5) a (n : BitVec 2) (imm : BitVec 10), let i := Instr.vmemSt v a 1 n imm
    Ready i s → ∀ ls, blockLocs s s.focus (src i s 0 + imm.signExtend 64 * 32) n .w = .ok ls → moves i s (ls.headD 0)))

/-- R145, R153 to R156, R347: the `tq` functions at a queue's home. The descriptor or control block is read in the
same step, or has been read word by word before. Log 32 (DEDUCED): a take or a steal of a quarantined queue answers
REFUSED. Log 52 (DESIGN CHOICE): poisoned words of a descriptor or control block are read as their stored bits. R143,
R155: the queue that a control block configures. -/
def Obligations.QueueFunctionsAct : Prop :=
  (let given (i : Instr) (s : State) (l n : Nat) (ws : List Word) : Prop :=
    let args := s.sentArgs s.focus i
    if (srcRegs i).length < args.length then ws = args.drop (srcRegs i).length
    else s.heldUp s.focus (spanOf l n) = none ∧ s.split = false ∧ ws = s.wordsAt l n
  (∀ s d a b l ws, let i := Instr.tqPush d a b
    let h := src i s 1
    let q := queueOfHandle h
    let x := s.queue q
    Ready i s → addrOf s s.focus (src i s 0) 64 .r false = .ok l → given i s l 8 ws →
    pushCheck s s.focus h (TaskRec.ofWords 0 0 ws) = none →
    (∀ y, s.anchorShut s.focus (TaskRec.ofWords 0 0 ws).abase = some y → ParksOn i s y none) ∧
    (s.anchorShut s.focus (TaskRec.ofWords 0 0 ws).abase = none → s.queueShut (s.arrivalOf s.focus (queuePort q)) q = none →
    (x.configured = true → x.quarantined = false → x.occupancy < x.capacity → ∃ s' : State,
      Completes i s (s'.give d (BitVec.ofNat 64 x.next) wstOK) ∧ (s'.queue q).next = x.next + 1 ∧
      (s'.queue q).queued = x.queued ++ [TaskRec.ofWords x.next s.ns ws] ∧ (s'.queue q).running = x.running ∧
      s'.mem = s.mem ∧ s'.threads = s.threads) ∧
    (x.configured = false ∨ x.quarantined = true ∨ x.capacity ≤ x.occupancy →
      Completes i s (s.give d 0 wstREFUSED)))) ∧
  (∀ s d a b l, let i := Instr.tqTake d a b
    let q := queueOfHandle (src i s 0)
    let x := s.queue q
    Ready i s → addrOf s s.focus (src i s 1) 64 .w false = .ok l →
    ((me s).seq ≠ 0 ∨ s.badHandle (src i s 0) = true → TrapsWith i s cQUEUE 0 0 0) ∧
    (s.badHandle (src i s 0) = false → (me s).seq = 0 → s.queueShut (s.arrivalOf s.focus (queuePort q)) q = none →
    (x.quarantined = true → Completes i s (s.give d 0 wstREFUSED)) ∧
    (x.quarantined = false → x.queued = [] → Completes i s (s.give d 0 wstEMPTY)) ∧
    (∀ r rest, x.quarantined = false → x.queued = r :: rest → x.gates r = true → Completes i s (s.give d 0 wstGATED)) ∧
    (∀ r rest, x.quarantined = false → x.queued = r :: rest → x.gates r = false → s.heldUp s.focus (spanOf l 8) = none →
      s.split = false → (∀ p ∈ spanOf l 8, Sound s p ∧ s.outOfReach p = false) → ∃ s' : State,
      Completes i s ((s'.updTh s.focus (fun th => { th with task := src i s 0, seq := BitVec.ofNat 64 r.seq })).give d
        (BitVec.ofNat 64 r.seq) wstOK) ∧
      (s'.queue q).queued = headSince s.ns rest ∧ (s'.queue q).running = x.running ++ [r] ∧
      (∀ k, k < 8 → s'.read64 (l + 8 * k) = r.desc.getD k 0) ∧
      (∀ p, p < l ∨ l + 64 ≤ p → readByte s'.mem p = readByte s.mem p) ∧ s'.threads = s.threads))) ∧
  (∀ s d a b l r, let i := Instr.tqSteal d a b
    let q := queueOfHandle (src i s 0)
    let x := s.queue q
    Ready i s → addrOf s s.focus (src i s 1) 64 .w false = .ok l →
    ((me s).seq ≠ 0 ∨ s.badHandle (src i s 0) = true → TrapsWith i s cQUEUE 0 0 0) ∧
    (s.badHandle (src i s 0) = false → (me s).seq = 0 → s.queueShut (s.arrivalOf s.focus (queuePort q)) q = none →
    (x.quarantined = true → Completes i s (s.give d 0 wstREFUSED)) ∧
    (x.quarantined = false → x.queued = [] → Completes i s (s.give d 0 wstEMPTY)) ∧
    (x.quarantined = false → x.queued.getLast? = some r →
      (x.queued.length ≤ x.th → Completes i s (s.give d 0 wstSHALLOW)) ∧
      (x.th < x.queued.length → r.far = 0 → Completes i s (s.give d 0 wstREFUSED)) ∧
      (x.th < x.queued.length → r.far ≠ 0 → s.heldUp s.focus (spanOf l 8) = none →
        s.split = false → (∀ p ∈ spanOf l 8, Sound s p ∧ s.outOfReach p = false) → ∃ s' : State,
        Completes i s ((s'.updTh s.focus (fun th => { th with task := src i s 0, seq := BitVec.ofNat 64 r.seq })).give d
          (BitVec.ofNat 64 r.seq) (if x.gates r then wstGATED else wstOK)) ∧
        (s'.queue q).queued = x.queued.dropLast ∧ (s'.queue q).running = x.running ++ [{ r with gated := x.gates r }] ∧
        (∀ k, k < 8 → s'.read64 (l + 8 * k) = r.desc.getD k 0) ∧ s'.threads = s.threads)))) ∧
  (∀ s, let i := Instr.tqDone
    let q := queueOfHandle (me s).task
    Ready i s →
    ((me s).seq = 0 → TrapsWith i s cQUEUE 0 0 0) ∧
    ((me s).seq ≠ 0 → s.sentArgs s.focus i ≠ [] → s.queueShut (s.arrivalOf s.focus (queuePort q)) q = none →
      exec i s = .next ((s.retireTask q (me s).seq.toNat).endThread s.focus)) ∧
    ((me s).seq ≠ 0 → s.sentArgs s.focus i = [] → (∀ r, s.runningTask q (me s).seq.toNat = some r → r.join = 0) →
      s.reachable (queueDev q) = true → (me s).pending = [] → s.posted s.focus = [] →
      s.queueShut (s.arrivalOf s.focus (queuePort q)) q = none →
      exec i s = .next ((s.retireTask q (me s).seq.toNat).endThread s.focus)) ∧
    (∀ r l, let t := s.doneJoin s.focus r.join l
      (me s).seq ≠ 0 → s.sentArgs s.focus i = [] → s.runningTask q (me s).seq.toNat = some r → r.join ≠ 0 →
      addrOf s s.focus r.join 8 .rw false = .ok l → isHost l = false → s.reachable (queueDev q) = true →
      (me s).pending = [] → s.posted s.focus = [] → s.heldUp s.focus [l] = none →
      (t.queueShut (t.arrivalOf s.focus (queuePort q)) q = none →
        exec i s = .next ((t.retireTask q (me s).seq.toNat).endThread s.focus)) ∧
      (∀ a, t.queueShut (t.arrivalOf s.focus (queuePort q)) q = some a →
        exec i s = .next ((t.parkOn s.focus i a).sendArgs s.focus i [1])))) ∧
  (∀ s d a, let i := Instr.tqDepth d a
    let q := queueOfHandle (src i s 0)
    Ready i s →
    (s.badHandle (src i s 0) = true → TrapsWith i s cQUEUE 0 0 0) ∧
    (s.badHandle (src i s 0) = false → s.queueShut (s.arrivalOf s.focus (queuePort q)) q = none → (s.queue q).configured = true →
      Completes i s (s.give d (BitVec.ofNat 64 (s.queue q).queued.length) wstOK)) ∧
    (s.badHandle (src i s 0) = false → s.queueShut (s.arrivalOf s.focus (queuePort q)) q = none → (s.queue q).configured = false →
      Completes i s (s.give d 0 wstREFUSED))) ∧
  (∀ s a b l ws x, let i := Instr.tqCfg a b
    let q := queueOfHandle (src i s 0)
    Ready i s → addrOf s s.focus (src i s 1) 32 .r false = .ok l →
    (s.badHandle (src i s 0) = true → TrapsWith i s cQUEUE 0 0 0) ∧
    (s.badHandle (src i s 0) = false → given i s l 4 ws → s.queueShut (s.arrivalOf s.focus (queuePort q)) q = none →
    (∀ y, s.rcbShut (me s).root (ws.getD 0 0) (s.arrivalOf s.focus) = some y → ParksOn i s y none) ∧
    (s.rcbShut (me s).root (ws.getD 0 0) (s.arrivalOf s.focus) = none →
    (configured s s.focus (src i s 0) ws = some x → Completes i s (((s.setQueue q x).stir q).say wstOK)) ∧
    (configured s s.focus (src i s 0) ws = none → Completes i s (s.say wstREFUSED))))) ∧
  (∀ s a b bud, let i := Instr.tqSub a b
    let q := queueOfHandle (src i s 0)
    let x := s.queue q
    let w := src i s 1
    let die := w.toNat / 2 ^ 7 % 16
    let cl := w.toNat % 2 ^ 7
    Ready i s → s.badHandle (src i s 0) = false → s.queueShut (s.arrivalOf s.focus (queuePort q)) q = none → x.configured = true → w.toNat < 2 ^ 12 →
    s.rcbShut x.root x.rcb (s.arrivalOf s.focus) = none → effBudget s x.root treeDepth x.rcb = some bud → bud.hasCluster die cl = true →
    (w.getLsbD 11 = true → x.subs.length < 8 → Completes i s
      ((s.setQueue q { x with subs := setInsert x.subs (die * 128 + cl) }).say wstOK)) ∧
    (w.getLsbD 11 = false → Completes i s ((s.setQueue q { x with subs := setErase x.subs (die * 128 + cl) }).say wstOK)))) ∧
  (∀ s t h ws x, configured s t h ws = some x →
    let old := s.queue (queueOfHandle h)
    let w (k : Nat) : Word := ws.getD k 0
    x.pri = (w 2).toNat / 2 ^ 20 % 8 ∧ x.th = (w 2).toNat / 2 ^ 8 % 2 ^ 10 ∧ x.weight = (w 3).toNat / 2 ^ 32 ∧
    x.age = (w 3).toNat % 2 ^ 32 ∧ x.weight ≠ 0 ∧ h ≠ 0 ∧ x.queued = old.queued ∧ x.running = old.running ∧
    (old.occupancy ≠ 0 → x.rcb = old.rcb ∧ x.ring = old.ring ∧ x.rsize = old.rsize ∧ x.free = old.free ∧
      x.next = old.next ∧ w 0 = old.rcb ∧ w 1 = old.ring) ∧
    (old.occupancy = 0 → x.configured = true ∧ x.rcb = w 0 ∧ x.ring = w 1 ∧ x.rsize = (w 2).toNat % 16 ∧ x.rsize ≤ 10 ∧
      x.free = (w 2).getLsbD 18 ∧ x.next = 1 ∧ x.root = (s.th t).root ∧ (w 1).toNat % 64 = 0))

/-- R145, R147 to R150: the events of queues and their homes. R145 and R146: a task is gated exactly by an earlier
unfinished one whose anchor it overlaps; a take takes no gated task and lifts no gate. R151, R157: the `jc` functions,
and the notification when COUNT reaches 0 with N set. Log 52 (DESIGN CHOICE): a poisoned join word counts as its
stored bits stand, an RCB doubleword that the thread cannot read sends no notification, and the RCB is read with the
thread's rights and root. Log 13 (DEDUCED): a misaligned NADDR sends none. R151, R228, R347, R368: the notification of
a region by a home. It is posted at once, or deferred to the end of the window of the one before it, in Beacon time;
the deferred ones become one; without an address nothing is posted. While a home holds up the reads of its RCB, or its
store, it waits, each for itself. -/
def Obligations.QueueEventsAct : Prop :=
  ((∀ s, let q := s.arg 0
    let n := s.arg 1
    let rest := (s.queue q).running.filter (fun r => r.seq ≠ n)
    let x := { s.queue q with running := rest }
    let k := s.ev.getD 3 s.fresh
    (s.arg 2 ≠ 1 → s.queueShut k q = none →
      ∃ t, exec .retire s = .next t ∧ t.queue q = x ∧ t.mem = s.mem ∧ t.threads = s.threads ∧
        ∀ r ∈ rest, r.gated = true → x.gates r = false → (Instr.gateToken, [q, r.seq]) ∈ t.agenda) ∧
    (∀ r, s.arg 2 = 1 → s.queueShut k q = none → s.runningTask q n = some r →
      ∃ t, exec .retire s = .next t ∧ t.mem = s.mem ∧ t.threads = s.threads ∧ (t.queue q).running = rest ∧
        ∃ y ∈ (t.queue q).queued, y = { r with gated := false, since := s.ns }) ∧
    ((s.queueShut k q).isSome = true →
      ∃ t, exec .retire s = .next t ∧ t.queues = s.queues ∧ t.mem = s.mem ∧ t.threads = s.threads)) ∧
  (∀ s, let q := s.arg 0
    exec .gateToken s = .next (s.setQueue q { s.queue q with running := (s.queue q).running.map (fun r =>
      if r.seq = s.arg 1 then { r with gated := false } else r) })) ∧
  (∀ s, let h := s.arg 0
    let u := mkSkerry (h / 2 ^ 12 % 16) (h % 2 ^ 12)
    let shut := s.shutFor (s.numberAt 2 (portOf (h / 2 ^ 16) (h / 2 ^ 12 % 16) (h % 2 ^ 12)))
      (portOf (h / 2 ^ 16) (h / 2 ^ 12 % 16) (h % 2 ^ 12)) none
    let r := match s.dispatchShut h with | some a => s.tryAgain .nearDispatch [h, s.arg 1] a | none => s
    (∀ a, shut = some a → exec .nearDispatch s = .next (s.tryAgain .nearDispatch [h, s.arg 1] a)) ∧
    (shut = none → r.candidates h = [] → exec .nearDispatch s = .next r) ∧
    (∀ q d lv k b, shut = none → r.candidates h = [(q, d, lv, k, b)] → s.arg 1 = 1 → lv ≠ 0 → exec .nearDispatch s = .next r) ∧
    (∀ q r' lv k b, shut = none → r.candidates h = [(q, r', lv, k, b)] → (s.arg 1 = 1 → lv = 0) → 0 < r'.nregs →
      ∃ t, exec .nearDispatch s = .next t ∧ (t.queue q).running = (s.queue q).running ++ [r'] ∧
        (t.queue q).queued = headSince s.ns ((s.queue q).queued.drop 1) ∧
        (s.arg 1 = 1 → t.pkg.fillers = s.pkg.fillers ++ [(q, r'.seq)]) ∧ (t.th (u * 64 + k)).status = .run ∧
        (t.th (u * 64 + k)).pc = r'.near ∧ (t.th (u * 64 + k)).reg 3 = r'.abase ∧
        (t.th (u * 64 + k)).reg 4 = BitVec.ofNat 64 r'.alen ∧ (t.th (u * 64 + k)).lim = 8 * r'.nregs ∧
        (t.th (u * 64 + k)).task = handleOfQueue q ∧ (t.th (u * 64 + k)).seq = BitVec.ofNat 64 r'.seq ∧
        (t.th (u * 64 + k)).rcb = (s.queue q).rcb)) ∧
  (∀ s, let q := s.arg 0
    let c := s.arg 1
    let x := s.queue q
    let shut := s.rcbShut x.root x.rcb (s.numberAt 2)
    (∀ a, shut = some a → exec .depthAlert s = .next (s.tryAgain .depthAlert [q, c] a)) ∧
    (shut = none → s.coresFor c 112 x.root x.rcb = [] →
      exec .depthAlert s = .next (s.setQueue q { x with alerts := x.alerts.filter (· ≠ c) })) ∧
    (shut = none → s.coresFor c 112 x.root x.rcb ≠ [] → s.regionPair x = false →
      ∃ t b, ∃ s' : State, (t, b) ∈ s.coresFor c 112 x.root x.rcb ∧ exec .depthAlert s = .next s' ∧
        (s'.th t).reserved = true ∧ (s'.th t).base = b ∧ (s'.th t).lim = 112 ∧
        AMap.get { queue := 0, cluster := 0, place := 0, second := none } s'.steals s.fresh =
          { queue := q, cluster := c, place := t, second := none, nmx := (s.cluster c).failed } ∧
        (Instr.stealReply, [s.fresh]) ∈ s'.agenda)) ∧
  (∀ s st, s.steals.find? (fun p => p.1 = s.arg 0) = some (s.arg 0, st) →
    let x := s.queue st.queue
    let shut := (s.queueShut (st.numberAt s (queuePort st.queue)) st.queue).or (s.rcbShut x.root x.rcb (st.numberAt s))
    ∀ a, shut = some a → ∃ s' : State, exec .stealReply s = .next s' ∧ s'.threads = s.threads ∧
      s'.queues = s.queues ∧ (∃ st', AMap.get st s'.steals (s.arg 0) = st' ∧ st'.queue = st.queue ∧ st'.place = st.place ∧
        st'.arrived = a.closedAt.map (fun l => (st.numberAt s l, l)))) ∧
  (∀ s st r, s.steals.find? (fun p => p.1 = s.arg 0) = some (s.arg 0, st) →
    s.queueShut (st.numberAt s (queuePort st.queue)) st.queue = none →
    s.rcbShut (s.queue st.queue).root (s.queue st.queue).rcb (st.numberAt s) = none →
    let x := s.queue st.queue
    (x.queued = [] → x.quarantined = false → st.second = none → (s.th st.place).status = .free →
      ∃ s' : State, exec .stealReply s = .next s' ∧ (s'.th st.place).reserved = false ∧ (s'.th st.place).status = .free ∧
        (s'.queue st.queue).running = x.running) ∧
    (x.queued.getLast? = some r → x.quarantined = false → x.th < x.queued.length → r.far ≠ 0 → r.gated = false →
      x.gates r = false → st.nmx = false → st.second = none → 0 < r.fregs → bodyReads s x.root x.rcb = true →
      s.mayFill x.root x.rcb st.place = true → s.isContained x.root x.rcb = false → ∃ s' : State,
        exec .stealReply s = .next s' ∧ (s'.th st.place).status = .run ∧ (s'.th st.place).pc = r.far ∧
        (s'.th st.place).reg 3 = r.abase ∧ (s'.th st.place).base = (s.th st.place).base ∧
        (s'.th st.place).lim = 8 * r.fregs ∧ (s'.queue st.queue).queued = x.queued.dropLast ∧
        (s'.queue st.queue).running = x.running ++ [r])) ∧
  (∀ (s : State) q c, let t := s.replyAlert q c
    let x := s.queue q
    (∀ d, d ≠ c → (d ∈ (t.queue q).alerts ↔ d ∈ x.alerts)) ∧
    (c ∈ (t.queue q).alerts ↔ x.th < x.queued.length ∧ c ∈ x.subs ∧ queueDev q = s.pkg.device))) ∧
  ((∀ (q : Queue) (r : TaskRec), q.gates r = true ↔ q.free = false ∧ ∃ x, (x ∈ q.queued ∨ x ∈ q.running) ∧ x.seq < r.seq ∧
    ∃ a, x.abase.toNat ≤ a ∧ a < x.abase.toNat + x.alen ∧ r.abase.toNat ≤ a ∧ a < r.abase.toNat + r.alen) ∧
  (∀ (s s' : State) (q : Nat) r, s.takeTask q = (wstOK, some r, s') →
    (s.queue q).gates r = false ∧ ∀ y, (s'.queue q).gates y = (s.queue q).gates y)) ∧
  (let at' (i : Instr) (s : State) (need : Right) (l : Nat) : Prop :=
    Ready i s ∧ joinAddr s s.focus (src i s 0) need = .ok l ∧ s.heldUp s.focus [l] = none
  (∀ s a b l, at' (.jcInit a b) s .w l → Completes (.jcInit a b) s ((s.putWord l (src (.jcInit a b) s 1)).say wstOK)) ∧
  (∀ s d a b l, let i := Instr.jcAdd d a b
    let w := s.read64 l
    at' i s .rw l →
    (w.toNat % 2 ^ 63 + (src i s 1).toNat < 2 ^ 63 →
      Completes i s ((s.write64 l (w + src i s 1)).give d w wstOK)) ∧
    (2 ^ 63 ≤ w.toNat % 2 ^ 63 + (src i s 1).toNat → Completes i s (s.give d w wstREFUSED))) ∧
  (∀ s d a l, let i := Instr.jcDec d a
    let w := s.read64 l
    at' i s .rw l → s.posted s.focus = [] →
    (w.toNat % 2 ^ 63 = 0 → Completes i s (s.give d w wstREFUSED)) ∧
    (1 < w.toNat % 2 ^ 63 ∨ w = 1 → Completes i s ((s.write64 l (w - 1)).give d w wstOK)) ∧
    (w.toNat = 2 ^ 63 + 1 → ∀ p, threadResolve s s.focus (src i s 0 + 8) .r = .ok p → s.outOfReach p = false →
      s.isPoison p 8 = false → let t := { s.write64 l (w - 1) with ev := [] }
      (s.ownHeld s.fresh p = none → Completes i s ((t.notify (homeOf l) (me s).root (t.read64 p)).give d w wstOK)) ∧
      (∀ a, s.ownHeld s.fresh p = some a →
        Completes i s ((t.tryAgain .nwinExpiry [homeOf l, (me s).root.toNat, 2 ^ 66 + p] a).give d w wstOK))) ∧
    (w.toNat = 2 ^ 63 + 1 → ∀ c, threadResolve s s.focus (src i s 0 + 8) .r = .error c →
      Completes i s ((s.write64 l (w - 1)).give d w wstOK))) ∧
  (∀ s a b l, let i := Instr.jcInit a b
    Ready i s → addrOf s s.focus (src i s 0) 8 .w false = .ok l → isHost l = true ∨ s.outOfReach l = true →
    TrapsWith i s cQUEUE 0 0 0)) ∧
  ((∀ (s : State) home root rcb a, s.rcbShut root rcb (s.numberAt 3) = some a →
    s.notify home root rcb = s.tryAgain .nwinExpiry [home, root.toNat, 2 ^ 64 + rcb.toNat] a) ∧
  (∀ (s : State) home root rcb, s.rcbShut root rcb (s.numberAt 3) = none → s.notifyAt root rcb = none →
    s.notify home root rcb = s) ∧
  (∀ (s : State) home root rcb l data win, s.rcbShut root rcb (s.numberAt 3) = none →
    s.notifyAt root rcb = some (l, data) → effNwin s root rcb = some win →
    let left := s.windowLeft home root rcb win
    (left = 0 → s.notify home root rcb = s.postNotify home (regionKey root rcb) l data) ∧
    (0 < left → s.notify home root rcb = s.deferNotify home (windowWait left) root rcb)) ∧
  (∀ (s : State) home root rcb win, 0 < s.windowLeft home root rcb win ↔
    AMap.has (s.home home).notified (regionKey root rcb) = true ∧
    s.homeTime home < AMap.get 0 (s.home home).notified (regionKey root rcb) + 1000 * win) ∧
  (∀ (s : State) home key l data, let t := s.postNotify home key l data
    t.threads = s.threads ∧ t.queues = s.queues ∧
    (∀ k, k ≠ home → t.home k = s.home k) ∧ AMap.get 0 (t.home home).notified key = s.homeTime home ∧
    (∀ k, k ≠ key → AMap.get 0 (t.home home).notified k = AMap.get 0 (s.home home).notified k) ∧
    (s.ownHeld (s.fresh + 1) l = none → s.storesBefore s.fresh l = false → t.mem = writeNat s.mem l 8 data.toNat ∧
      t.timers = s.timers) ∧
    ((s.ownHeld (s.fresh + 1) l).isSome = true ∨ s.storesBefore s.fresh l = true → t.mem = s.mem ∧
      ∃ x args, (x, .nwinExpiry, args) ∈ t.timers ∧ args.take 3 = [data.toNat, l, 2 ^ 65 + s.fresh])) ∧
  (∀ (s : State) home d root rcb, let t := s.deferNotify home d root rcb
    let key := regionKey root rcb
    (key ∈ (s.home home).deferred → t = s) ∧
    (key ∉ (s.home home).deferred → key ∈ (t.home home).deferred ∧ t.mem = s.mem ∧
      (s.now + d, .nwinExpiry, [home, root.toNat, rcb.toNat]) ∈ t.timers)) ∧
  (∀ s, let home := s.arg 0
    let root := BitVec.ofNat 64 (s.arg 1)
    let rcb := BitVec.ofNat 64 (s.arg 2)
    let key := regionKey root rcb
    let args := [home, root.toNat, rcb.toNat]
    s.arg 2 < 2 ^ 64 →
    (key ∉ (s.home home).deferred → exec .nwinExpiry s = .next s) ∧
    (∀ a, key ∈ (s.home home).deferred → s.rcbShut root rcb (s.numberAt 3) = some a →
      exec .nwinExpiry s = .next (s.tryAgain .nwinExpiry args a)) ∧
    (∀ l data win, key ∈ (s.home home).deferred → s.rcbShut root rcb (s.numberAt 3) = none →
      s.notifyAt root rcb = some (l, data) → effNwin s root rcb = some win →
      let left := s.windowLeft home root rcb win
      (0 < left → exec .nwinExpiry s = .next (s.after (windowWait left) .nwinExpiry args)) ∧
      (left = 0 → exec .nwinExpiry s = .next (s.postNotify home key l data)))) ∧
  (∀ s, 2 ^ 64 ≤ s.arg 2 → s.arg 2 < 2 ^ 65 →
    exec .nwinExpiry s = .next (s.notify (s.arg 0) (BitVec.ofNat 64 (s.arg 1)) (BitVec.ofNat 64 (s.arg 2)))) ∧
  (∀ s n, let l := s.arg 1
    let data := BitVec.ofNat 64 (s.arg 0)
    s.arg 2 = 2 ^ 65 + n → n < 2 ^ 65 →
    (∀ a, s.ownHeld (s.numberAt 3 l) l = some a →
      exec .nwinExpiry s = .next (s.tryAgain .nwinExpiry [data.toNat, l, 2 ^ 65 + n] a)) ∧
    (s.ownHeld (s.numberAt 3 l) l = none → s.storesBefore n l = true →
      exec .nwinExpiry s = .next (s.after 8 .nwinExpiry [data.toNat, l, 2 ^ 65 + n])) ∧
    (s.ownHeld (s.numberAt 3 l) l = none → s.storesBefore n l = false → exec .nwinExpiry s = .next (s.putWord l data))) ∧
  (∀ s l, s.arg 2 = 2 ^ 66 + l →
    exec .nwinExpiry s = .next (s.notifyJoin (s.arg 0) (BitVec.ofNat 64 (s.arg 1)) l)) ∧
  (∀ (s : State) home root l,
    (∀ a, s.ownHeld (s.numberAt 3 l) l = some a →
      s.notifyJoin home root l = s.tryAgain .nwinExpiry [home, root.toNat, 2 ^ 66 + l] a) ∧
    (s.ownHeld (s.numberAt 3 l) l = none → s.outOfReach l = false → s.isPoison l 8 = false →
      s.notifyJoin home root l = { s with ev := [] }.notify home root (s.read64 l))))

/-- R158, R189, R223 and R236: each `wait` completes with OK when what it awaits is there, and parks otherwise with
its timeout. Log 52 (DESIGN CHOICE): wait.jz takes a poisoned join word as its stored bits stand. R25, R31, R120,
R158, R187, R299: how parks end. -/
def Obligations.WaitsCompleteOrPark : Prop :=
  (let waits (i : Instr) (s : State) (te : BitVec 5) (ready : Prop) (a : Await) : Prop :=
    (ready → Completes i s (s.say wstOK)) ∧ (¬ ready → ParksOn i s a (timeoutOf te))
  (∀ s a te l, let i := Instr.waitJz a te
    Ready i s → joinAddr s s.focus (src i s 0) .r = .ok l → s.heldUp s.focus [l] = none →
    waits i s te ((s.read64 l).toNat % 2 ^ 63 = 0) (.joinZero l)) ∧
  (∀ s a te l x, let i := Instr.waitJz a te
    Ready i s → joinAddr s s.focus (src i s 0) .r = .ok l → s.heldUp s.focus [l] = some x →
    ParksOn i s x (timeoutOf te)) ∧
  (∀ s d a te, let i := Instr.waitMbox d a te
    let mask := (src i s 0).toNat % 16
    let full (k : Nat) : Prop := mask.testBit k = true ∧ (AMap.get none (s.core (here s)).mbox k).isSome = true
    Ready i s → mask ≠ 0 → isSkerry (here s) = false →
    (∀ k, k < 4 → full k → (∀ j, j < k → ¬ full j) → Completes i s ((s.writeDest s.focus d (BitVec.ofNat 64 k)).say wstOK)) ∧
    ((∀ k, k < 4 → ¬ full k) → ParksOn i s (.anyMbox mask) (timeoutOf te))) ∧
  (∀ s d a te, let i := Instr.waitMbox d a te
    Ready i s → (src i s 0).toNat % 16 = 0 ∨ isSkerry (here s) = true → Completes i s (s.say wstREFUSED)) ∧
  (∀ s d te, let i := Instr.waitSleep d te
    Ready i s → waits i s te ((src i s 0).toNat ≤ (s.time (dieOf (here s))).toNat) (.sleep (src i s 0).toNat)) ∧
  (∀ s te, let i := Instr.waitGate te
    Ready i s → ((me s).seq = 0 → TrapsWith i s cQUEUE 0 0 0) ∧
      ((me s).seq ≠ 0 → waits i s te (s.gateDue s.focus = false) .gateToken)) ∧
  (∀ s d a te k, let i := Instr.waitTl d a te
    let c := s.ctx k
    let n := (src i s 0).toNat
    Ready i s → ctxOfSel (src i s 1) = some k → s.selInBudget s.focus k = true →
    (n ≤ c.tl → c.tl ≤ c.issued → Completes i s (s.say wstOK)) ∧
    (c.tl < n → n ≤ c.issued → c.fault = false → ParksOn i s (.timeline k n) (timeoutOf te)) ∧
    (c.issued < n ∨ (c.tl < n ∧ c.fault = true) → Completes i s (s.say wstREFUSED))) ∧
  (∀ s d a te, let i := Instr.waitTl d a te
    Ready i s → ctxOfSel (src i s 1) = none → Completes i s (s.say wstREFUSED)) ∧
  (∀ s d a te l, let i := Instr.waitBuoy d a te
    let g := (src i s 0).toNat % 2 ^ 32
    let gen := (s.read64 (l + 8)).toNat / 2 ^ 32
    Ready i s → buoyLoc s s.focus (src i s 1) 1 = .ok l → s.heldUp s.focus [l, l + 8] = none →
    waits i s te (gen ≠ g ∧ (gen + 2 ^ 32 - g) % 2 ^ 32 ≤ 2 ^ 31) (.buoy l g))) ∧
  (let taken (s : State) (t : Nat) : State := { s.updTh t (fun th => { th with
    status := .run, park := th.park.map (fun p => { p with woken := some (s.nextCycle (unitOfThread t)) }) }) with
    resume := some t }
  (∀ s p, let t := s.arg 0
    (s.th t).status = .park → (s.th t).park = some p → s.ready t p = true →
    (p.await ≠ .gateFirst → (∀ l, p.await ≠ .fetch l) → (∀ ks, p.await ≠ .performed ks) →
      exec .awaitedEvent s = .next (taken s t)) ∧
    (p.await = .gateFirst → exec .awaitedEvent s = .next (s.updTh t (fun th => { th with status := .run, park := none }))) ∧
    (∀ ks, p.await = .performed ks → exec .awaitedEvent s = .next ((s.wst t wstOK).finish t p.instr)) ∧
    (∀ l, p.await = .fetch l → s.outOfReach l = false → s.hostAborts l = false → s.isPoison l 4 = false →
      ∃ s' : State, exec .awaitedEvent s = .next s' ∧ (s'.th t).status = .run ∧
        AMap.get 0 (s'.th t).ahead l = BitVec.ofNat 32 (s.read l 4) ∧ s'.mem = s.mem)) ∧
  (∀ s p x, let t := s.arg 0
    (s.th t).status = .park → (s.th t).park = some p → p.expires = some x → x ≤ s.now →
    exec .waitTimeout s = .next ((s.wst t wstTIMEOUT).finish t p.instr)) ∧
  (∀ s p x, let t := s.arg 0
    (s.th t).status = .park → (s.th t).park = some p → p.limitAt s = some x → x ≤ s.now →
    s.mustWait t = false → p.due = none →
    exec .waitlimitExpiry s = .next ((s.abandon t).takeTrap t cWAITLIMIT (waitKind p.instr) (awaitedVa s t p)
      (BitVec.ofNat 64 p.limNs) p.word)) ∧
  (∀ s p since, let t := s.arg 0
    (s.th t).status = .park → (s.th t).park = some p → p.due = some since → s.arg 1 = p.ticket →
    (∀ a, s.rcbShut (s.th t).root (s.th t).rcb (s.numberAt 2) = some a →
      exec .waitlimitExpiry s = .next (s.tryAgain .waitlimitExpiry [t, p.ticket] a)) ∧
    (s.rcbShut (s.th t).root (s.th t).rcb (s.numberAt 2) = none → let ns := s.waitLimNs t
      exec .waitlimitExpiry s = .next (s.updTh t (fun th => { th with park := some { p with
        due := none, limNs := ns, limit := if ns = 0 then none else some (since + 8 * ns) } })))) ∧
  (∀ s p scope loads, let t := s.arg 0
    (s.th t).status = .park → (s.th t).park = some p → p.await = .drain scope loads → s.drainOver t scope loads = true →
    exec .drainComplete s = .next (taken s t)) ∧
  (∀ s t p, s.resume = some t → (s.th t).park = some p →
    (p.read.isSome = true ∨ ∀ u n, s.plan.head? ≠ some (.mismatch u n)) →
    let s' := { s.dropDenials t p.instr with resume := none, focus := t }
    step s = exec p.instr (if p.read.isSome then s' else s'.chargeIssue t p.instr)))

/-- R219: `claim`, `release` and `clear` of the engines that act from here. Log 29 (DEDUCED): a clear waits for
running commands alone. R215, R220, R230 and R240: `ewr` and `erd`. -/
def Obligations.ContextsAndEngineRegistersAct : Prop :=
  (∀ s (e : BitVec 4) (c : BitVec 3), e ≠ 4 →
    let k := s.ctxOf s.focus e.toNat c.toNat
    let x := s.ctx k
    let rcb := (me s).rcb
    (Ready (.engClaim e c) s →
      (x.own = 0 ∨ x.own = rcb → Completes (.engClaim e c) s ((s.setCtx k { x with own := rcb }).say wstOK)) ∧
      (x.own ≠ 0 → x.own ≠ rcb → Completes (.engClaim e c) s (s.say wstREFUSED))) ∧
    (Ready (.engRelease e c) s →
      (x.own ≠ rcb ∨ s.ctxHolds k = true → Completes (.engRelease e c) s (s.say wstREFUSED)) ∧
      (x.own = rcb → s.ctxHolds k = false → x.tl = x.issued → x.busy = false → Completes (.engRelease e c) s
        ((s.setCtx k { x with own := 0, regs := [], moveOut := 0 }).say wstOK)) ∧
      (x.own = rcb → s.ctxHolds k = false → x.tl ≠ x.issued ∨ x.busy = true →
        ParksOn (.engRelease e c) s (.ctxIdle k) none)) ∧
    (Ready (.engClear e c) s →
      (x.own ≠ rcb → Completes (.engClear e c) s (s.say wstREFUSED)) ∧
      (x.own = rcb → x.running = true → ParksOn (.engClear e c) s (.ctxQuiet k) none) ∧
      (x.own = rcb → x.running = false → Completes (.engClear e c) s ((s.discard k).say wstOK) ∧
        ((s.discard k).ctx k).cmds = [] ∧ ((s.discard k).ctx k).issued = x.tl ∧ ((s.discard k).ctx k).tl = x.tl ∧
        ((s.discard k).ctx k).fault = false ∧ ((s.discard k).ctx k).own = x.own))) ∧
  (∀ s (e : BitVec 4) (c : BitVec 3) (r : BitVec 5) (a : BitVec 7),
    let k := s.ctxOf s.focus e.toNat c.toNat
    let w := Instr.ewr e c r a
    let rd := Instr.erd e c r a
    let key := here s * 8 + c.toNat
    (Ready w s → e ≠ 1 → e ≠ 4 →
      ((s.ctx k).own ≠ (me s).rcb → Completes w s (s.say wstREFUSED)) ∧
      ((s.ctx k).own = (me s).rcb → Completes w s ((s.setCtx k { s.ctx k with
        regs := AMap.set (s.ctx k).regs r.toNat (src w s 0) }).say wstOK))) ∧
    (Ready rd s → e ≠ 1 → e ≠ 4 →
      (8 ≤ r.toNat → (s.ctx k).own ≠ (me s).rcb → Completes rd s (s.give a 0 wstREFUSED)) ∧
      (r.toNat < 8 ∨ (s.ctx k).own = (me s).rcb → Completes rd s (s.writeDest s.focus a (s.ctxReg k r.toNat)))) ∧
    (Ready w s → e = 1 → Completes w s ((s.setStream key ((s.stream key).setReg r.toNat (src w s 0))).say wstOK)) ∧
    (Ready rd s → e = 1 → Completes rd s (s.writeDest s.focus a ((s.stream key).reg r.toNat))) ∧
    (Ready w s → e = 4 → r = 6 → Completes w s ((s.updCore (here s) (fun x =>
      { x with target := AMap.set x.target c.toNat (src w s 0) })).say wstOK)) ∧
    (Ready w s → e = 4 → r = 7 → Completes w s ((s.updCore (here s) (fun x =>
      { x with cap := AMap.set x.cap c.toNat (src w s 0) })).say wstOK)) ∧
    (Ready rd s → e = 4 → r = 6 → Completes rd s (s.give a (AMap.get 0 (s.core (here s)).target c.toNat) wstOK)) ∧
    (Ready rd s → e = 4 → r = 7 → Completes rd s (s.give a (AMap.get 0 (s.core (here s)).cap c.toNat) wstOK)))

/-- R220: what every command word comes to at its context, and what an accepted command captures. Log 29 (DEDUCED):
the sixteen that fill a context are those QFREE counts, the queued ones. Log 31 (DEDUCED): a bank MAC command with N =
0 is refused. Log 58 (DESIGN CHOICE): BUOY's bits 3 to 1 are refused whether EN is set or not, and a running or parked
bopen counts as queued for bclose. -/
def Obligations.CommandsAreAcceptedInOrder : Prop :=
  let offers (i : Instr) (s : State) (k opn : Nat) (a b : Word) (geometry : Bool) : Prop :=
    let c := s.ctx k
    (c.own ≠ (me s).rcb ∨ c.fault = true ∨ geometry = false → Completes i s (s.say wstREFUSED)) ∧
    (c.own = (me s).rcb → c.fault = false → geometry = true → 16 ≤ c.queued → ParksOn i s (.cmdRoom k) none) ∧
    (c.own = (me s).rcb → c.fault = false → geometry = true → c.queued < 16 →
      Completes i s ((s.enqueue s.focus k opn a b 3 0 0).say wstOK))
  (∀ s c a b, let i := Instr.copyXfer c a b
    let k := s.ctxOf s.focus 0 c.toNat
    Ready i s → offers i s k 3 (src i s 0) (src i s 1) (cntOk (s.ctxRaw k 8) && buoyOk s s.focus (s.ctxRaw k 12))) ∧
  (∀ s c a b, let i := Instr.copyDist c a b
    let k := s.ctxOf s.focus 0 c.toNat
    Ready i s → offers i s k 4 (src i s 0) (src i s 1) (cntOk (s.ctxRaw k 8) && buoyOk s s.focus (s.ctxRaw k 12) &&
      distOk (s.ctxRaw k 8) (s.ctxRaw k 11) (src i s 1))) ∧
  (∀ s c a, let i := Instr.copyBopen c a
    let k := s.ctxOf s.focus 0 c.toNat
    Ready i s → offers i s k 5 (src i s 0) 0 (s.ctx k).bank.isNone) ∧
  (∀ s c, let i := Instr.copyBclose c
    let k := s.ctxOf s.focus 0 c.toNat
    Ready i s → offers i s k 6 0 0 ((s.ctx k).bank.isSome || (s.ctx k).cmds.any (fun x => x.opn = 5 && x.state ≠ .done))) ∧
  (∀ s c a b, let i := Instr.copyCsr c a b
    let k := s.ctxOf s.focus 0 c.toNat
    let w := s.ctxRaw k 8
    Ready i s → offers i s k 7 (src i s 0) (src i s 1) (cntOk w && cnt0 w ≤ 4096 && cnt1 w ≤ 4 && cnt2 w = 1 &&
      (src i s 0).toNat % 4 = 0 && (src i s 1).toNat % 2 = 0)) ∧
  (∀ s c a b opn i, (i = Instr.gsGather c a b ∧ opn = 3) ∨ (i = Instr.gsScatter c a b ∧ opn = 4) → Ready i s →
    let k := s.ctxOf s.focus 5 c.toNat
    let g := (s.ctxRaw k 8).toNat
    offers i s k opn (src i s 0) (src i s 1) (g < 2 ^ 37 && g / 2 ^ 32 % 16 ≤ 5 && g % 2 ^ 32 ≠ 0)) ∧
  (∀ s a b opn i, i ∈ [Instr.bmacBcast a b, .bmacMac a b, .bmacRd a b] →
    opn = (match i with | .bmacBcast _ _ => 4 | .bmacMac _ _ => 5 | _ => 6) → Ready i s →
    let k := s.ctxOf s.focus 6 0
    offers i s k opn (src i s 0) (src i s 1) (s.bmacGeom k opn (src i s 0) (src i s 1))) ∧
  (∀ s b, let i := Instr.bmacAclr b
    let k := s.ctxOf s.focus 6 0
    Ready i s → offers i s k 7 0 (src i s 0) (s.bmacGeom k 7 0 (src i s 0))) ∧
  (∀ s, Ready .bmacOpen s → offers .bmacOpen s (s.ctxOf s.focus 6 0) 3 0 0 true) ∧
  (∀ s, Ready .bmacClose s → offers .bmacClose s (s.ctxOf s.focus 6 0) 8 0 0 true) ∧
  (∀ s c a b, let i := Instr.pmigMove c a b
    Ready i s → offers i s (s.ctxOf s.focus 7 c.toNat) 3 (src i s 0) (src i s 1) (s.moveGeom (src i s 0) (src i s 1))) ∧
  (∀ s c, let i := Instr.pmigCommit c
    Ready i s → offers i s (s.ctxOf s.focus 7 c.toNat) 4 0 0 true) ∧
  (∀ (s : State) t k opn a b ab d sc, let c := s.ctx k
    let s' := s.enqueue t k opn a b ab d sc
    (s'.ctx k).issued = c.issued + 1 ∧ (Instr.engineCommandStart, [k, c.issued + 1]) ∈ s'.agenda ∧
    ∃ x, (s'.ctx k).cmds = c.cmds ++ [x] ∧ x.n = c.issued + 1 ∧ x.opn = opn ∧ x.a = a ∧ x.b = b ∧ x.regs = c.regs ∧
      x.state = .queued ∧ x.rcb = (s.th t).rcb ∧ x.uid = (s.th t).uid ∧ x.pc = (s.th t).pc ∧ x.progress = 0)

/-- R230 to R232: stream contexts bound and unbound. Log 24 (DEDUCED): an unbind whose command is discarded or absent
completes and drops the FIFO. Log 29 (DEDUCED): a binding needs room among the queued commands. Log 60 (DESIGN
CHOICE): an unbind that waits waits also for what other slots push meanwhile. R234 and R235: a buoy word set, and
bytes counted into it. -/
def Obligations.StreamsAndBuoysAct : Prop :=
  (let bound (s : State) (key k : Nat) (f : Word) (base : Word) (port : Bool) : Stream :=
    let x := s.stream key
    { x with bound := true, port := port, write := x.sfmt.getLsbD 0, base := base, cnt := x.scnt, str0 := x.sstr0,
             str12 := x.sstr12, fmt := x.sfmt, region := (me s).rcb, fill := f.toNat % 8, cmd := (s.ctx k).issued + 1,
             moved := 0, used := 0, fifo := [], gone := [] }
  let may (s : State) (key k : Nat) (f : Word) : Prop :=
    let x := s.stream key
    x.bound = false ∧ f.toNat < 8 ∧ (s.ctx k).own = (me s).rcb ∧ (s.ctx k).fault = false ∧ (s.ctx k).queued < 16 ∧
    x.sstr0.toNat < 2 ^ 32 ∧ x.sfmt.toNat < 16 ∧
    ((s.ctxRaw k 12).getLsbD 0 = true → buoyNamed s s.focus (s.ctxRaw k 12) = true) ∧ x.scnt.toNat % 2 ^ 32 ≠ 0 ∧
    (AMap.has (s.cluster (clusterKey (here s))).ports (key % 8) = true →
      AMap.get 0 (s.cluster (clusterKey (here s))).ports (key % 8) = here s)
  (∀ s c a b, let i := Instr.streamBind c a b
    let key := here s * 8 + c.toNat
    let f := src i s 1
    let k := copyCtx (here s) (f.toNat % 8)
    Ready i s → may s key k f → Completes i s (((s.setStream key (bound s key k f (src i s 0) false)).enqueue s.focus k 8
      (BitVec.ofNat 64 key) (src i s 0) 3 0 0).say wstOK)) ∧
  (∀ s c a b, let i := Instr.streamPort c a b
    let key := here s * 8 + c.toNat
    let f := src i s 1
    let k := copyCtx (here s) (f.toNat % 8)
    let cl := clusterKey (here s)
    Ready i s → may s key k f → (s.stream key).sfmt.getLsbD 0 = false →
    Completes i s ((((s.setStream key (bound s key k f (src i s 0) true)).setCluster cl { s.cluster cl with
      ports := AMap.set (s.cluster cl).ports c.toNat (here s) }).enqueue s.focus k 8
      (BitVec.ofNat 64 key) (src i s 0) 3 0 0).say wstOK)) ∧
  (∀ s c a b, let i := Instr.streamBind c a b
    Ready i s → (s.stream (here s * 8 + c.toNat)).bound = true → Completes i s (s.say wstREFUSED)) ∧
  (∀ s c a b i, i = Instr.streamBind c a b ∨ i = Instr.streamPort c a b → Ready i s →
    AMap.has (s.cluster (clusterKey (here s))).ports c.toNat = true →
    AMap.get 0 (s.cluster (clusterKey (here s))).ports c.toNat ≠ here s → Completes i s (s.say wstREFUSED)) ∧
  (∀ (s : State) k key, let x := s.stream key
    ctxEng k = 0 → x.bound = true → copyCtx (key / 8) x.fill = k →
    ((s.discard k).stream key).bound = true ∧ ((s.discard k).stream key).cmd = 0) ∧
  (∀ s c, let i := Instr.streamUnbind c
    let key := here s * 8 + c.toNat
    let x := s.stream key
    let k := copyCtx (here s) x.fill
    Ready i s →
    (x.bound = false ∨ x.region ≠ (me s).rcb → Completes i s (s.say wstREFUSED)) ∧
    (x.bound = true → x.region = (me s).rcb → (s.ctx k).cmd x.cmd = none → Completes i s ((s.unbind key).say wstOK)) ∧
    (∀ y, x.bound = true → x.region = (me s).rcb → (s.ctx k).cmd x.cmd = some y → y.state = .running →
      (x.write = true → x.fifo ≠ [] → ParksOn i s (.streamDrain key) none) ∧
      (x.write = false ∨ x.fifo = [] → Completes i s (((s.unbind key).completeCmd k x.cmd).say wstOK))) ∧
    (∀ y, y = (s.unbind key).stream key →
      y.bound = false ∧ y.fifo = [] ∧ y.scnt = x.scnt ∧ y.sstr0 = x.sstr0 ∧ y.sstr12 = x.sstr12 ∧ y.sfmt = x.sfmt))) ∧
  ((∀ s a b l, let i := Instr.buoySet a b
    let target := (src i s 1).toNat % 2 ^ 32
    let w := s.read64 (l + 8) &&& ~~~3
    Ready i s → buoyLoc s s.focus (src i s 0) 2 = .ok l → s.heldUp s.focus [l, l + 8] = none →
    Completes i s ((s.putWord l (BitVec.ofNat 64 (target * 2 ^ 32))).putWord (l + 8) (if target = 0 then w else w ||| 1))) ∧
  (∀ s a b, let i := Instr.buoySet a b
    Ready i s → (src i s 0).toNat % 16 ≠ 0 → TrapsWith i s cALIGN 2 (src i s 0) 0) ∧
  (∀ s target bytes gen more, let l := s.arg 0
    let n := bytes + s.arg 1
    s.read64 l = BitVec.ofNat 64 (target * 2 ^ 32 + bytes) → 0 < target → bytes < target → target < 2 ^ 32 →
    s.read64 (l + 8) = BitVec.ofNat 64 (gen * 2 ^ 32 + more) → gen < 2 ^ 32 → more < 2 ^ 32 → more % 2 = 1 →
    exec .buoyCount s = .next ((s.putWord l (BitVec.ofNat 64 (target * 2 ^ 32 + n % target))).putWord (l + 8)
      (BitVec.ofNat 64 ((gen + n / target) % 2 ^ 32 * 2 ^ 32 + more) |||
        if 2 ≤ n / target ∨ (n / target = 1 ∧ n % target ≠ 0) then 2 else 0))) ∧
  (∀ s, (s.read64 (s.arg 0 + 8)).getLsbD 0 = false → exec .buoyCount s = .next s))

/-- R34, R240 and R241: every request to a matrix unit is sent with its right and with its operands as they are at its
issue, and its causes come in their order. Log 59 (DESIGN CHOICE): CAP's must-be-zero bits are not checked. R240,
R243, R248: a request performed at its context, and its reply. Log 29 (DEDUCED): the QUEUED commands alone fill a
queue of 16 and a clear waits for running commands alone; log 58 (DESIGN CHOICE): it discards suspended and parked
ones. R244, R245 and R258: the suspension of a stalled command, its resumption, and the failure of a unit. -/
def Obligations.MatrixRequestsAreSentAndAnswered : Prop :=
  (let sends (i : Instr) (c : BitVec 3) (right : Option Nat) : Prop := ∀ s, Ready i s →
    (s.matrixCause s.focus c.toNat right = none →
      exec i s = .next (((s.parkOn s.focus i (.matrix (s.ctxOf s.focus 4 c.toNat))).sendArgs s.focus i
        ((List.range (srcRegs i).length).map (src i s))).push .matrixRequestReply [s.focus])) ∧
    (∀ cause info a d, s.matrixCause s.focus c.toNat right = some (.trap cause info a d) → TrapsWith i s cause info a d)
  (∀ c a b, sends (.mtxMma c a b) c (some 0) ∧ sends (.mtxMmas c a b) c (some 0) ∧ sends (.mtxAclr c) c (some 0) ∧
    sends (.mtxAcopyIn c a b) c (some 0) ∧ sends (.mtxAcopyOut c a b) c (some 0) ∧ sends (.mtxTset c a b) c (some 3) ∧
    sends (.mtxTseal c) c (some 3) ∧ sends (.engClaim 4 c) c (some 1) ∧ sends (.engRelease 4 c) c (some 1) ∧
    sends (.engClear 4 c) c (some 1)) ∧
  (∀ c (r : BitVec 5) a, 8 ≤ r.toNat → sends (.ewr 4 c r a) c (some 2) ∧ sends (.erd 4 c r a) c (some 2)) ∧
  (∀ c (r : BitVec 5) a, r.toNat < 6 → sends (.erd 4 c r a) c none) ∧
  (∀ (s : State) t c right, let w := (AMap.get 0 (s.core (unitOfThread t)).target c).toNat
    let die := w / 2 ^ 7
    let cl := w % 2 ^ 7
    let cause := s.matrixCause t c right
    (2 ^ 11 ≤ w ∨ 7 < die ∨ 97 < cl → cause = some (.trap cCAPFAIL (w % 2 ^ 11) 0 0)) ∧
    (w < 2 ^ 11 → die ≤ 7 → cl ≤ 97 → (s.cluster w).failed = true → cause = some (.trap cMXDOWN w 0 0)) ∧
    (w < 2 ^ 11 → die ≤ 7 → cl ≤ 97 → (s.cluster w).failed = false →
      (right = none → cause = none) ∧
      (∀ r, right = some r → (s.localUnit t die cl || s.capPasses t c r die cl) = true → cause = none) ∧
      (∀ r, right = some r → (s.localUnit t die cl || s.capPasses t c r die cl) = false →
        cause = some (.trap cCAPFAIL w 0 0))))) ∧
  (∀ s p k, let t := s.arg 0
    let c := s.ctx k
    let rcb := (s.th t).rcb
    let i := p.instr
    let st := (s.th t).st
    let ok (s' : State) : Prop := exec .matrixRequestReply s = .next ((s'.wst t wstOK).finish t i)
    let command (opn dab dd : Nat) : Prop :=
      let ab := if st.ppFmt then pfxAB st.pfxF else dab
      let d := if st.ppFmt then pfxD st.pfxF else dd
      let sc := if st.ppFmt then pfxScale st.pfxF else 0
      c.own = rcb → c.fault = false → c.queued < 16 →
      s.matrixGeom k opn (srcVal s t i 0) (srcVal s t i 1) ab d sc = true →
      ok (s.enqueue t k opn (srcVal s t i 0) (srcVal s t i 1) ab d sc)
    (s.th t).park = some p → p.await = .matrix k →
    ((s.cluster (clusterOfCtx k)).failed = true →
      exec .matrixRequestReply s = .next (s.takeTrap t cMXDOWN (clusterOfCtx k) 0 0 (encode i))) ∧
    ((s.cluster (clusterOfCtx k)).failed = false → s.requestBefore k p.ticket = false →
      (∀ e n, i = .engClaim e n → c.own = 0 ∨ c.own = rcb → ok (s.setCtx k { c with own := rcb })) ∧
      (∀ e n, i = .engClaim e n → c.own ≠ 0 → c.own ≠ rcb →
        exec .matrixRequestReply s = .next ((s.wst t wstREFUSED).finish t i)) ∧
      (∀ e n, i = .engRelease e n → c.own = rcb → s.ctxHolds k = false → c.tl = c.issued → c.busy = false →
        ok (s.setCtx k { c with own := 0, regs := [], moveOut := 0 })) ∧
      (∀ e n, i = .engClear e n → c.own = rcb → c.running = false → ok (s.discard k)) ∧
      (∀ e n r a, i = .ewr e n r a → c.own = rcb →
        ok (s.setCtx k { c with regs := AMap.set c.regs r.toNat (srcVal s t i 0) })) ∧
      (∀ e n r a, i = .erd e n r a → c.own = rcb →
        exec .matrixRequestReply s = .next ((s.writeDest t a (s.ctxReg k r.toNat)).finish t i)) ∧
      (∀ n a b, i = .mtxMma n a b → command 3 3 0) ∧ (∀ n a b, i = .mtxMmas n a b → command 4 3 0) ∧
      (∀ n, i = .mtxAclr n → command 5 0 0) ∧ (∀ n a b, i = .mtxAcopyIn n a b → command 6 0 0) ∧
      (∀ n a b, i = .mtxAcopyOut n a b → command 7 0 0) ∧ (∀ n a b, i = .mtxTset n a b → command 8 0 0) ∧
      (∀ n, i = .mtxTseal n → command 9 0 0))) ∧
  ((∀ s k x, let cl := s.arg 0
    (s.cluster cl).current = some k → (s.ctx k).oldest = some x → (s.ctx k).stall.isSome = true →
    s.operandsReady k x = false → ∃ t, exec .matrixSuspend s = .next t ∧ (t.ctx k).lock = some x.tile ∧
      (t.ctx k).stall = none ∧ (Instr.matrixResume, [cl]) ∈ t.timers.map (·.2) ∧ t.mem = s.mem) ∧
  (∀ s, let cl := s.arg 0
    ∃ t, exec .matrixResume s = .next t ∧ t.mem = s.mem ∧ ∀ c x, c < 4 →
      let k := ctxKey 4 (cl / 128) (cl % 128) c
      (s.ctx k).oldest = some x → x.state = .suspended → s.operandsReady k x = true →
      ∀ y ∈ (t.ctx k).cmds, y.n = x.n → y.state ≠ .suspended) ∧
  (∀ s, let cl := s.arg 0
    ∃ t, exec .matrixUnitFailed s = .next t ∧ (t.cluster cl).failed = true ∧ (t.cluster cl).current = none ∧
      ∀ c, c < 4 → (t.ctx (ctxKey 4 (cl / 128) (cl % 128) c)).fault = true))

/-- R208, R221, R222 and R228: the events of a command: its pieces in turn, and one that the plan takes before its
turn. -/
def Obligations.CommandsRunAndComplete : Prop :=
  (∀ s x, let k := s.arg 0
    let n := s.arg 1
    (s.ctx k).cmd n = some x →
    (ctxEng k ≠ 4 → s.mayStart k x = true → exec .engineCommandStart s =
      .next ((s.setCmd k { x with state := .running, started := true }).push .engineCommandComplete [k, n])) ∧
    (ctxEng k = 4 → exec .engineCommandStart s = .next (s.startArray (clusterOfCtx k))) ∧
    (x.state = .running → s.arg 2 ≠ 1 → s.arg 2 ≠ 2 → let r := enginePiece s k x none
      (∀ s', r = .more s' →
        exec .engineCommandComplete s = .next ((s'.arrivedAt k n none).push .engineCommandComplete [k, n])) ∧
      (∀ s', r = .last s' → ctxEng k ≠ 4 → exec .engineCommandComplete s = .next (s'.completeCmd k n)) ∧
      (∀ s', r = .last s' → ctxEng k = 4 → exec .engineCommandComplete s = .next ((s'.endMatrix k).completeCmd k n)) ∧
      (∀ s', r = .idle s' → exec .engineCommandComplete s = .next (s'.arrivedAt k n none)) ∧
      (r = .wait → exec .engineCommandComplete s = .next (s.after 80 .engineCommandComplete [k, n])) ∧
      (∀ va, r = .err (.page va) → exec .engineCommandComplete s =
        .next (((s.engSweep k x .rw [va]).setCmd k { x with state := .parked }).push .pageRequest [k, n, cPAGE, va.toNat])) ∧
      (∀ c va, r = .err (.fault c va) → exec .engineCommandComplete s =
        .next ((s.engSweep k x .rw [va]).push .engineFault [k, n, c, va.toNat])) ∧
      (∀ l, r = .err (.shut l) → ∃ t, exec .engineCommandComplete s = .next t ∧
        (s.now + 8, .engineCommandComplete, [k, n]) ∈ t.timers ∧ t.mem = s.mem ∧
        ∀ y, (t.ctx k).cmd n = some y → y.arrived = some (x.number s l, l))) ∧
    (x.state = .running → s.arg 2 = 1 → let r := enginePiece s k x (some (s.arg 3))
      (∀ s', r = .more s' ∨ r = .last s' ∨ r = .idle s' → exec .engineCommandComplete s = .next s') ∧
      (∀ l, r = .wait ∨ r = .err (.shut l) → exec .engineCommandComplete s = .next s)) ∧
    (x.state ≠ .running → exec .engineCommandComplete s = .next s) ∧
    (x.state ≠ .faulted → x.state ≠ .done → ∃ t, exec .engineFault s = .next t ∧ (t.ctx k).fault = true ∧
      (t.ctx k).fcmd = n ∧ (t.ctx k).tl = (s.ctx k).tl ∧ (t.ctx k).issued = (s.ctx k).issued) ∧
    (∃ t, exec .pageRequest s = .next t ∧ ∀ y ∈ (t.ctx k).cmds, y.n = x.n → y.state = .parked)) ∧
  (∀ (s : State) k n, let c := s.ctx k
    let c' := (s.completeCmd k n).ctx k
    c.cmds.Pairwise (fun x y => x.n ≠ y.n) → c.tl ≤ c'.tl ∧
      ∀ x ∈ c.cmds, c.tl < x.n → x.n ≤ c'.tl → x.state = .done ∨ x.n = n)

/-- R178, R202, R208, R222 and R226: the reads and writes of commands. A read gives memory's byte, or the one read
ahead, and stops at a poisoned word; a write of one byte or of a whole word changes those bytes only, and a part of a
poisoned word is not written. The indices that go to an address are the ones that the geometry of R226 or R227 puts
there, each once. Log 58 (DESIGN CHOICE): a write of part of a poisoned word faults with POISON. -/
def Obligations.CommandsReadAndWriteTheirBytes : Prop :=
  (∀ s k x ok rs bs n, engRead s k x ok rs = .ok (bs, n) → bs.length = rs.length ∧ n ≤ rs.length ∧ ∀ j, j < rs.length →
    let name := (rs.getD j (0, 0)).1
    if AMap.has x.got name then bs.getD j 0 = AMap.get 0 x.got name
    else ∃ l, engLoc s k x (rs.getD j (0, 0)).2 .r ok = .ok l ∧ s.isPoison l 1 = false ∧ bs.getD j 0 = readByte s.mem l) ∧
  (∀ s k x ok rs, (∀ r ∈ rs, AMap.has x.got r.1 = true ∨ ∃ l, engLoc s k x r.2 .r ok = .ok l ∧ s.isPoison l 1 = false) →
    ∃ p, engRead s k x ok rs = .ok p) ∧
  (∀ s k x ok rs name va rest l,
    (∀ r ∈ rs, AMap.has x.got r.1 = true ∨ ∃ l, engLoc s k x r.2 .r ok = .ok l ∧ s.isPoison l 1 = false) →
    AMap.has x.got name = false → engLoc s k x va .r ok = .ok l → s.isPoison l 1 = true →
    engRead s k x ok (rs ++ (name, va) :: rest) = .error (.fault cPOISON va)) ∧
  (∀ s k x ok name va n s' bs, engTake s k x ok (namedBytes name va n) = .ok (s', bs) →
    bs.length = n ∧ CommandReadsAll s k x ok name va bs ∧ s'.mem = s.mem ∧ s'.poison = s.poison ∧ s'.threads = s.threads ∧
    s'.ctxs = s.ctxs ∧ s'.queues = s.queues) ∧
  (∀ s k x tag off n bs, scratchRead s k x tag off n = .ok bs → bs.length = n ∧ ∀ j, j < n →
    let at_ := off + BitVec.ofNat 64 j
    let name := tag * 2 ^ 64 + (scratchVa k at_).toNat
    if AMap.has x.got name then bs.getD j 0 = AMap.get 0 x.got name
    else ∃ l, scratchLoc k at_ = .ok l ∧ s.isPoison l 1 = false ∧ bs.getD j 0 = readByte s.mem l) ∧
  (∀ s k x ok va bs l, engLoc s k x va .w ok = .ok l →
    (bs.length < 8 → s.isPoison l 1 = true → engWrite s k x ok va bs = .error (.fault cPOISON va)) ∧
    (bs.length = 8 ∨ (bs.length < 8 ∧ s.isPoison l 1 = false) → ∃ s', engWrite s k x ok va bs = .ok s' ∧
      (∀ j, j < bs.length → readByte s'.mem (l + j) = bs.getD j 0) ∧
      (∀ q, q < l ∨ l + bs.length ≤ q → readByte s'.mem q = readByte s.mem q) ∧
      s'.poison = (if bs.length = 8 then setErase s.poison (wordOf l) else s.poison) ∧
      s'.empties = s.empties ∧ s'.threads = s.threads ∧ s'.ctxs = s.ctxs ∧ s'.queues = s.queues)) ∧
  (∀ base cnt str a, cntOk cnt = true → let h := stridedHits base cnt str a
    (∀ i, (∃ m, m < h.count ∧ h.nth m = i) ↔ i < totalBytes cnt ∧ stridedAddr base cnt str i = a) ∧
    (∀ m n, m < n → n < h.count → h.nth m ≠ h.nth n)) ∧
  (∀ k cnt pat b core off, cntOk cnt = true → distOk cnt pat b = true → core < 128 → off < 2 ^ 15 →
    let a := windowAddr (ctxDie k) (ctxCluster k) core off
    let h := distHits pat b (totalBytes cnt) a
    (∀ i, (∃ m, m < h.count ∧ h.nth m = i) ↔ i < totalBytes cnt ∧ distAddr k pat b i = a) ∧
    (∀ m n, m < n → n < h.count → h.nth m ≠ h.nth n)) ∧
  (∀ s k x (src dst : Nat → Word) (hits : Word → Hits) total p okR okW s' ns, p < total → 0 < (hits (dst p)).count →
    (∀ b m, b < 8 → let a := (dst p &&& ~~~7) + BitVec.ofNat 64 b
      m < (hits a).count → (hits a).nth m < total ∧ dst ((hits a).nth m) = a) →
    copyPiece s k x src dst hits total p okR okW = .ok (s', ns) → let w := writeAt dst hits p
    (x.wrote w = true → ns = [] ∧ s'.mem = s.mem ∧ s'.poison = s.poison) ∧
    (x.wrote w = false → ns = w.counts ∧ CommandWrites s s' dst total p (CommandReaches s k x .w okW)
      (fun i b => CommandReads s k x okR i (src i) b)) ∧
    (p = x.progress → (s.ctx k).cmd x.n = some x →
      ∃ y, (s'.ctx k).cmd x.n = some y ∧ x.progress < y.progress ∧ y.progress ≤ x.progress + 8) ∧
    (p ≠ x.progress → (s.ctx k).cmd x.n = some x →
      ∃ y, (s'.ctx k).cmd x.n = some y ∧ y.progress = x.progress ∧ y.wrote w = true)) ∧
  (∀ w : WriteAt, w.counts.sum = (w.hits.map (·.count)).sum ∧ ∀ n ∈ w.counts, 0 < n ∧ n ≤ w.hits.length)

/-- R226, R227, R231, R237, R251, R254, R255, R283 and R346: what the commands of the engines move. Each write of a
command that moves bytes takes a byte of the source that its loops pair with it. -/
def Obligations.EngineCommandsMoveTheirBytes : Prop :=
  let any : Nat → Bool := fun _ => true
  let le (bs : List Byte) : Nat := natOfBytes bs
  (∀ s k x p s', (x.opn = 3 ∨ x.opn = 4) → cntOk (x.reg 8) = true →
    (x.opn = 4 → distOk (x.reg 8) (x.reg 11) x.b = true) →
    let c0 := (x.reg 8).toNat % 2 ^ 24
    let c1 := (x.reg 8).toNat / 2 ^ 32 % 2 ^ 16 + 1
    let c2 := (x.reg 8).toNat / 2 ^ 48 + 1
    let at_ (base str : Word) (i : Nat) : Word := base
      + BitVec.ofNat 64 (i / c0 % c1) * (str.extractLsb' 0 32).signExtend 64
      + BitVec.ofNat 64 (i / c0 / c1) * (str.extractLsb' 32 32).signExtend 64 + BitVec.ofNat 64 (i % c0)
    let pat := (x.reg 11).toNat
    let blk := pat % 2 ^ 12 * 8
    let wrap := pat / 2 ^ 48 % 2 ^ 8
    let dst (i : Nat) : Word := if x.opn = 3 then at_ x.b (x.reg 10) i
      else windowAddr (ctxDie k) (ctxCluster k)
        ((pat / 2 ^ 16 % 2 ^ 7 + i / blk % wrap * (pat / 2 ^ 32 % 2 ^ 7)) % 128) (x.b.toNat + i / blk / wrap * blk + i % blk)
    let hits := if x.opn = 3 then stridedHits x.b (x.reg 8) (x.reg 10) else distHits (x.reg 11) x.b (totalBytes (x.reg 8))
    p < c0 * c1 * c2 → (movePiece s k x p).Does s' → let w := writeAt dst hits p
    (x.wrote w = true → s'.mem = s.mem) ∧
    (x.wrote w = false → CommandWrites s s' dst (c0 * c1 * c2) p (CommandReaches s k x .w any)
      (fun i b => CommandReads s k x (fun l => x.opn = 3 || !isLocal l) i (at_ x.a (x.reg 9) i) b)) ∧
    (x.reg 12).getLsbD 0 = false → s'.agenda = s.agenda) ∧
  (∀ s k x p s', (x.opn = 3 ∨ x.opn = 4) →
    let g := (x.reg 8).toNat
    let e := 8 * 2 ^ (g / 2 ^ 32 % 2 ^ 4)
    let w := if g / 2 ^ 36 % 2 = 1 then 8 else 4
    let near (l : Nat) : Bool := isDram l && locDev l = s.pkg.device && locDie l = ctxDie k
    let far (l : Nat) : Bool := !isHost l
    let dense (i : Nat) : Word := x.b + BitVec.ofNat 64 i
    let total := g % 2 ^ 32 * e
    p < total → (gsPiece s k x p).Does s' → ∃ ix : AMap Word,
      let table (i : Nat) : Word := x.reg 9 + AMap.get 0 ix (i / e) * BitVec.ofNat 64 e + BitVec.ofNat 64 (i % e)
      let hits (a : Word) : Hits :=
        if x.opn = 3 then Hits.one (a - x.b).toNat total
        else if (a - table (p / e * e)).toNat < e then Hits.one (p / e * e + (a - table (p / e * e)).toNat) total else []
      let wrote := x.wrote (writeAt (if x.opn = 3 then dense else table) hits p)
      (∀ j, AMap.has x.index j = true → AMap.get 0 ix j = AMap.get 0 x.index j) ∧
      (∀ j, AMap.has ix j = true → AMap.has x.index j = false → ∃ bs, bs.length = w ∧
        CommandReadsAll s k x near (2 ^ 64 + 8 * j) (x.a + BitVec.ofNat 64 (j * w)) bs ∧
        AMap.get 0 ix j = if w = 8 then BitVec.ofNat 64 (le bs) else (BitVec.ofNat 32 (le bs)).signExtend 64) ∧
      (wrote = true → s'.mem = s.mem) ∧
      (wrote = false → x.opn = 3 → CommandWrites s s' dense total p (CommandReaches s k x .w far)
        (fun i b => AMap.has ix (i / e) = true ∧ CommandReads s k x near i (table i) b)) ∧
      (wrote = false → x.opn = 4 → AMap.has ix (p / e) = true ∧
        CommandWrites s s' table total p (CommandReaches s k x .w near)
          (fun i b => CommandReads s k x far i (dense i) b))) ∧
  (∀ s k x s', let t := x.progress
    let m := ctxKey 4 (ctxDie k) (ctxCluster k) ((x.reg 8).toNat / 2 ^ 32 % 2 ^ 16)
    let row := x.a + BitVec.ofNat 64 (4 * t)
    (csrPiece s k x).Does s' → ∃ b0 b1 bs, b0.length = 4 ∧ b1.length = 4 ∧
      CommandReadsAll s k x any (csrName t 0 row) row b0 ∧ CommandReadsAll s k x any (csrName t 1 (row + 4)) (row + 4) b1 ∧
      le b0 ≤ le b1 ∧ le b1 ≤ le b0 + 32 ∧ bs.length = 2 * (le b1 - le b0) ∧
      (let col := x.b + BitVec.ofNat 64 (2 * le b0)
       CommandReadsAll s k x any (csrName t 2 col) col bs) ∧
      (s.ctx m).mq.length < 16 ∧ (∀ o, (s.ctx m).mqOwner = some o → o = (k, x.n)) ∧ (s.ctx m).own = x.rcb ∧
      (s'.ctx m).mq = (s.ctx m).mq ++
        [(List.range (le b1 - le b0)).map (fun p => le ((bs.drop (2 * p)).take 2))] ∧ s'.mem = s.mem) ∧
  (∀ s k x s', let n := (x.reg 8).toNat % 2 ^ 7
    let u := skerryOfCtx k
    let slot := x.b.toNat + x.progress
    let va := x.a + BitVec.ofNat 64 x.progress * BitVec.ofNat 64 ((x.reg 9).toNat % 2 ^ 32)
    let acc (s : State) (bank j : Nat) : F32 := AMap.get 0 (s.core u).acc (bank * 64 + j)
    slot < 64 → (macPiece s k x).Does s' → (s.core u).bankOn = true ∧ s'.mem = s.mem ∧ ∃ f : Nat → Nat → Byte,
      (∀ bank w, bank < 16 → (x.reg 10).getLsbD bank = true → w < 4 →
        if AMap.has x.got (macName x.progress bank (8 * w)) then
          ∀ j, j < 8 → f bank (8 * w + j) = AMap.get 0 x.got (macName x.progress bank (8 * w + j))
        else ∃ l, CommandReaches (if x.progress = 0 then s.updCtx k (fun c => { c with flags := 0 }) else s) k x .r
            (fun l => isDram l && homeOf l = s.homeOfCtx k && locOff l % 512 = 0) va l ∧
          s.isPoison (l + 32 * bank + 8 * w) 8 = false ∧
          ∀ j, j < 8 → f bank (8 * w + j) = readByte s.mem (l + 32 * bank + 8 * w + j)) ∧
      (∀ bank j, bank < 16 → j < 64 → acc s' bank j = if (x.reg 10).getLsbD bank ∧ j = slot then
        (bmacSum (acc s bank j) ((List.range 16).map (fun e => (AMap.get 0 (s.core u).bvr (bank * 16 + e),
          f bank (2 * e + 1) ++ f bank (2 * e))))).1 else acc s bank j) ∧
      ((∃ t, macPiece s k x = .last t) ↔ n ≤ x.progress + 1)) ∧
  (∀ a b : BitVec 16, let x := Fmt.fp16.value a.toNat
    let y := Fmt.fp16.value b.toNat
    let r := bmacProd a b
    (x.isNan = true ∨ y.isNan = true ∨ (x.isZero = true ∧ y.isInf = true) ∨ (x.isInf = true ∧ y.isZero = true) →
      r = (0x7FC00000, 0x10)) ∧
    (∀ p q c d e f, x = .fin p c d → y = .fin q e f → r.2 = 0 ∧ ∃ g h, f32 r.1 = .fin (p != q) g h ∧
      scaled false g h (min h (d + f)) = scaled false (c * e) (d + f) (min h (d + f)))) ∧
  (∀ acc l a b, let p := bmacSum acc l
    let v := bmacProd a b
    bmacSum acc [] = (acc, 0) ∧
    bmacSum acc (l ++ [(a, b)]) = ((fadd32 p.1 v.1).1, p.2 ||| v.2 ||| (fadd32 p.1 v.1).2)) ∧
  (∀ s k x s' bank, x.banks[x.progress]? = some bank → x.early = [] → (bcastPiece s k x none).Does s' → ∃ bs, bs.length = 32 ∧
    CommandReadsAll s k x (fun l => !isHost l) (bank * 32) (x.a + BitVec.ofNat 64 bank * x.b) bs ∧
    (∀ b e, e < 16 → AMap.get 0 (s'.core (skerryOfCtx k)).bvr (b * 16 + e) =
      if b = bank then BitVec.ofNat 16 (le ((bs.drop (2 * e)).take 2)) else
        AMap.get 0 (s.core (skerryOfCtx k)).bvr (b * 16 + e)) ∧ s'.mem = s.mem) ∧
  (∀ s k x p s', let n := (x.reg 8).toNat % 2 ^ 7
    let bank (i : Nat) : Nat := x.banks.getD (i / 4 / n) 0
    let total := 4 * n * x.banks.length
    let dst (i : Nat) : Word := x.a + BitVec.ofNat 64 (4 * (n * bank i + i / 4 % n) + i % 4)
    let hits (a : Word) : Hits := let o := (a - x.a).toNat
      if 4 * n * 16 ≤ o || !x.banks.contains (o / (4 * n)) then []
      else Hits.one (4 * n * (x.banks.takeWhile (· ≠ o / (4 * n))).length + o % (4 * n)) total
    let wrote := x.wrote (writeAt dst hits p)
    0 < n → p < total → (rdPiece s k x p).Does s' → (wrote = true → s'.mem = s.mem) ∧
      (wrote = false → CommandWrites s s' dst total p (CommandReaches s k x .w (fun l => !isHost l)) (fun i b =>
        b = (AMap.get 0 (s.core (skerryOfCtx k)).acc (bank i * 64 + x.b.toNat + i / 4 % n)).extractLsb' (8 * (i % 4)) 8))) ∧
  (∀ s k x s', (bmacAclrPiece s k x).Does s' → s'.mem = s.mem ∧ ∀ bank j, j < 64 →
    AMap.get 0 (s'.core (skerryOfCtx k)).acc (bank * 64 + j) =
      if bank < 16 ∧ (x.reg 10).getLsbD bank = true ∧ x.b.toNat ≤ j ∧ j < x.b.toNat + (x.reg 8).toNat % 2 ^ 7 then 0
      else AMap.get 0 (s.core (skerryOfCtx k)).acc (bank * 64 + j)) ∧
  (∀ s k x f s', (copyMove s k x f).Does s' →
    let src := frameLoc f (8 * (x.progress - 1))
    let dst := frameLoc x.b (8 * (x.progress - 1))
    s'.read64 dst = s.read64 src ∧ (wordOf dst ∈ s'.poison ↔ s.isPoison src 8 = true) ∧
    (∀ q, q < dst ∨ dst + 8 ≤ q → readByte s'.mem q = readByte s.mem q)) ∧
  (∀ s k x s', let y := s.stream x.a.toNat
    (streamFetch s k x y).Does s' → ∃ bs, bs.length = y.esz ∧
      CommandReadsAll s k x any (8 * y.moved) (y.elemAddr y.moved) bs ∧
      (s'.stream x.a.toNat).fifo = y.fifo ++ bs ∧ (s'.stream x.a.toNat).moved = y.moved + 1 ∧ s'.mem = s.mem) ∧
  (∀ s k x e early s', let y := s.stream x.a.toNat
    let n := y.esz
    y.moved ≤ e → (e - y.moved) * n + n ≤ y.fifo.length → x.early = [] → (streamStore s k x y e early).Does s' → ∃ l,
      CommandReaches s k x .w any (y.elemAddr e) l ∧
      (∀ j, j < n → readByte s'.mem (l + j) = y.fifo.getD ((e - y.moved) * n + j) 0) ∧
      (∀ q, q < l ∨ l + n ≤ q → readByte s'.mem q = readByte s.mem q)) ∧
  (∀ s k x s', let e := elemBytes x.fmtAB
    let i := x.progress
    let off := x.a + BitVec.ofNat 64 i * x.b
    i < 64 → (acopyInPiece s k x).Does s' → ∃ bs, bs.length = 64 * e ∧ scratchRead s k x (x.tag 0 0) off (64 * e) = .ok bs ∧
      s'.mem = s.mem ∧ ∀ r j, r < 64 → j < 64 → (s'.cluster (clusterOfCtx k)).acc x.tile r j = if r = i then
        ((convert 0 .rne (valueOfCode x.fmtAB (le ((bs.drop (j * e)).take e)))).1.truncate 32)
        else (s.cluster (clusterOfCtx k)).acc x.tile r j) ∧
  (∀ s k x p s', let u := s.cluster (clusterOfCtx k)
    let n := outLen x.fmtD
    let dst (i : Nat) : Word := x.a + BitVec.ofNat 64 (i / n) * x.b + BitVec.ofNat 64 (i % n)
    let hits (a : Word) : Hits := (List.range 64).flatMap (fun i =>
      let r := (a - dst (i * n)).toNat
      if r < n then Hits.one (i * n + r) (64 * n) else [])
    let wrote := x.wrote (writeAt dst hits p)
    p < 64 * n → (acopyOutPiece s k x p).Does s' → (wrote = true → s'.mem = s.mem) ∧
      (wrote = false → CommandWrites s s' dst (64 * n) p (fun off l => scratchLoc k off = .ok l)
        (fun i b => b = outByte u x.tile x.fmtD (i / n) (i % n))) ∧
      (acopyOutPiece s k x p = .last s' → ∀ b, (s'.ctx k).flags.getLsbD b = true ↔
        ∃ i j, i < 64 ∧ j < 64 ∧ (outElem u x.tile x.fmtD i j).2.getLsbD b = true))

/-- R239 and R249: one K step replaces every element of the command's tile by the step on that element, and leaves the
other tiles. R249 and R250: the exact sum of a K step, its special values and the sign of its zero, and the three
roundings and the flags of what it does to an element of the tile. -/
def Obligations.MatrixStepsAccumulateEveryElement : Prop :=
  (∀ (s : State) (k : Nat) (x : Cmd) (n : Nat) (d : StepData), let cl := clusterOfCtx k
    let u := s.cluster cl
    let new := (stepAcc s k x n d).1.cluster cl
    (∀ i j, i < 64 → j < 64 →
      let row := (List.range n).map (elemValue u.table x.fmtAB (d.a.getD i []))
      let column := d.b.map (fun r => elemValue u.table x.fmtAB r j)
      let sc := if x.scale = 0 then none else some (d.sa.getD i 0, d.sb.getD j 0)
      new.acc x.tile i j = (mmaStep (row.zip column) sc (u.acc x.tile i j)).1) ∧
    (∀ tile i j, tile ≠ x.tile → i < 64 → j < 64 → new.acc tile i j = u.acc tile i j) ∧
    new.table = u.table ∧ (stepAcc s k x n d).1.mem = s.mem) ∧
  ((∀ l : List (FVal × FVal), let d := dotExact l
    let bad : Prop := (∃ p ∈ l, p.1.isNan = true ∨ p.2.isNan = true ∨ (p.1.isZero = true ∧ p.2.isInf = true) ∨
        (p.1.isInf = true ∧ p.2.isZero = true)) ∨
      ((∃ p ∈ l, mulExact p.1 p.2 = some (.inf false)) ∧ (∃ p ∈ l, mulExact p.1 p.2 = some (.inf true)))
    (d.isNan = true ↔ bad) ∧
    (¬ bad → ∀ n, d = .inf n ↔ ∃ p ∈ l, mulExact p.1 p.2 = some (.inf n)) ∧
    ((∀ p ∈ l, ∃ a m e b w f, p = (.fin a m e, .fin b w f)) → ∃ n m e, d = .fin n m e ∧
      (∀ z, z ≤ e → (∀ p ∈ l, ∀ a v f, mulExact p.1 p.2 = some (.fin a v f) → z ≤ f) →
        scaled n m e z = (l.map (fun p => match mulExact p.1 p.2 with
          | some (.fin a v f) => scaled a v f z
          | _ => 0)).sum) ∧
      (m = 0 → (n = true ↔ l ≠ [] ∧ ∀ p ∈ l, p.1.neg ≠ p.2.neg)))) ∧
  (∀ n m e n' m' e', mulExact (.fin n m e) (.fin n' m' e') = some (.fin (n != n') (m * m') (e + e'))) ∧
  (∀ x y, x.isNan = false → y.isNan = false → x.isInf = true ∨ y.isInf = true → x.isZero = false → y.isZero = false →
    mulExact x y = some (.inf (x.neg != y.neg))) ∧
  (∀ l acc, let d := dotExact l
    let q := Fmt.fp32.roundVal .rne d
    let r := Fmt.fp32.add .rne (f32 acc) (Fmt.fp32.value q.1)
    mmaStep l none acc = if d.isNan then (0x7FC00000, 0x10) else (BitVec.ofNat 32 r.1, q.2 ||| r.2)) ∧
  (∀ l sa sb acc, let d := dotExact l
    let p := Fmt.fp32.mul .rne (f32 sa) (f32 sb)
    let q := Fmt.fp32.mul .rne d (Fmt.fp32.value p.1)
    let r := Fmt.fp32.add .rne (f32 acc) (Fmt.fp32.value q.1)
    mmaStep l (some (sa, sb)) acc = if d.isNan then (0x7FC00000, p.2 ||| 0x10) else (BitVec.ofNat 32 r.1, p.2 ||| q.2 ||| r.2)))

/-- R263 and R266 order 1: an `xp` word with an aligned record leaves the thread parked on the expansion unit, its
request behind the earlier ones with XO and the operands of the issue; a misaligned one traps ALIGN. R263, R266 to
R274: what the request at the head of a core's queue does when it is served. Its memory accesses come first; while a
word of them is held up the request waits. A destination expansion register is then written whole, flags are ORed into
FPF, and the parked instruction completes; a trap commits nothing. R183, R263, R266 and R327: the accesses of a
request in service. A twin's wait until its memory requests have been matched with the other twin's; the primary's are
then performed, and the secondary is given what they bring. Each word is read or written once; a word that cannot be
translated traps before a poisoned one, of the lowest address that is so. -/
def Obligations.ExpansionRequestsQueueAndComplete : Prop :=
  (let sends (i : Instr) (align info : Nat) : Prop := ∀ s, Ready i s →
    let c := s.core (here s)
    let q : XpReq := { thread := s.focus, instr := i, xo := s.keptAt s.focus i, a := src i s 0, b := src i s 1 }
    let s' := (s.setCore (here s) { c with xpq := c.xpq ++ [q] }).parkOn s.focus i .xp
    ((src i s 0).toNat % align = 0 → c.xpq = [] → exec i s = .next (s'.push .xpRequestComplete [here s])) ∧
    ((src i s 0).toNat % align = 0 → c.xpq ≠ [] → exec i s = .next s') ∧
    ((src i s 0).toNat % align ≠ 0 → TrapsWith i s cALIGN info (src i s 0) 0)
  (∀ (s : State) t d y a i, i = Instr.xpCtrm d a ∨ i = Instr.xpCtrl d a ∨ i = Instr.xpAdm d y a →
    (s.parkOf t i = none → s.keptAt t i = (s.core (unitOfThread t)).xo) ∧
    ∀ p, s.parkOf t i = some p → s.keptAt t i = p.kept) ∧
  ∀ (d y : BitVec 3) (a b : BitVec 7),
    sends (.xpCtrm d a) 16 1 ∧ sends (.xpCtrl d a) 16 1 ∧ sends (.xpForm d a b) 16 1 ∧ sends (.xpEval y a b) 16 1 ∧
    sends (.xpGrad y a b) 16 1 ∧ sends (.xpLd d a) 32 1 ∧ sends (.xpSt y a) 32 2 ∧ sends (.xpNear a b) 32 1 ∧
    sends (.xpClr d) 1 1 ∧ sends (.xpAdd d y) 1 1 ∧ sends (.xpM2m d y) 1 1 ∧ sends (.xpM2l d y) 1 1 ∧
    sends (.xpL2l d y) 1 1 ∧ sends (.xpAdm d y b) 1 1) ∧
  (∀ (s : State) (q : XpReq) (qs : List XpReq), (s.core (s.arg 0)).xpq = q :: qs → unitOfThread q.thread = s.arg 0 →
    let u := s.arg 0
    let t := q.thread
    let x := fun (k : BitVec 3) => s.xreg u k.toNat
    let popped (s : State) : State := s.updCore u (fun c => { c with xpq := c.xpq.drop 1 })
    let goesOn (s : State) : State := if qs.isEmpty then s else s.push .xpRequestComplete [u]
    let gives (s' : State) : Prop := exec .xpRequestComplete s = .next (goesOn ((popped s').finish t q.instr))
    let traps (c info : Nat) (a : Word) : Prop :=
      exec .xpRequestComplete s = .next (goesOn ((popped s).takeTrap t c info a 0 (encode q.instr)))
    let put (s : State) (k : BitVec 3) (r : XReg × Flags) : State :=
      (s.setCore u { s.core u with x := AMap.set (s.core u).x k.toNat r.1 }).flag t r.2
    let centre (k : Bool) (ws : List Word) : XReg × Flags :=
      ({ localKind := k, p := q.xo.toNat % 16, cx := word32 ws 0, cy := word32 ws 1, cz := word32 ws 2, rad := word32 ws 3 }, 0)
    -- an access: what follows once its words are there, and where it traps or is held up
    let after (r : XpMem) (k : List Word → State → Prop) : Prop :=
      (∀ ws s', r = .words ws s' → k ws s') ∧
      (∀ s', r = .wait s' → exec .xpRequestComplete s = .next s') ∧
      (∀ c info a, r = .trap c info a none → traps c info a) ∧
      (∀ c info a need, r = .trap c info a (some need) → exec .xpRequestComplete s =
        .next (goesOn ((popped (s.dropDenied (tlbOfUnit u) (s.th t).root a need (!(s.th t).st.mode))).takeTrap t c info a 0
          (encode q.instr))))
    (∀ d a, q.instr = .xpCtrm d a → after (xpMem s q 0 q.a 2 none) (fun ws s' => gives (put s' d (centre false ws)))) ∧
    (∀ d a, q.instr = .xpCtrl d a → after (xpMem s q 0 q.a 2 none) (fun ws s' => gives (put s' d (centre true ws)))) ∧
    (∀ d, q.instr = .xpClr d → gives (put s d ({ x d with c := [] }, 0))) ∧
    (∀ d a, q.instr = .xpLd d a → after (xpMem s q 0 q.a 4 none) (fun h s1 =>
      (headerOk h = false → traps cXCENTRE 0 0) ∧
      (headerOk h = true → after (xpMem s1 (q.holding 0 h) 4 (q.a + 32) 128 none) (fun ws s2 =>
        gives (put s2 d (XReg.ofImage (h ++ ws), 0)))))) ∧
    (∀ y a, q.instr = .xpSt y a → after (xpMem s q 0 q.a 132 (some (x y).image)) (fun _ s' => gives s')) ∧
    (∀ d y, q.instr = .xpAdd d y →
      ((x d).localKind = (x y).localKind → (x d).p = (x y).p → sameCentre (x d) (x y) = true →
        gives (put s d (xpSum (x d) (x y)))) ∧
      ((x d).localKind ≠ (x y).localKind ∨ (x d).p ≠ (x y).p ∨ sameCentre (x d) (x y) = false → traps cXCENTRE 0 0)) ∧
    (∀ d y, q.instr = .xpM2m d y →
      ((x d).localKind = false → (x y).localKind = false → (x d).p = (x y).p → gives (put s d (xpShiftM (x d) (x y)))) ∧
      ((x d).localKind = true ∨ (x y).localKind = true ∨ (x d).p ≠ (x y).p → traps cXCENTRE 0 0)) ∧
    (∀ d y, q.instr = .xpM2l d y →
      ((x d).localKind = true → (x y).localKind = false → (x d).p = (x y).p → centresDiffer (x d) (x y) = true →
        gives (put s d (xpToLocal (x d) (x y)))) ∧
      ((x d).localKind = false ∨ (x y).localKind = true ∨ (x d).p ≠ (x y).p ∨ centresDiffer (x d) (x y) = false →
        traps cXCENTRE 0 0)) ∧
    (∀ d y, q.instr = .xpL2l d y →
      ((x d).localKind = true → (x y).localKind = true → (x d).p = (x y).p → gives (put s d (xpShiftL (x d) (x y)))) ∧
      ((x d).localKind = false ∨ (x y).localKind = false ∨ (x d).p ≠ (x y).p → traps cXCENTRE 0 0)) ∧
    (∀ d a b, q.instr = .xpForm d a b →
      (2 ^ 20 < q.b.toNat → gives (s.wst t wstREFUSED)) ∧
      (q.b.toNat ≤ 2 ^ 20 → (x d).localKind = true → traps cXCENTRE 0 0) ∧
      (q.b.toNat ≤ 2 ^ 20 → (x d).localKind = false → after (xpMem s q 0 q.a (2 * q.b.toNat) none) (fun ws s' =>
        gives ((put s' d ((List.range q.b.toNat).foldl (fun (r : XReg × Flags) k =>
          ((formOne r.1 (particle ws k).1 (particle ws k).2).1,
           r.2 ||| (formOne r.1 (particle ws k).1 (particle ws k).2).2)) (x d, 0))).wst t wstOK)))) ∧
    (∀ y a b, q.instr = .xpEval y a b → after (xpMem s q 0 q.a 2 none) (fun ws s' =>
      let v := xpPotential (x y) (particle ws 0).1
      gives ((s'.writeDest t b (v.1.zeroExtend 64)).flag t v.2))) ∧
    (∀ y a b, q.instr = .xpGrad y a b → after (xpMem s q 0 q.a 2 none) (fun ws s' =>
      ∀ (l0 l1 l2 : FX), xpGradient (x y) (particle ws 0).1 = [l0, l1, l2] →
      gives ((s'.writeVec t (BitVec.ofNat 5 b.toNat) (l0.1.zeroExtend 256 ||| (l1.1.zeroExtend 256 <<< 32) |||
        (l2.1.zeroExtend 256 <<< 64))).flag t (l0.2 ||| l1.2 ||| l2.2)))) ∧
    (∀ a b, q.instr = .xpNear a b → after (xpMem s q 0 q.a 4 none) (fun h s1 =>
      let n := (h.getD 1 0).toNat
      let base := h.getD 0 0
      let target : Vec3 := { x := xval (word32 h 4), y := xval (word32 h 5), z := xval (word32 h 6) }
      (2 ^ 20 < n → gives (s1.wst t wstREFUSED)) ∧
      (n ≤ 2 ^ 20 → n ≠ 0 → base.toNat % 16 ≠ 0 → traps cALIGN 1 base) ∧
      (n ≤ 2 ^ 20 → n = 0 ∨ base.toNat % 16 = 0 → after (xpMem s1 (q.holding 0 h) 4 base (2 * n) none) (fun ws s2 =>
        let acc := (List.range n).foldl (fun acc k => nearOne target acc (particle ws k).1 (particle ws k).2)
          (xval (q.b.truncate 32))
        gives (((s2.writeDest t b (acc.1.zeroExtend 64)).flag t acc.2).wst t wstOK))))) ∧
    (∀ d y b, q.instr = .xpAdm d y b → let r := xpAdmissible (x d) (x y) (q.xo.extractLsb' 32 32)
      gives ((s.writeDest t b (if r.1 then 1 else 0)).flag t r.2))) ∧
  ((∀ (s : State) (q : XpReq) key va n img, let r := xpMem s q key va n img
    ((s.th q.thread).twin = none → r = xpPerform s q key va n img) ∧
    (∀ o sec, (s.th q.thread).twin = some (o, sec) →
      (q.opened = false → 0 < n → ∃ s' : State, r = .wait s' ∧ s'.mem = s.mem ∧ s'.threads = s.threads) ∧
      (q.opened = true → sec = false → r = xpPerform s q key va n img) ∧
      (q.opened = true → sec = true →
        ((∀ j, j < n → AMap.has q.got (key + j) = true) →
          r = .words ((List.range n).map (fun j => AMap.get 0 q.got (key + j))) s) ∧
        ((∃ j, j < n ∧ AMap.has q.got (key + j) = false) → ∃ s' : State, r = .wait s' ∧ s'.mem = s.mem ∧
          s'.threads = s.threads)))) ∧
  (∀ (s : State) (q : XpReq) key va n ws s', xpPerform s q key va n none = .words ws s' →
    ws.length = n ∧ s'.mem = s.mem ∧ ((s.th q.thread).twin = none → s'.units = s.units) ∧ s'.threads = s.threads ∧ ∀ j, j < n →
      (AMap.has q.got (key + j) = true → ws.getD j 0 = AMap.get 0 q.got (key + j)) ∧
      (AMap.has q.got (key + j) = false → ∃ l, xpLoc s q.thread (va + BitVec.ofNat 64 (8 * j)) .r = .ok l ∧
        s.isPoison l 8 = false ∧ s.outOfReach l = false ∧ s.xpHeld q l = none ∧ ws.getD j 0 = s.read64 l)) ∧
  (∀ (s : State) (q : XpReq) key va n ws img s' l, xpPerform s q key va n (some img) = .words ws s' →
    (∀ j, j < n → xpLoc s q.thread (va + BitVec.ofNat 64 (8 * j)) .w = .ok (l + 8 * j)) →
    (∀ j, j < n → AMap.has q.got (key + j) = false → s'.read64 (l + 8 * j) = img.getD j 0) ∧
    (∀ b, b < l ∨ l + 8 * n ≤ b → readByte s'.mem b = readByte s.mem b) ∧
    ((s.th q.thread).twin = none → s'.units = s.units) ∧ s'.threads = s.threads) ∧
  (∀ (s : State) (q : XpReq) key va n img j c, let need : Right := if (img : Option (List Word)).isSome then .w else .r
    let at_ (i : Nat) : Word := va + BitVec.ofNat 64 (8 * i)
    j < n → (∀ i, i < j → ∃ l, xpLoc s q.thread (at_ i) need = .ok l) → xpLoc s q.thread (at_ j) need = .error c →
    xpPerform s q key va n img = .trap c (accessInfo need) (at_ j) (some need)) ∧
  (∀ (s : State) (q : XpReq) key va n j, let at_ (i : Nat) : Word := va + BitVec.ofNat 64 (8 * i)
    (∀ i, i < n → ∃ l, xpLoc s q.thread (at_ i) .r = .ok l ∧ s.xpHeld q l = none ∧ AMap.has q.got (key + i) = false ∧
      (i < j → s.isPoison l 8 = false ∧ s.outOfReach l = false) ∧ (i = j → s.isPoison l 8 = true)) →
    j < n → s.split = false → xpPerform s q key va n none = .trap cPOISON 1 (at_ j) none) ∧
  (∀ (s : State) (q : XpReq) key va n img, (∀ i, i < n → ∃ l,
      xpLoc s q.thread (va + BitVec.ofNat 64 (8 * i)) (if (img : Option (List Word)).isSome then .w else .r) = .ok l ∧
      s.xpHeld q l = none ∧ s.isPoison l 8 = false ∧ s.outOfReach l = false) →
    s.split = false → ∃ ws s', xpPerform s q key va n img = .words ws s') ∧
  (∀ (s : State) t va need l, threadResolve s t va need = .ok l →
    xpLoc s t va need = if isHost l then .error cPROT else .ok l))

/-- R261, R262 and R267: `xp.add` adds exactly the first T(P) coefficients, and an image holds every field of its
register. R261, R264 and R267 to R274: the arithmetic of expansions, coefficient by coefficient, each step rounded and
its flags kept. -/
def Obligations.ExpansionArithmeticFollowsItsSteps : Prop :=
  ((∀ (d a : XReg) (k : Nat), d.p ≤ 9 →
    let r := (xpSum d a).1
    (k < (d.p + 1) * (d.p + 2) * (d.p + 3) / 6 → AMap.get 0 r.c k = (fadd32 (AMap.get 0 d.c k) (AMap.get 0 a.c k)).1) ∧
    ((d.p + 1) * (d.p + 2) * (d.p + 3) / 6 ≤ k → AMap.get 0 r.c k = AMap.get 0 d.c k) ∧
    r.localKind = d.localKind ∧ r.p = d.p ∧ r.cx = d.cx ∧ r.cy = d.cy ∧ r.cz = d.cz ∧ r.rad = d.rad) ∧
  (∀ (x : XReg), x.p ≤ 9 →
    let y := XReg.ofImage x.image
    x.image.length = 132 ∧ headerOk x.image = true ∧ y.localKind = x.localKind ∧ y.p = x.p ∧ y.cx = x.cx ∧ y.cy = x.cy ∧
    y.cz = x.cz ∧ y.rad = x.rad ∧ ∀ k, k < 256 → AMap.get 0 y.c k = AMap.get 0 x.c k)) ∧
  (let sum (start : FX) (l : List MIdx) (f : MIdx → FX) : FX := l.foldl (fun s i => xadd s (f i)) start
  let or (l : List MIdx) (f : MIdx → FX) : Flags := l.foldl (fun g i => g ||| (f i).2) 0
  let power (v : FX) (k : Nat) : FX := (List.range k).foldl (fun r _ => xmul r v) xone
  let pwr (d : Vec3) (i : MIdx) : FX := xmul (xmul (power d.x i.a) (power d.y i.b)) (power d.z i.c)
  let minus (u w : Vec3) : Vec3 := { x := xsub u.x w.x, y := xsub u.y w.y, z := xsub u.z w.z }
  let square (d : Vec3) : FX := xadd (xadd (xmul d.x d.x) (xmul d.y d.y)) (xmul d.z d.z)
  let raised (d : Vec3) : Flags := d.x.2 ||| d.y.2 ||| d.z.2
  -- a register whose coefficients of G(P) are replaced by f, and nothing else
  let becomes (r : XReg × Flags) (d : XReg) (f : MIdx → FX) (more : Flags) : Prop :=
    (∀ i ∈ graded d.p, AMap.get 0 r.1.c i.idx = (f i).1) ∧
    (∀ k, tcount d.p ≤ k → AMap.get 0 r.1.c k = AMap.get 0 d.c k) ∧ r.2 = or (graded d.p) f ||| more ∧
    r.1.localKind = d.localKind ∧ r.1.p = d.p ∧ r.1.centre = d.centre ∧ r.1.rad = d.rad
  (∀ x y : FX, xadd x y = ((fadd32 x.1 y.1).1, x.2 ||| y.2 ||| (fadd32 x.1 y.1).2) ∧
    xsub x y = ((fsub32 x.1 y.1).1, x.2 ||| y.2 ||| (fsub32 x.1 y.1).2) ∧
    xmul x y = ((fmul32 x.1 y.1).1, x.2 ||| y.2 ||| (fmul32 x.1 y.1).2) ∧
    xdiv x y = ((fdiv32 x.1 y.1).1, x.2 ||| y.2 ||| (fdiv32 x.1 y.1).2) ∧
    xsqrt x = ((fsqrt32 x.1).1, x.2 ||| (fsqrt32 x.1).2)) ∧
  (∀ m, m ≤ 10 → (graded m).map MIdx.idx = List.range ((m + 1) * (m + 2) * (m + 3) / 6) ∧
    (graded m).Pairwise (fun x y => x.deg < y.deg ∨ (x.deg = y.deg ∧ (y.a < x.a ∨ (y.a = x.a ∧ y.b < x.b)))) ∧
    ∀ a b c, ({ a := a, b := b, c := c } : MIdx) ∈ graded m ↔ a + b + c ≤ m) ∧
  (∀ (d : XReg) (y : Vec3) (q : FX), d.p ≤ 9 → let v := minus y d.centre
    becomes (formOne d y q) d (fun i => xadd (d.coef i) (xdiv (xmul q (pwr v i)) (xint i.fac))) (raised v)) ∧
  (∀ d a : XReg, d.p ≤ 9 → let h := minus a.centre d.centre
    becomes (xpShiftM d a) d (fun i => sum (d.coef i) ((graded d.p).filter (fun j => j.a ≤ i.a ∧ j.b ≤ i.b ∧ j.c ≤ i.c))
      (fun j => xmul (a.coef j) (xdiv (pwr h (i.sub j)) (xint (i.sub j).fac)))) (raised h)) ∧
  (∀ d a : XReg, d.p ≤ 9 → let h := minus d.centre a.centre
    becomes (xpShiftL d a) d (fun j => sum (d.coef j) ((graded d.p).filter (fun i => j.a ≤ i.a ∧ j.b ≤ i.b ∧ j.c ≤ i.c))
      (fun i => xmul (xmul (a.coef i) (xint (binomIdx i j))) (pwr h (i.sub j)))) (raised h)) ∧
  (∀ d a : XReg, d.p ≤ 9 → let tc := tcoef (minus d.centre a.centre) d.p
    becomes (xpToLocal d a) d (fun j =>
      let acc := sum xzero (graded (d.p - j.deg)) (fun i =>
        xmul (xmul (a.coef i) (xint ((i.add j).fac / j.fac))) (AMap.get xzero tc (i.add j).idx))
      xadd (d.coef j) (if j.deg % 2 = 1 then (acc.1 ^^^ 0x80000000, acc.2) else acc)) tc.flags) ∧
  (∀ (v : Vec3) m, m ≤ 10 → let t := tcoef v m
    let r2 := square v
    AMap.get xzero t 0 = xdiv xone (xsqrt r2) ∧
    (∀ n ∈ graded m, 1 ≤ n.deg → AMap.get xzero t n.idx =
      let s1 := ((List.range 3).filter (fun i => 1 ≤ n.comp i)).foldl (fun s i =>
        xadd s (xmul (v.comp i) (AMap.get xzero t (n.sub (unitIdx i)).idx))) xzero
      let s2 := ((List.range 3).filter (fun i => 2 ≤ n.comp i)).foldl (fun s i =>
        xadd s (AMap.get xzero t ((n.sub (unitIdx i)).sub (unitIdx i)).idx)) xzero
      xdiv (xsub (xmul (xint (2 * n.deg - 1)) s1) (xmul (xint (n.deg - 1)) s2)) (xmul (xint n.deg) r2)) ∧
    ∀ k, t.flags.getLsbD k = true ↔ ∃ n ∈ graded m, (AMap.get xzero t n.idx).2.getLsbD k = true) ∧
  (∀ (x : XReg) (y : Vec3), x.p ≤ 9 → let u := minus y x.centre
    (x.localKind = true → let v := sum xzero (graded x.p) (fun i => xmul (x.coef i) (pwr u i))
      xpPotential x y = (v.1, v.2 ||| raised u) ∧
      xpGradient x y = (List.range 3).map (fun k =>
        let g := sum xzero ((graded x.p).filter (fun i => 1 ≤ i.comp k)) (fun i =>
          xmul (xmul (x.coef i) (xint (i.comp k))) (pwr u (i.sub (unitIdx k))))
        (g.1, g.2 ||| raised u))) ∧
    (x.localKind = false →
      (let t := tcoef u x.p
       let v := sum xzero (graded x.p) (fun i => xmul (xmul (x.coef i) (xint i.fac)) (AMap.get xzero t i.idx))
       xpPotential x y = (v.1, v.2 ||| t.flags)) ∧
      (let t := tcoef u (x.p + 1)
       xpGradient x y = (List.range 3).map (fun k =>
        let g := sum xzero (graded x.p) (fun i =>
          xmul (xmul (x.coef i) (xint (i.add (unitIdx k)).fac)) (AMap.get xzero t (i.add (unitIdx k)).idx))
        (g.1 ^^^ 0x80000000, g.2 ||| t.flags))))) ∧
  (∀ (t : Vec3) (acc : FX) (y : Vec3) (q : FX), let r2 := square (minus t y)
    nearOne t acc y q = if r2.1 = 0 ∨ r2.1 = 0x80000000 then acc else xadd acc (xdiv q (xsqrt r2))) ∧
  (∀ (a b : XReg) (theta : F32), let lhs := xadd (a.rad, 0) (b.rad, 0)
    let rhs := xmul (theta, 0) (xsqrt (square (minus a.centre b.centre)))
    xpAdmissible a b theta = (decide (Fmt.fp32.cmp lhs.1.toNat rhs.1.toNat = some .lt), lhs.2 ||| rhs.2)) ∧
  (∀ a b c n, let fac (k : Nat) : Nat := (List.range k).foldl (fun r j => r * (j + 1)) 1
    ({ a := a, b := b, c := c } : MIdx).fac = fac a * fac b * fac c ∧ (n ≤ 2 ^ 24 → ∃ m e, f32 (fint32 n) = .fin false m e ∧ scaled false m e (min e 0) = scaled false n 0 (min e 0))))

/-- R23, R180 and R296: a request is performed at its home or at the frozen thread's unit, and its reply completes the
parked instruction. R187: the deadline of a waiter at its home, and the cancel that an interruption sends. R52, R171,
R187, R240 and R367: an interruption of a parked instruction. It waits for a request that has left and cannot be
cancelled, and otherwise abandons the instruction, which leaves nothing at the divider, at the expansion unit or at a
home. A `vmem` that has stored some of its words is issued again as a whole. -/
def Obligations.RequestsArePerformedAndAnswered : Prop :=
  ((∀ (s : State) i, i = Instr.homeRequest ∨ i = Instr.slotWindowAccess → ∀ k p r l, k = s.arg 0 → p = s.arg 1 →
    AMap.has s.reqs k = true → r = s.req k → p < r.parts.length → AMap.has r.got p = false → l = r.parts.getD p 0 →
    (s.mayPerform k r p = false → let n := s.comeAt r p
      (s.shutFor n l none = none → exec i s = .next (s.after 8 i [k, p])) ∧
      (∀ h, s.shutFor n l none = some (.home h) → exec i s = .next ({ (s.startLimit r.thread k).setReq k
        { r with arrived := AMap.set r.arrived p n } with fresh := s.fresh + 1 }.after 8 i [k, p])) ∧
      (∀ f, s.shutFor n l none = some (.transit f) → exec i s =
        .next ({ s.setReq k { r with arrived := AMap.set r.arrived p n } with fresh := s.fresh + 1 }.after 8 i [k, p]))) ∧
    (s.mayPerform k r p = true → s.outOfReach l = false → s.feReady r.op l = false →
      ∃ s' : State, exec i s = .next s' ∧ s'.mem = s.mem ∧ k ∈ (s'.home (homeOf l)).waiters ∧ s'.reqs = s.reqs ∧
        s'.threads = (s.startLimit r.thread k).threads) ∧
    (s.mayPerform k r p = true → s.outOfReach l = true ∨ s.feReady r.op l = true → exec i s =
      .next (((s.performPart r.op p l).1.setReq k { r with
        got := AMap.set r.got p (s.performPart r.op p l).2, arrived := AMap.del r.arrived p }).answered k { r with
        got := AMap.set r.got p (s.performPart r.op p l).2, arrived := AMap.del r.arrived p }))) ∧
  (∀ (s : State) t k p, (s.th t).park = some p → p.await = .reply k → p.limit = none → p.due = none →
    (∀ a, s.rcbShut (s.th t).root (s.th t).rcb = some a →
      (s.startLimit t k).th t = { s.th t with park := some { p with due := some s.now } }) ∧
    (s.rcbShut (s.th t).root (s.th t).rcb = none →
      (s.waitLimNs t ≠ 0 → (s.startLimit t k).th t = { s.th t with
        park := some { p with limit := some (s.now + 8 * s.waitLimNs t), limNs := s.waitLimNs t } }) ∧
      (s.waitLimNs t = 0 → s.startLimit t k = s))) ∧
  (∀ (s : State) l k, Sound s l → s.outOfReach l = false →
    (∀ n sx d v w, v = s.read l n →
      w = (if sx && v.testBit (8 * n - 1) then BitVec.ofInt 64 ((v : Int) - 2 ^ (8 * n)) else BitVec.ofNat 64 v) →
      s.performPart (.load n sx d) k l = (s, { val := w })) ∧
    (∀ v, s.performPart (.store 8 v) k l = (s.putWord l v, {})) ∧
    (∀ n v, n < 8 → s.performPart (.store n v) k l = (s.write l n v.toNat, {}))) ∧
  (∀ (s : State) k r p, k = s.arg 0 → AMap.has s.reqs k = true → r = s.req k → r.complete = true →
    (s.th r.thread).park = some p → p.await = .reply k →
    (r.op ≠ .words → exec .memoryReply s = .next (applyRes (s.endReq k) r.thread p.instr
      (finishOp (s.endReq k) r.thread r.va r.op r.answers))) ∧
    (r.op = .words → (∀ a ∈ r.answers, a.poison = false) → exec .memoryReply s =
      .next (((s.endReq k).sendArgs r.thread p.instr (p.args ++ r.answers.map (·.val))).wake r.thread))) ∧
  (∀ (s : State) t va n sx d (a : Reply), a.poison = false →
    ∃ s', finishOp s t va (.load n sx d) [a] = .done s' ∧ s' = s.writeDest t d a.val) ∧
  (∀ (s : State) t va op (a : Reply), a.poison = true →
    finishOp s t va op [a] = .trap cPOISON (match op with | .store _ _ | .fes _ _ | .vstore _ | .post _ _ => 2 | _ => 1) va 0)) ∧
  ((∀ (s : State) k r, k = s.arg 0 → r = s.req k → s.waiting k = true →
    let h := homeOf (r.parts.headD 0)
    exec .feDeadline s = .next (((s.setHome h { s.home h with waiters := (s.home h).waiters.filter (· ≠ k) }).setReq k
      { r with got := [(0, { wst := some wstTIMEOUT })] }).push .memoryReply [k])) ∧
  (∀ (s : State) k, k = s.arg 0 → s.waiting k = false → exec .feDeadline s = .next s) ∧
  (∀ (s : State) t p k, t = s.arg 0 → (s.th t).park = some p → p.await = .reply k → s.waiting k = true →
    ∃ s' : State, exec .feCancel s = .next s' ∧
      k ∉ (s'.home (homeOf ((s.req k).parts.headD 0))).waiters ∧ AMap.has s'.reqs k = false ∧
      (s'.th t).status = .run ∧ (s'.th t).park = none ∧ (s'.th t).pc = (s.th t).pc ∧ s'.mem = s.mem)) ∧
  ((∀ (s : State) t, (s.th t).status ≠ .park → s.unpark t = some s) ∧
  (∀ (s : State) t p k, (s.th t).status = .park → (s.th t).park = some p →
    (p.await = .reply k ∧ s.cancellable k = false) ∨ p.await = .matrix k ∨ p.await = .dlgReply k ∨ p.await = .transit k ∨
      p.await = .egress k ∨ p.await = .sameWord k ∨ p.await = .window k ∨ (p.await = .home k ∧ p.instr = .tqDone ∧ p.args ≠ []) →
    s.unpark t = none) ∧
  (∀ (s : State) t p, (s.th t).status = .park → (s.th t).park = some p → s.mustWait t = false →
    ∃ s' : State, s.unpark t = some s' ∧ (s'.th t).status = .run ∧ (s'.th t).park = none ∧ (s'.th t).pc = (s.th t).pc ∧
      (s'.th t).regs = (s.th t).regs ∧ (s'.th t).st = (s.th t).st ∧ s'.mem = s.mem ∧
      (p.await = .divider → ∀ r ∈ (s'.core (unitOfThread t)).div, r.thread ≠ t) ∧
      (p.await = .xp → ∀ q ∈ (s'.core (unitOfThread t)).xpq, q.thread ≠ t) ∧
      (∀ k, p.await = .reply k → AMap.has s'.reqs k = false ∧ k ∉ (s'.home (homeOf ((s.req k).parts.headD 0))).waiters)) ∧
  (∀ (s : State) k, let r := s.req k
    (s.waiting k = true → s.cancellable k = true) ∧
    (s.waiting k = false → r.complete = true → s.cancellable k = false) ∧
    (∀ i, s.waiting k = false → i < r.parts.length → AMap.has r.got i = false →
      AMap.has r.arrived i = false ∨ s.closed (r.parts.getD i 0) none = none → s.cancellable k = false) ∧
    (∀ ds h q d w, r.op = .taken ds h q d w → s.waiting k = false → s.cancellable k = false) ∧
    ((∀ ds h q d w, r.op ≠ .taken ds h q d w) → r.complete = false →
      (∀ i, i < r.parts.length → AMap.has r.got i = false → AMap.has r.arrived i = true ∧ ∃ h,
        s.closed (r.parts.getD i 0) none = some (.home h)) → s.cancellable k = true)))

/-- R181 and R201: the reply of an RLX load writes its pending register, in the slot and in a context message that
carries the thread, poisons it, is forwarded, or is discarded; what goes to s0 is discarded. R182, R205, R297 and
R342: posted entries are acknowledged, refused, accepted into an egress queue and taken by the host. -/
def Obligations.RepliesLandAndPostedEntriesEnd : Prop :=
  ((∀ (s : State) k r, k = s.arg 0 → AMap.has s.reqs k = true → r = s.req k →
    let t := r.thread
    let here := (s.th t).uid = r.uid ∧ ∃ n, (n, k) ∈ (s.th t).pending
    (here → ∃ s' : State, exec .rlxLoadReply s = .next s' ∧ s'.mem = s.mem ∧ AMap.has s'.reqs k = false ∧
      ((s.th t).twin = none → s'.th t = (s.th t).land k r) ∧
      (∀ o sec, (s.th t).twin = some (o, sec) → o ≠ t → s'.th t = (s.th t).land k r ∧ s'.th o = (s.th o).land k r) ∧
      (∀ n m, (s.th t).msg = some n → (n, m) ∈ s.msgs → (n, { m with thread := m.thread.land k r }) ∈ s'.msgs)) ∧
    (¬ here → (∃ t', (k, t') ∈ (s.core (unitOfThread t)).forward) →
      exec .rlxLoadReply s = .next (s.push .replyForward [k])) ∧
    (¬ here → (∀ t', (k, t') ∉ (s.core (unitOfThread t)).forward) → exec .rlxLoadReply s = .next (s.endReq k))) ∧
  (∀ (s : State) k r t', k = s.arg 0 → r = s.req k → s.placeOfUid r.uid = some t' → (s.th t').twin = none →
    ∃ s' : State, exec .replyForward s = .next s' ∧ s'.th t' = (s.th t').land k r ∧ AMap.has s'.reqs k = false ∧
      ∀ u t'', (k, t'') ∉ (s'.core u).forward) ∧
  (∀ (s : State) k r, k = s.arg 0 → r = s.req k → s.placeOfUid r.uid = none →
    ∃ s' : State, exec .replyForward s = .next s' ∧ s'.threads = s.threads ∧ AMap.has s'.reqs k = false ∧
      ∀ n m, (n, m) ∈ s.msgs → m.thread.uid = r.uid → (n, { m with thread := m.thread.land k r }) ∈ s'.msgs) ∧
  (∀ (th : Thread) k n sx d (r : Req) (a : Reply), r.op = .load n sx d → r.answers = [a] → (d.toNat, k) ∈ th.pending →
    let th' := th.land k r
    (∀ m, (m, k) ∉ th'.pending) ∧
    (a.poison = false → th'.reg d.toNat = (if d = 0 then 0 else a.val)) ∧
    (a.poison = true → th'.regs = th.regs ∧ (d ≠ 0 → (d.toNat, r.va) ∈ th'.poisoned) ∧ (d = 0 → th'.poisoned = th.poisoned)) ∧
    ∀ m, m ≠ d.toNat → th'.reg m = th.reg m)) ∧
  ((∀ (s : State), let u := s.arg 0
    let e := s.arg 1
    exec .postedAck s = .next (s.setCore u { s.core u with journal := AMap.del (s.core u).journal e })) ∧
  (∀ (s : State) u e x t, u = s.arg 0 → e = s.arg 1 → AMap.has (s.core u).journal e = true → x = s.jentry u e →
    s.placeOfUid x.uid = some t →
    ∃ (s' : State) (h : Held), exec .postedRefusal s = .next s' ∧ s'.mem = s.mem ∧
      (s'.jentry u e).refused = some (s.arg 2) ∧ (s'.th t).held = (s.th t).held ++ [h] ∧ h.cause = cPOSTREF ∧
      h.info = e + s.arg 2 * 256 ∧ h.addr = x.va ∧ h.data = x.pc ∧ h.entry = some (u, e)) ∧
  (∀ (s : State) u e k, u = s.arg 0 → e = s.arg 1 → s.reqOfEntry u e = some k →
    (s.earlier (s.req k).uid k ((s.req k).parts.map wordOf) = true →
      exec .egressAcceptance s = .next (s.after 8 .egressAcceptance s.ev)) ∧
    (s.earlier (s.req k).uid k ((s.req k).parts.map wordOf) = false → ∃ s' : State, exec .egressAcceptance s = .next s' ∧
      (s'.jentry u e).accepted = true ∧ s'.pkg.egress = s.pkg.egress.filter (· ≠ k) ++ [k] ∧ s'.mem = s.mem)) ∧
  (∀ (s : State) u e p k, u = s.arg 0 → e = s.arg 1 → p = s.arg 2 → s.reqOfEntry u e = some k →
    let r := s.req k
    let l := r.parts.getD p 0
    let y := s.performPart r.op p l
    let r' := { r with got := AMap.set r.got p y.2 }
    p < r.parts.length → AMap.has r.got p = false →
    (s.mayPerform k r p = false → exec .hostAcceptance s = .next (s.after 8 .hostAcceptance s.ev)) ∧
    (s.mayPerform k r p = true →
      (r'.complete = false → exec .hostAcceptance s = .next (y.1.setReq k r')) ∧
      (r'.complete = true → (∀ a ∈ r'.answers, a.poison = false) →
        exec .hostAcceptance s = .next ((y.1.endReq k).freeJournal u e)) ∧
      (r'.complete = true → (∃ a ∈ r'.answers, a.poison = true) →
        exec .hostAcceptance s = .next ((y.1.endReq k).refuse u e 2)))))

/-- R26, R27, R292 and R297: a trap freezes the thread with PC, registers and ST as they were, builds its record, and
sends it to the handler slot of the buddy, or to the fault domain where it is undeliverable; where a home holds up
HANDLER's read, it waits (R228). R327: the two copies of a twins' message, its kind, size, addresses and data, are
compared, and silence freezes both. -/
def Obligations.TrapsFreezeAndRecord : Prop :=
  ((∀ s : State, exec .trap s = .next (s.takeTrap (s.arg 0) (s.arg 1) (s.arg 2) (BitVec.ofNat 64 (s.arg 3))
    (BitVec.ofNat 64 (s.arg 4)) (BitVec.ofNat 32 (s.arg 5)))) ∧
  (∀ (s : State) t cause info addr data word, (s.th t).twin = none →
    let u := unitOfThread t
    let th := s.th t
    let s' := s.takeTrap t cause info addr data word
    let r := (s'.th t).record
    (slotOfThread t ≠ 63 ∨ isSkerry u = true →
      s'.th t = { th with status := .frozen, park := none, record := r, recEntry := none, yielding := false, retried := false,
                          matched := false, freezing := false } ∧
      r.cause = cause ∧ r.info = info ∧ r.addr = addr ∧ r.data = data ∧ r.word = word ∧ r.pc = th.pc ∧ r.rcb = th.rcb ∧
      r.st = th.st.toWord ∧ r.tid = s.tid t ∧ r.time = s.time (dieOf u) ∧ r.flags.getLsbD 0 = false ∧
      r.flags.getLsbD 1 = (th.st.ppFmt || th.st.ppRlx) ∧
      (let s0 := s.setTh t (s'.th t)
       let first := (s.core u).unsent = [] ∧ s0.rcbShut th.root th.rcb = none
       (∀ b h, first → s.buddy u = some b → effHandler s th.root th.rcb = some h → h ≠ 0 → rcbUsable s th.root th.rcb = true →
        s'.mem = s.mem ∧
        (Instr.trapRecordDelivery, [u]) ∈ s'.agenda ∧ ∃ d : Delivery, (s'.core u).resends = (s.core u).resends ++ [(b, d)] ∧
          d.record = r ∧ d.frozen = some t ∧ d.handler = h ∧ d.rcb = th.rcb ∧ d.root = th.root) ∧
       (s.buddy u = none ∨ effHandler s th.root th.rcb = some 0 ∨ rcbUsable s th.root th.rcb = false →
        (s'.core u).resends = (s.core u).resends) ∧
       (¬ first → s'.mem = s.mem ∧ (s'.core u).resends = (s.core u).resends ∧
        ∃ d : Delivery, (s'.core u).unsent = (s.core u).unsent ++ [d] ∧ d.record = r ∧ d.frozen = some t ∧ d.rcb = th.rcb ∧
          d.root = th.root))) ∧
    (slotOfThread t = 63 → isSkerry u = false → (s'.th t).status = .free)) ∧
  (∀ r : TrapRec, r.cause < 256 → r.info < 2 ^ 32 → r.words.length = 8 ∧
    (r.words.getD 0 0).toNat = r.flags.toNat * 2 ^ 40 + r.cause * 2 ^ 32 + r.tid.toNat % 2 ^ 32 ∧
    (r.words.getD 2 0).toNat = r.word.toNat * 2 ^ 32 + r.info ∧ r.words.getD 1 0 = r.pc ∧ r.words.getD 3 0 = r.addr ∧
    r.words.getD 4 0 = r.time ∧ r.words.getD 5 0 = r.rcb ∧ r.words.getD 6 0 = r.data ∧ r.words.getD 7 0 = r.st)) ∧
  ((∀ (s : State) t o i, (s.th t).twin = some (o, false) → sendsMessage i = true → (s.th t).matched = false →
    ∃ s' : State, pairGate s t i = some s' ∧ (s'.th t).status = .park ∧ s'.mem = s.mem ∧
      (AMap.get { primary := t, secondary := o } s'.pairs t).hashP = some (Config.pairHash (messageOf s t i))) ∧
  (∀ (s : State) t i j, messageKind i (s.th t).st.ppRlx = messageKind j (s.th t).st.ppRlx → messageSize i = messageSize j →
    (accessVas s t i).map (·.1) = (accessVas s t j).map (·.1) → messageData s t i = messageData s t j →
    messageOf s t i = messageOf s t j) ∧
  (∀ (s : State) t m x y, t = s.arg 0 → s.pairs.find? (fun p => p.1 = t) = some (t, m) → m.hashP = some x →
    m.hashS = some y →
    ((∀ p, (s.th t).park = some p → p.await ≠ .xp) → x = y → ∃ s' : State, exec .pairMessageMatch s = .next s' ∧
      s'.resume = some t ∧ (s'.th t).matched = true ∧ (s'.th t).status = .run ∧ s'.mem = s.mem) ∧
    (∀ p, (s.th t).park = some p → p.await = .xp → x = y → ∃ s' : State, exec .pairMessageMatch s = .next s' ∧
      (∀ z, z = t ∨ z = m.secondary → ∀ q ∈ (s'.core (unitOfThread z)).xpq, q.thread = z → q.opened = true) ∧
      s'.pairs = AMap.del s.pairs t ∧ s'.mem = s.mem) ∧
    (x ≠ y → exec .pairMessageMatch s = .next
      (({ s with pairs := AMap.del s.pairs t }.abandon t).takeTrap t cPAIRDIFF 0 0 0 (s.parkWord t)))) ∧
  (∀ (s : State) t m, t = s.arg 0 → s.pairs.find? (fun p => p.1 = t) = some (t, m) →
    (m.ticket = s.arg 1 → (m.hashP.isNone = true ∨ m.hashS.isNone = true) → exec .pairSilence s = .next
      (({ s with pairs := AMap.del s.pairs t }.abandon t).takeTrap t cPAIRDIFF 0 0 0 (s.parkWord t))) ∧
    (m.ticket ≠ s.arg 1 → exec .pairSilence s = .next s)) ∧
  (∀ (s : State) t o cause info addr data word, (s.th t).twin = some (o, false) → t ≠ o → (slotOfThread t ≠ 63 ∨
      isSkerry (unitOfThread t) = true) →
    let s' := s.takeTrap t cause info addr data word
    (s'.th t).status = .frozen ∧ (s'.th o).status = .frozen ∧ (s'.th t).record.cause = cause) ∧
  (∀ (s : State) t o cause info addr data word, (s.th t).twin = some (o, true) → t ≠ o → (slotOfThread o ≠ 63 ∨
      isSkerry (unitOfThread o) = true) →
    let s' := s.takeTrap t cause info addr data word
    (s'.th t).status = .frozen ∧
    (s.mustWait o = false → (s'.th o).status = .frozen ∧ (s'.th o).record.cause = cPAIRDIFF) ∧
    (s.mustWait o = true → s'.th o = { s.th o with freezing := true })) ∧
  (∀ (s : State) t o, (s.th t).twin = some (o, false) → t ≠ o →
    let s' := s.resumeFrozen t
    s'.th t = { s.th t with status := .run, park := none, record := {}, recEntry := none } ∧
    (s'.th o).regs = (s.th t).regs ∧ (s'.th o).pc = (s.th t).pc ∧ (s'.th o).st = (s.th t).st ∧
    (s'.th o).matched = (s.th t).matched ∧ (s'.th o).lastIssue = (s.th o).lastIssue ∧ (s'.th o).base = (s.th o).base ∧
    (s'.th o).twin = some (t, true)))

/-- R291: one held cause is taken at a step boundary, POSTREF before ENGFAULT and the older first. R293, R295, R310,
R325 and R368: a record whose time has come is accepted by the buddy's queue, or kept for another microsecond, and
holds back no other; the oldest accepted one fills the handler slot when that is free, unless its region's RCB stands
at a closed home or is no longer usable. Log 37 (DEDUCED): the record of a contained region is dropped. -/
def Obligations.HeldCausesAndRecordsAreDelivered : Prop :=
  (∀ (s : State) t h, t = s.arg 0 → (s.th t).status = .run → (s.th t).park = none →
    ((s.th t).held.find? (fun x => x.cause = cPOSTREF) = some h ∨
      ((s.th t).held.find? (fun x => x.cause = cPOSTREF) = none ∧ (s.th t).held.head? = some h)) →
    exec .asyncCauseTaken s = .next ((s.setTh t { s.th t with held := (s.th t).held.erase h }).takeTrap t h.cause h.info
      h.addr h.data 0 true h.entry (if h.jlost then recJLOST else 0))) ∧
  ((∀ (s : State) i u b d, (i = Instr.trapRecordDelivery ∧ s.arg 1 ≠ 1) ∨ (i = Instr.trapRecordResend ∧ s.ev.length = 1) → u = s.arg 0 →
    (s.core u).resends = [(b, d)] →
    (d.due ≤ s.now → (s.core b).deliveries.length < 4 → ∃ s' : State, exec i s = .next s' ∧ (s'.core u).resends = [] ∧
      (s'.core b).deliveries = (s.core b).deliveries ++ [{ d with due := 0 }] ∧ (Instr.handlerFill, [b]) ∈ s'.agenda) ∧
    (d.due ≤ s.now → 4 ≤ (s.core b).deliveries.length → ∃ s' : State, exec i s = .next s' ∧
      (s'.core u).resends = [(b, { d with due := s.now + 8000 })] ∧ (s'.core b).deliveries = (s.core b).deliveries ∧
      (s.now + 8000, Instr.trapRecordResend, [u]) ∈ s'.timers) ∧
    (s.now < d.due → ∃ s' : State, exec i s = .next s' ∧ (s'.core u).resends = [(b, d)] ∧
      (s'.core b).deliveries = (s.core b).deliveries)) ∧
  (∀ (s : State) i u b d, (i = Instr.trapRecordDelivery ∧ s.arg 1 ≠ 1) ∨ (i = Instr.trapRecordResend ∧ s.ev.length = 1) → u = s.arg 0 →
    (b, d) ∈ (s.core u).resends → (s.now < d.due → ∃ s' : State, exec i s = .next s' ∧ (b, d) ∈ (s'.core u).resends) ∧
    (d.due ≤ s.now → ∃ s' : State, exec i s = .next s' ∧ ({ d with due := 0 } ∈ (s'.core b).deliveries ∨
      (b, { d with due := s.now + 8000 }) ∈ (s'.core u).resends))) ∧
  (∀ (s : State) u d rest, u = s.arg 0 → s.arg 1 = 1 → (s.core u).unsent = d :: rest →
    (∀ a, s.rcbShut d.root d.rcb (s.numberAt 2) = some a →
      exec .trapRecordDelivery s = .next (s.tryAgain .trapRecordDelivery [u, 1] a)) ∧
    (rest = [] → s.rcbShut d.root d.rcb (s.numberAt 2) = none →
      let t := s.setCore u { s.core u with unsent := [] }
      exec .trapRecordDelivery s = .next (t.route u d)) ∧
    (∀ b h, s.buddy u = some b → effHandler s d.root d.rcb = some h → h ≠ 0 → rcbUsable s d.root d.rcb = true →
      s.route u d = (s.setCore u { s.core u with resends := (s.core u).resends ++ [(b, { d with handler := h })] }).push
        .trapRecordDelivery [u])) ∧
  (∀ (s : State) u d rest, u = s.arg 0 → (s.core u).deliveries = d :: rest →
    let t := u * 64 + 63
    let s0 := s.setCore u { s.core u with deliveries := rest }
    ((s.th t).status ≠ .free → exec .handlerFill s = .next s) ∧
    (∀ a, (s.th t).status = .free → s.rcbShut d.root d.rcb (s.numberAt 1) = some a →
      exec .handlerFill s = .next (s.tryAgain .handlerFill [u] a)) ∧
    ((s.th t).status = .free → s.rcbShut d.root d.rcb (s.numberAt 1) = none → s.isContained d.root d.rcb = true →
      exec .handlerFill s = .next (s0.push .handlerFill [u])) ∧
    ((s.th t).status = .free → s.rcbShut d.root d.rcb (s.numberAt 1) = none → s.isContained d.root d.rcb = false →
      rcbUsable s d.root d.rcb = false → exec .handlerFill s = .next ((s0.postFault d.root d.rcb d.record).push .handlerFill [u])) ∧
    ((s.th t).status = .free → s.rcbShut d.root d.rcb (s.numberAt 1) = none → s.isContained d.root d.rcb = false →
      rcbUsable s d.root d.rcb = true → ∃ s' : State, exec .handlerFill s = .next s' ∧ (s'.core u).deliveries = rest ∧
      (s'.th t).status = .run ∧ (s'.th t).pc = d.handler ∧ (s'.th t).st.mode = true ∧ (s'.th t).lim = 16 ∧
      (s'.th t).rcb = d.rcb ∧ (s'.th t).root = d.root ∧ (s'.th t).record = d.record ∧ (s'.th t).handles = d.frozen ∧
      (s'.th t).pageReq = d.command ∧ (s'.th t).task = 0 ∧ (s'.th t).seq = 0 ∧
      ∀ n, (s'.th t).reg n = (if n = 3 then BitVec.ofNat 64 d.record.cause
        else if n = 4 then (if d.frozen.isSome then d.record.pc else 0)
        else if n = 5 then windowAddr (dieOf u) (clusterOf u) (coreOf u) 0x6000 else 0))))

/-- R296 and R300: what the slot window shows of the frozen thread and what a store to it changes. R300 and R301:
`sys.tres` and `sys.tkill`. -/
def Obligations.HandlersResumeAndKill : Prop :=
  (∀ (s : State) (h t : Nat), (s.th h).handles = some t →
    let th := s.th t
    let shows (o : Nat) (v : Word) : Prop := s.windowRead h o = v
    let puts (o : Nat) (v : Word) (th' : Thread) : Prop := s.windowWrite h o v = s.setTh t th'
    (∀ n, n < 112 → (n < th.lim → shows (8 * n) (th.reg n)) ∧ (th.lim ≤ n → shows (8 * n) 0)) ∧
    shows 0x380 th.pc ∧ shows 0x388 th.st.toWord ∧ shows 0x390 (th.rnd.zeroExtend 64) ∧
    shows 0x398 (th.live.zeroExtend 64) ∧ shows 0x3A0 th.rcb ∧ shows 0x3A8 th.task ∧ shows 0x3B0 th.seq ∧
    shows 0x3B8 (s.tid t) ∧ shows 0x3C0 (BitVec.ofNat 64 th.lim) ∧
    (∀ k, k < 8 → shows (0x400 + 8 * k) ((s.th h).record.words.getD k 0)) ∧
    (∀ n v, 0 < n → n < 112 → n < th.lim → puts (8 * n) v (th.setReg n v)) ∧
    (∀ v, puts 0x380 v { th with pc := v &&& ~~~3 } ∧ puts 0x388 v { th with st := St.ofWord v } ∧
      puts 0x390 v { th with rnd := v.truncate 2 } ∧ puts 0x398 v { th with live := v.truncate 15 }) ∧
    (∀ o v, 0x3A0 ≤ o → s.windowWrite h o v = s)) ∧
  ((∀ s, Ready .sysTres s →
    (inHandler s.focus = false → Completes .sysTres s (s.say wstREFUSED)) ∧
    (inHandler s.focus = true → s.posted s.focus ≠ [] → ParksOn .sysTres s (.drain 2 false) none) ∧
    (∀ t, inHandler s.focus = true → s.posted s.focus = [] → (me s).handles = some t → (me s).pageReq = none →
      (s.th t).status = .frozen → (s.th t).recEntry = none → (s.th t).twin = none → exec .sysTres s =
      .next ((s.setTh t { s.th t with status := .run, park := none, record := {}, recEntry := none }).freeSlot s.focus)) ∧
    (∀ t u e, inHandler s.focus = true → s.posted s.focus = [] → (me s).handles = some t → (me s).pageReq = none →
      (s.th t).status = .frozen → (s.th t).recEntry = some (u, e) → ∃ s' : State, exec .sysTres s = .next s' ∧
      AMap.has (s'.core u).journal e = false)) ∧
  (∀ s a, let i := Instr.sysTkill a
    let v := src i s 0
    Ready i s →
    (inHandler s.focus = false ∨ 2 ≤ v.toNat → Completes i s (s.say wstREFUSED)) ∧
    (inHandler s.focus = true → v.toNat < 2 → s.posted s.focus ≠ [] → ParksOn i s (.drain 2 false) none) ∧
    (∀ h, inHandler s.focus = true → v.toNat < 2 → s.posted s.focus = [] → (me s).handles = some h →
      ((s.th h).status ≠ .frozen → exec i s = .next ((s.consume s.focus i).freeSlot s.focus)) ∧
      ((s.th h).status = .frozen → (s.slotsOfPair h).all s.settledPosts = false → ParksOn i s (.otherPosted h) none) ∧
      ((s.th h).status = .frozen → (s.slotsOfPair h).all s.settledPosts = true → exec i s =
        .next (((s.consume s.focus i).kill h (v.getLsbD 0) (s.th h).record).freeSlot s.focus)))) ∧
  (∀ (s : State) h replay r, (s.th h).twin = none → inServer h = false → (s.th h).task = 0 →
    ((s.kill h replay r).th h).status = .free))

/-- R316 and R317: `sys.pre` with no target, a target it refuses, one that it must wait for and takes out of rotation
meanwhile, and a target at rest, whose record and cached context hold the thread. Log 35 (DEDUCED): the record stands
in memory whole in the step of sys.pre, where R316 gives the cache 2 us. R315, R316 and R318: a restore reads the
thread from its record, or takes the unit's cached copy, and clears USED; what it refuses, and where it waits for a
home. R199 and R200: a buffered context that has waited is spilled, and spilled records are restored when a slot is
free. Log 56 (DESIGN CHOICE): a spill that is refused is tried again after 2 us more, with a report of its own; the
spill of a contained region leaves no entry of its area. -/
def Obligations.ThreadsAreSavedAndRestored : Prop :=
  (∀ s d a b, let i := Instr.sysPre d a b
    let v := (src i s 0).toNat
    let r := src i s 1
    let u := here s
    let t := u * 64 + v % 64
    let th := s.th t
    let n := s.arrivalOf s.focus
    let out (a : Await) : Prop := ∃ s1 : State, exec i s = .next s1 ∧ (s1.th t).stopped = some s.focus ∧
      (s1.th t).regs = th.regs ∧ (s1.th t).status = th.status ∧ (s1.th s.focus).status = .park ∧
      (∃ p, (s1.th s.focus).park = some p ∧ p.await = a ∧ p.instr = i) ∧ s1.mem = s.mem
    let refuses (c : Word) : Prop := ∃ s1 : State, Completes i s (s1.give d c wstREFUSED) ∧
      s1.th t = { th with stopped := none } ∧ s1.mem = s.mem
    Ready i s →
    (2 ^ 7 ≤ v → Completes i s ((s.letGo s.focus).give d 1 wstREFUSED)) ∧
    (64 ≤ v → v < 128 → r = 0 → Completes i s (s.give d 0 wstOK)) ∧
    (64 ≤ v → v < 128 → r ≠ 0 → s.restore n u (me s).root r = .fails → Completes i s (s.give d 6 wstREFUSED)) ∧
    (∀ a, 64 ≤ v → v < 128 → r ≠ 0 → s.restore n u (me s).root r = .shut a → ParksOn i s a none) ∧
    (∀ s1, 64 ≤ v → v < 128 → r ≠ 0 → s.restore n u (me s).root r = .ok s1 → Completes i s (s1.give d 0 wstOK)) ∧
    (v < 64 → slotsOf u ≤ v ∨ t = s.focus ∨ v = reservedSlot u ∨ th.twin.isSome = true ∨ th.status = .free ∨
      th.status = .frozen ∨ th.status = .migrating → Completes i s ((s.letGo s.focus).give d 1 wstREFUSED)) ∧
    (v < 64 → v < slotsOf u → t ≠ s.focus → v ≠ reservedSlot u → th.twin = none →
      (th.status = .run → th.pending ≠ [] ∨ s.settledPosts t = false → out (.otherPosted t)) ∧
      (s.mustWait t = true → out (.otherPosted t)) ∧
      (th.status = .run → th.pending = [] → s.posted t = [] → th.held = [] →
        let scan (base len : Word) : Scan := scanFree s n th.root base (len.toNat / 1024)
        (∀ a, s.rcbShut th.root th.rcb n = some a → out a) ∧
        (s.rcbShut th.root th.rcb n = none → saveArea s th.root th.rcb = none → refuses 2) ∧
        (∀ base len, s.rcbShut th.root th.rcb n = none → saveArea s th.root th.rcb = some (base, len) →
          (scan base len = .full → refuses 3) ∧ (scan base len = .fault → refuses 4) ∧
          (∀ a, scan base len = .shut a → out a) ∧
          (∀ va leaf lvl, scan base len = .found va leaf lvl → r = 0 →
            ∃ s1 : State, Completes i s (s1.give d va wstOK) ∧ (s1.th t).status = .free ∧
              s1.mem = ((savedFields th (s.tid t) []).foldl (fun (x : State) p =>
                x.putWord (locOfLeaf (va + BitVec.ofNat 64 p.1) leaf lvl) p.2)
                (s.putWord (locOfLeaf va leaf lvl) (BitVec.ofNat 64 (2 ^ 63 + th.lim)))).mem ∧
              ∃ c ∈ (s1.core u).cache, c.va = va ∧ c.cached = true ∧ c.thread = { th with
                held := [], lastIssue := none, retried := false, stopped := none, ahead := [], landed := none }))))) ∧
  (∀ (s : State) n u root r leaf lvl, walk s root r = some (leaf, lvl) → isCanonical r = true →
    let loc (o : Nat) : Nat := locOfLeaf (r + BitVec.ofNat 64 o) leaf lvl
    let w (o : Nat) : Word := s.read64 (loc o)
    let fits (rcb : Word) (lim k b : Nat) : Prop := rcbUsable s root rcb = true ∧ (∃ base len,
      saveArea s root rcb = some (base, len) ∧ base.toNat ≤ r.toNat ∧ r.toNat + 1024 ≤ base.toNat + len.toNat) ∧
      unitInBudget s u root rcb = true ∧ lim % 8 = 0 ∧ 8 ≤ lim ∧ lim ≤ 112 ∧ s.fillPlace u lim root rcb false = some (k, b)
    (r.toNat % 1024 ≠ 0 → s.restore n u root r = .fails) ∧
    (r.toNat % 1024 = 0 → s.recordLost (loc 0) = true → s.restore n u root r = .fails) ∧
    (r.toNat % 1024 = 0 → s.recordLost (loc 0) = false →
      let shut := (s.recordShut n r leaf lvl).or (s.rcbShut root (s.savedContext u loc root).rcb n)
      (∀ a, shut = some a → s.restore n u root r = .shut a) ∧
      (shut = none →
        (leaf.getLsbD 3 = false ∨ leaf.getLsbD 4 = false ∨ (w 0).getLsbD 63 = false → s.restore n u root r = .fails) ∧
        (∀ k b, leaf.getLsbD 3 = true → leaf.getLsbD 4 = true → (w 0).getLsbD 63 = true → s.savedRecord (loc 0) = none →
          fits (w 0x3A0) ((w 0).toNat % 128) k b →
          ∃ s' : State, s.restore n u root r = .ok s' ∧ s'.read64 (loc 0) = w 0 &&& 0x7FFFFFFFFFFFFFFF ∧
            let th := s'.th (u * 64 + k)
            let lim := (w 0).toNat % 128
            th.status = .run ∧ th.lim = lim ∧ th.base = b ∧ th.rcb = w 0x3A0 ∧ th.root = root ∧
            th.pc = w 0x380 ∧ th.st = St.ofWord (w 0x388) ∧ th.rnd = (w 0x390).truncate 2 ∧
            th.live = (w 0x398).truncate 15 ∧ th.task = w 0x3A8 ∧ th.seq = w 0x3B0 ∧
            (∀ j, 0 < j → j < lim → th.reg j = w (8 * j))) ∧
        (∀ c k b, leaf.getLsbD 3 = true → leaf.getLsbD 4 = true → (w 0).getLsbD 63 = true →
          (s.core u).cache.find? (fun c => c.loc = loc 0 && c.cached) = some c → c.thread.park = none →
          (∀ x, s.savedRecord (loc 0) = some x → x.thread.park = none) → fits c.thread.rcb c.thread.lim k b →
          ∃ s' : State, s.restore n u root r = .ok s' ∧ s'.read64 (loc 0) = w 0 &&& 0x7FFFFFFFFFFFFFFF ∧
            let th := s'.th (u * 64 + k)
            th.status = .run ∧ th.base = b ∧ th.root = root ∧ th.lim = c.thread.lim ∧ th.rcb = c.thread.rcb ∧
            th.pc = c.thread.pc ∧ th.st = c.thread.st ∧ th.regs = c.thread.regs ∧ th.poisoned = c.thread.poisoned ∧
            th.held = c.thread.held ∧ th.task = c.thread.task ∧ th.seq = c.thread.seq)))) ∧
  ((∀ (s : State) u, s.ev = [u] →
    (s.overdue u = [] → exec .inboundSpill s = .next s) ∧
    (∀ k m, s.overdue u = [(k, m)] → m.thread.pending ≠ [] → exec .inboundSpill s = .next (s.after 8 .inboundSpill [u])) ∧
    (∀ k m, s.overdue u = [(k, m)] → m.thread.pending = [] → s.spillWaits u k = false →
      (∀ a, s.rcbShut m.thread.root m.thread.rcb = some a →
        exec .inboundSpill s = .next (s.tryAgain .inboundSpill [u, k] a)) ∧
      (s.rcbShut m.thread.root m.thread.rcb = none → saveArea s m.thread.root m.thread.rcb = none → ∃ s' : State,
        exec .inboundSpill s = .next s' ∧ k ∈ (s'.core u).inbound ∧ (s'.core u).spill = (s.core u).spill ∧
        (∃ x, s'.message k = some x ∧ x.thread = m.thread) ∧ (s.now + 16000, .inboundSpill, [u]) ∈ s'.timers)) ∧
    (∀ k m base len va leaf lvl areas, (s.overdue u).filter (fun x => x.2.thread.pending.isEmpty) = [(k, m)] →
      m.thread.held = [] → s.spillWaits u k = false → s.rcbShut m.thread.root m.thread.rcb = none →
      saveArea s m.thread.root m.thread.rcb = some (base, len) →
      scanFree s (fun _ => s.fresh) m.thread.root base (len.toNat / 1024) = .found va leaf lvl →
      withArea (s.core u).spill base len m.thread.root m.thread.rcb = some areas →
      ∃ s' : State, exec .inboundSpill s = .next s' ∧ AMap.has s'.msgs k = false ∧ k ∉ (s'.core u).inbound ∧
        (s'.core u).spill = (if s.isContained m.thread.root m.thread.rcb = true
          then areas.filter (fun a => !(a.base = base && a.len = len && a.root = m.thread.root)) else areas) ∧ (∃ c ∈ (s'.core u).cache, c.va = va ∧ c.thread = { m.thread with
          held := [], lastIssue := none, retried := false, stopped := none, ahead := [], landed := none }) ∧
        ∀ x ∈ s.overdue u, x.2.thread.pending ≠ [] → x.1 ∈ (s'.core u).inbound)) ∧
  (∀ (s : State) u k m, (k, m) ∈ s.overdue u ↔
    k ∈ (s.core u).inbound ∧ s.message k = some m ∧ m.arrived + 16000 ≤ s.now) ∧
  (∀ (s : State) u areas, u = s.arg 0 →
    let s1 := s.setCore u { s.core u with spill := areas }
    let found := scanAreas s (s.numberAt 1) (tidOfPlace s.pkg.device (u * 64)) (s.core u).spill
    (found = (areas, .ok none) → exec .spillRestore s = .next s1) ∧
    (∀ a, found = (areas, .error a) → exec .spillRestore s = .next (s1.tryAgain .spillRestore [u] a)) ∧
    (∀ root va s2, found = (areas, .ok (some (root, va))) →
      (s1.restore (s1.numberAt 1) u root va = .ok s2 → exec .spillRestore s = .next s2) ∧
      (s1.restore (s1.numberAt 1) u root va = .fails → exec .spillRestore s = .next s1) ∧
      (∀ a, s1.restore (s1.numberAt 1) u root va = .shut a →
        exec .spillRestore s = .next (s1.tryAgain .spillRestore [u] a)))))

/-- R325 and R350: a containment is queued or dropped, stops the subtree's threads in rounds, and is lifted. Log 33
(DEDUCED): the RCB passes R140 if it does under a root that something on the device holds or has held. Log 37
(DEDUCED): the rounds of a containment. -/
def Obligations.ContainmentsAreQueuedAndCarriedOut : Prop :=
  (∀ s : State, let w := BitVec.ofNat 64 (s.arg 0)
    let ok := s.rootsHeld.any (fun root => rcbOk s root (w &&& ~~~63))
    (s.pkg.bootState = 2 → exec .contWrite s = .next s) ∧
    (s.pkg.bootState ≠ 2 → 8 ≤ s.pkg.contQ.length → exec .contWrite s = .next (s.setPkg { s.pkg with cstatErr := 1 })) ∧
    (s.pkg.bootState ≠ 2 → s.pkg.contQ.length < 8 → ok = false → exec .contWrite s = .next (s.setPkg { s.pkg with cstatErr := 2 })) ∧
    (s.pkg.bootState ≠ 2 → s.pkg.contQ.length < 8 → ok = true → ∃ s' : State, exec .contWrite s = .next s' ∧
      s'.pkg.contQ = s.pkg.contQ ++ [w] ∧ s'.pkg.cstatErr = s.pkg.cstatErr ∧
      (∀ root ∈ s.rootsHeld, rcbOk s root (w &&& ~~~63) = true → root ∈ s'.pkg.roots) ∧ (s.pkg.contQ = [] → (Instr.containment, []) ∈ s'.agenda))) ∧
  (∀ (s : State) w rest, s.pkg.contQ = w :: rest →
    let top := w &&& ~~~63
    (w.getLsbD 0 = true → ∃ s' : State, exec .containment s = .next s' ∧ s'.pkg.contQ = rest ∧
      s'.pkg.contained = s.pkg.contained.filter (· ≠ top) ∧ s'.mem = s.mem ∧ s'.threads = s.threads ∧
      ∀ q, (s'.queue q).quarantined = true → (s'.queue q).configured = true ∧
        ∃ c ∈ s'.pkg.contained, rcbUnder s (s'.queue q).root c treeDepth (s'.queue q).rcb = true) ∧
    (w.getLsbD 0 = false → (s.containRound top).2 = false →
      exec .containment s = .next ((s.containRound top).1.after 8 .containment [])) ∧
    (w.getLsbD 0 = false → (s.containRound top).2 = true → ∃ s' : State, exec .containment s = .next s' ∧
      s'.mem = (s.containRound top).1.mem ∧ s'.threads = (s.containRound top).1.threads ∧ s'.pkg.contQ = rest)) ∧
  (∀ (s : State) top, (s.requarantine).threads = s.threads ∧ (top ∈ s.pkg.contained →
    ∀ q, (s.queue q).configured = true → rcbUnder s (s.queue q).root top treeDepth (s.queue q).rcb = true →
      ((s.requarantine).queue q).quarantined = true))

/-- R116, R152, R343 and R344: a submission is queued or dropped; the next record is read and checked once no home
holds it up, its tasks are pushed in order, each as a tq.push that may wait, and its threads filled; DONE advances
either way; a fill that has waited 1 ms fails. Log 38 (DEDUCED): a PARENT other than 0 gives LERR 1, a record that the
host aborts gives LERR 1, and the sixteen queued launches do not count the one in process. Log 46 (DESIGN CHOICE): a
launch starts its region's ENERGY at 0 unless a thread of the region is in a slot. -/
def Obligations.LaunchesPushAndFill : Prop :=
  (∀ s : State, s.pkg.bootState ≠ 2 →
    (16 ≤ s.pkg.launchQ.length → exec .ldoorWrite s = .next (s.setPkg { s.pkg with lerr := 6 })) ∧
    (s.pkg.launchQ.length < 16 → ∃ s' : State, exec .ldoorWrite s = .next s' ∧
      s'.pkg.launchQ = s.pkg.launchQ ++ [s.pkg.lrec] ∧ s'.pkg.submitted = (s.pkg.submitted + 1) % 2 ^ 16 ∧
      s'.pkg.doneCount = s.pkg.doneCount ∧ (s.pkg.launchQ = [] → s.pkg.launching = none →
        (Instr.launch, []) ∈ s'.agenda))) ∧
  (∀ (s : State) lrec rest, s.pkg.launching = none → s.pkg.launchQ = lrec :: rest →
    let took := s.takeRecord lrec
    (∀ a, took = .error a → exec .launch s = .next (s.tryAgain .launch [] a)) ∧
    (s.split = false → s.pkg.launchGot = [] → ∀ s0 got, took = .ok (s0, got) → s0 = s ∧ recordWhole got = true ∧
      ∀ o ∈ recordOffs got, AMap.get 0 got o = s.read64 (s.recordLoc lrec o)) ∧
    (∀ s0 got, took = .ok (s0, got) → let g := s0.setPkg { s0.pkg with launchGot := got }
      let taken := g.setPkg { g.pkg with launchQ := rest, launchGot := [] }
      let r := LRecord.ofWords got
      let key := g.rootKey r.root r.rcb
      (recordWhole got = false → exec .launch s = .next (g.push .launch [])) ∧
      (∀ a, recordWhole got = true → g.rcbShut r.root r.rcb (g.numberAt 0) = some a →
        exec .launch s = .next (g.tryAgain .launch [] a)) ∧
      (∀ e, recordWhole got = true → g.rcbShut r.root r.rcb (g.numberAt 0) = none → launchCheck g lrec got = some e →
        exec .launch s = .next (taken.endLaunch (some e))) ∧
      (recordWhole got = true → g.rcbShut r.root r.rcb (g.numberAt 0) = none → launchCheck g lrec got = none → ∃ s1 : State,
        exec .launch s = .next (s1.pushLaunch (r.tasks.length + 1)
          { root := r.root, rcb := r.rcb, tasks := r.tasks, threads := r.threads, since := s.now }) ∧
        s1.mem = s.mem ∧ s1.threads = s.threads ∧ s1.queues = s.queues ∧ r.root ∈ s1.pkg.roots ∧ s1.pkg.launchQ = rest ∧
        ((∀ x ∈ s.threads, x.2.status ≠ .free → g.rootKey x.2.root x.2.rcb ≠ key) → AMap.get 0 s1.pkg.energy key = 0) ∧
        (∀ k, k ≠ key → AMap.get 0 s1.pkg.energy k = AMap.get 0 s.pkg.energy k)))) ∧
  (∀ (s : State) x, s.pkg.launching = some x →
    (x.tasks ≠ [] → exec .launch s = .next (s.pushLaunch (x.tasks.length + 1) x)) ∧
    (x.tasks = [] → s.now < x.since + 8000000 → exec .launch s = .next (s.goOnLaunch x)) ∧
    (x.tasks = [] → x.since + 8000000 ≤ s.now → exec .launch s = .next (s.endLaunch (some 5)) ∧
      exec .launchFillTimeout s = .next (s.endLaunch (some 5))) ∧
    (x.tasks ≠ [] ∨ s.now < x.since + 8000000 → exec .launchFillTimeout s = .next s)) ∧
  (∀ (s : State) n x d h rest, x.tasks = (d, h) :: rest →
    (descLoc s x.root d = none → s.pushLaunch (n + 1) x = s.endLaunch (some 4)) ∧
    (∀ leaf l, descLoc s x.root d = some (leaf, l) →
      let took := s.readSome x.words descOffs (l + ·) (s.numberAt 0)
      (∀ a, took = .error a → s.pushLaunch (n + 1) x = (s.keepLaunch x).tryAgain .launch [] a) ∧
      (s.split = false → x.words = [] → ∀ s0 got, took = .ok (s0, got) → s0 = s ∧ got.length = 8 ∧
        ∀ j, j < 8 → AMap.get 0 got (8 * j) = s.read64 (l + 8 * j)) ∧
      (∀ s0 got, took = .ok (s0, got) → let y : Launch := { x with words := got }
        let ws := (List.range 8).map (fun j => AMap.get 0 got (8 * j))
        let shut := s0.launchShut (s0.numberAt 0) x.root h ws
        (got.length < 8 → s.pushLaunch (n + 1) x = (s0.keepLaunch y).push .launch []) ∧
        (∀ a, 8 ≤ got.length → shut = some a → s.pushLaunch (n + 1) x = (s0.keepLaunch y).tryAgain .launch [] a) ∧
        (8 ≤ got.length → shut = none → launchPush s0 x.root d h ws = none →
          s.pushLaunch (n + 1) x = s0.endLaunch (some 4)) ∧
        (∀ s1, 8 ≤ got.length → shut = none → launchPush s0 x.root d h ws = some s1 →
          (s0.split = false → s.pushLaunch (n + 1) x = s1.pushLaunch n { x with tasks := rest, words := [] }) ∧
          (s0.split = true → s.pushLaunch (n + 1) x =
            (s1.keepLaunch { x with tasks := rest, words := [] }).push .launch []) ∧
          leaf.getLsbD 3 = true ∧ pushCheckAt s0 noBuffer x.root h (TaskRec.ofWords 0 0 ws) = none ∧
          s0.pushTask (queueOfHandle h) ws = some ((s0.queue (queueOfHandle h)).next, s1))))) ∧
  (∀ (s : State) n x, x.tasks = [] → s.pushLaunch (n + 1) x = s.goOnLaunch { x with since := s.now }) ∧
  (∀ (s : State) x, (x.threads = [] → s.goOnLaunch x = s.endLaunch none) ∧
    (∀ a, x.threads ≠ [] → s.rcbShut x.root x.rcb (s.numberAt 0) = some a →
      s.goOnLaunch x = (s.keepLaunch x).tryAgain .launch [] a) ∧
    (∀ ws, x.threads = [ws] → s.rcbShut x.root x.rcb (s.numberAt 0) = none →
      (∀ s2, launchFill s x.root x.rcb (LThread.ofWords ws) = some s2 → s.goOnLaunch x = s2.endLaunch none) ∧
      (launchFill s x.root x.rcb (LThread.ofWords ws) = none → ∃ s2 : State, s.goOnLaunch x = s2 ∧
        s2.mem = s.mem ∧ s2.threads = s.threads ∧ s2.pkg.doneCount = s.pkg.doneCount ∧ s2.pkg.launching = some x ∧
        (Instr.launch, []) ∈ s2.timers.map (·.2) ∧ (Instr.launchFillTimeout, []) ∈ s2.timers.map (·.2)))) ∧
  (∀ (s : State) err, let s' := s.endLaunch err
    s'.pkg.launching = none ∧ s'.pkg.doneCount = (s.pkg.doneCount + 1) % 2 ^ 16 ∧ s'.pkg.lerr = err.getD s.pkg.lerr ∧
    s'.mem = s.mem ∧ s'.threads = s.threads) ∧
  (∀ (s : State) root rcb (x : LThread), s.fillBudget root rcb = none ∨ effSched s root rcb = none →
    launchFill s root rcb x = none) ∧
  (∀ (s : State) root rcb (x : LThread) d c j bud, x.place = some (d, c, j) → s.fillBudget root rcb = some bud →
    bud.hasCluster d c = false → launchFill s root rcb x = none) ∧
  (∀ (s : State) lrec got, (s.recordLocs lrec got).any s.hostAborts = true → launchCheck s lrec got = some 1) ∧
  (∀ (s : State) lrec got, let r := LRecord.ofWords got
    launchCheck s lrec got = none → rcbMaps s r.root r.rcb = true ∧ (∀ x ∈ r.tasks, launchMaps s r.root x.1 .r false = true) ∧
    ∀ ws ∈ r.threads, launchMaps s r.root (LThread.ofWords ws).entry .x (!regionMode s r.root r.rcb) = true) ∧
  (∀ (s : State) root va need user, launchMaps s root va need user = true ↔
    isCanonical va = true ∧ ∃ l, translate s noBuffer root va need user = .ok l) ∧
  (∀ (s : State) lrec got, let r := LRecord.ofWords got
    lrec.toNat / 2 ^ 48 % 2 ^ 12 = 0 → lrec.toNat % 64 = 0 →
    lrec.toNat / 2 ^ 60 < 12 ∨ lrec.toNat / 2 ^ 60 = 15 → (s.recordLocs lrec got).any s.hostAborts = false →
    r.zeros = true → r.threads = [] → r.tasks = [] →
    (rcbMaps s r.root r.rcb = false → launchCheck s lrec got = some 2) ∧
    (rcbMaps s r.root r.rcb = true → rcbOwn s r.root r.rcb 0 = none ∨ rcbOwn s r.root r.rcb 8 = none →
      launchCheck s lrec got = some 3) ∧
    (∀ parent rp, rcbMaps s r.root r.rcb = true → rcbOwn s r.root r.rcb 0 = some parent →
      rcbOwn s r.root r.rcb 8 = some rp →
      (parent ≠ 0 ∨ rp ≠ r.root → launchCheck s lrec got = some 1) ∧
      (parent = 0 → rp = r.root → rcbOk s r.root r.rcb = false → launchCheck s lrec got = some 3) ∧
      (parent = 0 → rp = r.root → rcbOk s r.root r.rcb = true → (effBudget s r.root treeDepth r.rcb).isSome = true →
        launchCheck s lrec got = none))) ∧
  (∀ (s : State) root rcb (x : LThread) t b, launchPlaces s root rcb x = [(t, b)] → (effSched s root rcb).isSome = true →
    ∃ s' : State, launchFill s root rcb x = some s' ∧ s'.mem = s.mem ∧
      let th := s'.th t
      th.status = .run ∧ th.pc = x.entry ∧ th.lim = x.regs ∧ th.base = b ∧ th.root = root ∧ th.rcb = rcb ∧ th.task = 0 ∧
      th.seq = 0 ∧ ∀ n, 0 < n → n < x.regs → th.reg n = (if 5 ≤ n ∧ n ≤ 8 then x.args.getD (n - 5) 0 else 0))

/-- R178, R210, R340, R341 and R356: the host reads and writes device memory at the home that IL 0 gives, waits at a
closed one, and fences its writes: one that arrives after a fence waits until the fence is answered. Log 34 (DEDUCED):
that an access outside the ranges stops with a fault is the model's. -/
def Obligations.HostAccessesReachTheirWord : Prop :=
  ∀ (s : State) ld off, ld = s.arg 0 → off = s.arg 1 →
    let l := placeDram s.pkg.device ld 0 (off / 8 * 8)
    let inRange := (ld < 8 ∧ off < 120 * 2 ^ 30) ∨ (8 ≤ ld ∧ ld < 12 ∧ off < 480 * 2 ^ 30)
    let waits (i : Instr) (args : List Nat) : Prop := ∃ s' : State, exec i s = .next s' ∧ s'.mem = s.mem ∧
      s'.pkg = s.pkg ∧ (s.now + 8, i, args) ∈ s'.timers
    let kr := s.ev.getD 2 s.fresh
    let kw := s.ev.getD 4 s.fresh
    let kf := s.ev.getD 0 s.fresh
    (¬ inRange → exec .hostMemRead s = .fault .noSuchAddress ∧ exec .hostMemWrite s = .fault .noSuchAddress) ∧
    (inRange → s.pkg.bootState = 2 → exec .hostMemRead s = .next s ∧ exec .hostMemWrite s = .next s) ∧
    (inRange → s.pkg.bootState ≠ 2 →
      (s.hostShut kr l = false → exec .hostMemRead s =
        .next (s.setPkg { s.pkg with hostData := s.read64 l, hostPoison := s.isPoison l 8 })) ∧
      (s.hostShut kr l = true → waits .hostMemRead (s.ev.take 2 ++ [kr, l])) ∧
      (s.fenced kw = true → waits .hostMemWrite (s.ev.take 4 ++ [kw])) ∧
      (s.fenced kw = false → s.hostShut kw l = true → waits .hostMemWrite (s.ev.take 4 ++ [kw, l])) ∧
      (s.fenced kw = false → s.hostShut kw l = false →
        (s.arg 2 = 255 → exec .hostMemWrite s = .next (s.putWord l (BitVec.ofNat 64 (s.arg 3)))) ∧
        (s.arg 2 < 255 → s.isPoison l 8 = true → exec .hostMemWrite s = .next s) ∧
        (s.arg 2 < 255 → s.isPoison l 8 = false → ∃ s' : State, exec .hostMemWrite s = .next s' ∧
          (∀ k, k < 8 → s'.read (l + k) 1 = (if (s.arg 2).testBit k then s.arg 3 / 256 ^ k % 256 else s.read (l + k) 1)) ∧
          ∀ a, a < l ∨ l + 8 ≤ a → s'.read a 1 = s.read a 1))) ∧
    (s.hostWriteBefore kf = false →
      exec .hfenceRead s = .next (s.setPkg { s.pkg with hostData := 0, hostPoison := false })) ∧
    (s.hostWriteBefore kf = true → waits .hfenceRead [kf]) ∧
    (∀ k, (s.fenced k = true ↔ ∃ t j rest, (t, Instr.hfenceRead, j :: rest) ∈ s.timers ∧ j < k) ∧
      (s.hostWriteBefore k = true ↔ ∃ t args, (t, Instr.hostMemWrite, args) ∈ s.timers ∧ args.getD 4 k < k))

/-- R337 to R339: the states of the Beacon, what TERR reads in each, and TIME, which no event but the lock from FREE
moves, which never decreases, and which is slewed by at most 200 ppm. Log 41 (DEDUCED): TERR reads all ones until more
than 1 us after entry to LOCKED from FREE, and the terms for an offset that is still to be removed. -/
def Obligations.BeaconKeepsTime : Prop :=
  (∀ s : State, s.pkg.bootState ≠ 2 → let v := s.arg 0
    v < 2 ^ 64 → ∃ s' : State, exec .bctlWrite s = .next s' ∧ s'.pkg.domain.toNat = v % 128 ∧
      s'.pkg.bctlEn = v.testBit 7 ∧ s'.pkg.asym = s.pkg.asym ∧ (∀ d, s'.time d = s.time d) ∧
      s'.pkg.beacon = (if s.pkg.beacon = .locked ∧ v.testBit 7 = false then .holdover else s.pkg.beacon)) ∧
  (∀ s : State, s.pkg.bootState ≠ 2 → s.arg 0 < 2 ^ 64 →
    (s.arg 0 < 2 ^ 32 → s.pkg.beacon ≠ .holdover → exec .asymWrite s = .next (s.setPkg { s.pkg with asym := s.arg 0 })) ∧
    (s.arg 0 < 2 ^ 32 → s.pkg.beacon = .holdover → ∃ s' : State, exec .asymWrite s = .next s' ∧
      s'.pkg = { s.pkg with asym := s.arg 0 } ∧
      (s.now + 8 * ((1000000 - (10 + s.arg 0 + s.pkg.residue)) * 20000000 - (s.ns - s.pkg.holdSince)),
        Instr.holdoverExpiry, []) ∈ s'.timers) ∧
    (2 ^ 32 ≤ s.arg 0 → exec .asymWrite s = .next s)) ∧
  (∀ s : State, (s.pkg.bctlEn = false → exec .beaconLock s = .next s) ∧
    (s.pkg.bctlEn = true → s.pkg.beacon = .free → ∃ s' : State, exec .beaconLock s = .next s' ∧
      s'.pkg.beacon = .locked ∧ (∀ d, s'.time d = BitVec.ofNat 64 (s.arg 0)) ∧ s'.now = s.now ∧
      ∀ n, n / 8 ≤ s.ns + 1000 → ({ s' with now := n } : State).terr = 0xFFFFFFFFFFFFFFFF) ∧
    (s.pkg.bctlEn = true → s.pkg.beacon = .holdover → ∃ s' : State, exec .beaconLock s = .next s' ∧
      s'.pkg.beacon = .locked ∧ (∀ d, s'.time d = s.time d) ∧ s'.offset = ((s.arg 0 : Int) - s.masterTime).natAbs)) ∧
  (∀ s : State, ∃ s' : State, exec .beaconMasterLoss s = .next s' ∧ (∀ d, s'.time d = s.time d) ∧
    s'.pkg.beacon = (if s.pkg.beacon = .locked then .holdover else s.pkg.beacon)) ∧
  (∀ s : State, ∃ s' : State, exec .holdoverExpiry s = .next s' ∧ (∀ d, s'.time d = s.time d) ∧
    s'.pkg.beacon = (if s.pkg.beacon = .holdover ∧
      1000000 ≤ 10 + s.pkg.asym + s.pkg.residue + (s.ns - s.pkg.holdSince) / 20000000 then .free else s.pkg.beacon)) ∧
  (∀ (s : State) i, i = Instr.ieee1588Message ∨ i = Instr.beaconDiscipline → ∃ s' : State, exec i s = .next s' ∧
    s'.pkg.beacon = s.pkg.beacon ∧ ∀ d, s'.time d = s.time d) ∧
  (∀ (s : State) n d e, s.now ≤ n → let s' := { s with now := n }
    s.dieTime d ≤ s'.dieTime d ∧ s.masterTime ≤ s'.masterTime ∧
    ((s'.masterTime - s.masterTime) - ((s'.ns : Int) - s.ns)).natAbs ≤ (s'.ns - s.ns) / 5000 + 1 ∧
    (s.dieTime d - s.dieTime e).natAbs ≤ 4) ∧
  (∀ s : State, (s.pkg.beacon = .free ∨ s.ns < s.pkg.freeUntil → s.terr = 0xFFFFFFFFFFFFFFFF) ∧
    (s.pkg.freeUntil ≤ s.ns → s.pkg.beacon = .locked → s.terr = BitVec.ofNat 64 (8 + s.pkg.asym + 2 + s.offset)) ∧
    (s.pkg.freeUntil ≤ s.ns → s.pkg.beacon = .holdover →
      s.terr = BitVec.ofNat 64 (8 + s.pkg.asym + 2 + s.pkg.residue + (s.ns - s.pkg.holdSince) / 20000000)))

/-- R344, R354, R357 and R359: the host's register writes, the reads of what they wrote, and the capability list. R8,
R205, R342, R354 and R357: telemetry records, the event record of a retraining, and attestation, each written behind
the stores that entered the host queue earlier; a word that the host aborts is lost. Log 40 (DEDUCED, PRESUMED): the
event record of a retraining, the layout of the attestation report, and SHA-256 as FIPS 180-4 defines it. -/
def Obligations.HostRegistersTelemetryAndAttestation : Prop :=
  ((∀ s : State, s.pkg.bootState ≠ 2 → ∀ v, v = BitVec.ofNat 64 (s.arg 1) →
    let puts (off : Nat) (p : Pkg) : Prop := s.arg 0 = off → exec .registerWrite s = .next (s.setPkg p) ∧
      (s.setPkg p).ldRegister off = v
    puts 0x000 { s.pkg with lrec := v } ∧ puts 0x210 { s.pkg with tlBase := v } ∧ puts 0x220 { s.pkg with tlTail := v } ∧
    puts 0x400 { s.pkg with anonce := AMap.set s.pkg.anonce 0 v } ∧ puts 0x408 { s.pkg with anonce := AMap.set s.pkg.anonce 1 v } ∧
    puts 0x410 { s.pkg with anonce := AMap.set s.pkg.anonce 2 v } ∧ puts 0x418 { s.pkg with anonce := AMap.set s.pkg.anonce 3 v } ∧
    puts 0x420 { s.pkg with adest := v } ∧
    (s.arg 0 = 0x218 → ∃ s' : State, exec .registerWrite s = .next s' ∧ s'.pkg.tlCtl = v &&& 31 ∧
      (v.getLsbD 4 = true → s.pkg.tlCtl.getLsbD 4 = false → s'.pkg.statOr = 0 ∧
        (s.now + 8000000, Instr.telemetryRecord, []) ∈ s'.timers) ∧
      (v.getLsbD 4 = true → s.pkg.tlCtl.getLsbD 4 = true → s'.timers = s.timers) ∧
      (v.getLsbD 4 = false → s.pkg.tlCtl.getLsbD 4 = true → ∀ x ∈ s'.timers, x.2 ≠ (Instr.telemetryRecord, [])))) ∧
  (∀ s : State, s.pkg.bootState = 2 → exec .registerWrite s = .next s ∧ exec .ldoorWrite s = .next s ∧
    exec .adoorWrite s = .next s ∧ ∀ off, s.ldRegister off = (if off = 0x508 then
      BitVec.ofNat 64 (s.pkg.bootImage * 256 + 2) else 0)) ∧
  (∀ device, (capabilities device).map (·.id) = [1, 2, 3, 4, 5, 6, 7, 8, 9, 10] ∧
    (∀ at_ e f es, capWords at_ (e :: f :: es) = [BitVec.ofNat 64 (e.id + 2 ^ 16 + 8 * e.payload.length * 2 ^ 32),
      at_ + BitVec.ofNat 64 (16 + 8 * e.payload.length)] ++ e.payload ++
      capWords (at_ + BitVec.ofNat 64 (16 + 8 * e.payload.length)) (f :: es)) ∧
    (∀ at_ e, capWords at_ [e] = [BitVec.ofNat 64 (e.id + 2 ^ 16 + 8 * e.payload.length * 2 ^ 32), 0] ++ e.payload))) ∧
  ((∀ s : State, let size := 2 ^ (s.pkg.tlCtl.toNat % 16)
    let l := locHost (s.pkg.tlBase.toNat + 32 * (s.pkg.tlHead % size))
    let bits := (s.pkg.statOr ||| s.pstatBits).toNat + s.pkg.corrected % 2 ^ 24 * 2 ^ 8
    let record := [s.time 12, BitVec.ofNat 64 (1 + s.meanPower * 2 ^ 32), BitVec.ofNat 64 (s.peakPower + bits * 2 ^ 32)]
    (s.ev ≠ [] → exec .telemetryRecord s = .next s.writeRecords) ∧
    (s.ev = [] → s.pkg.tlCtl.getLsbD 4 = false → exec .telemetryRecord s = .next s) ∧
    (s.ev = [] → s.pkg.tlCtl.getLsbD 4 = true → ∃ s' : State, exec .telemetryRecord s = .next s' ∧
      s'.pkg.samples = s.pkg.samples ∧
      s'.pkg.corrected = 0 ∧ s'.pkg.statOr = 0 ∧ (s.now + 8000000, Instr.telemetryRecord, []) ∈ s'.timers ∧
      (s.egressBefore 128 0 = true → s'.pkg.tlWaiting = s.pkg.tlWaiting ++ [record] ∧ s'.mem = s.mem ∧
        s'.pkg.tlHead = s.pkg.tlHead ∧ (s.now + 8, Instr.telemetryRecord, [0]) ∈ s'.timers) ∧
      (s.egressBefore 128 0 = false → s.pkg.tlWaiting = [] → s'.pkg.tlWaiting = [] ∧
        (s.pkg.tlHead - s.pkg.tlTail.toNat = size →
          s'.pkg.tlDrop = s.pkg.tlDrop + 1 ∧ s'.pkg.tlHead = s.pkg.tlHead ∧ s'.mem = s.mem) ∧
        (s.pkg.tlHead - s.pkg.tlTail.toNat ≠ size →
          s'.pkg.tlHead = s.pkg.tlHead + 1 ∧ s'.pkg.tlDrop = s.pkg.tlDrop ∧
          ∀ k, k < 4 → s'.read64 (l + 8 * k) = (if s.hostAborts (l + 8 * k) then s.read64 (l + 8 * k)
            else (BitVec.ofNat 64 s.pkg.tlHead :: record).getD k 0)))) ∧
    (∀ p, let s' := s.retrain p
      s'.pkg.retrain = s.pkg.retrain ^^^ (1#16 <<< p) ∧ s'.pkg.linkst = s.pkg.linkst ∧
      (s.pkg.tlCtl.getLsbD 4 = true → s.egressBefore 128 0 = false → s.pkg.tlWaiting = [] →
        s.pkg.tlHead - s.pkg.tlTail.toNat ≠ size → s'.pkg.tlHead = s.pkg.tlHead + 1 ∧
        (s.hostAborts (l + 16) = false →
          s'.read64 (l + 16) = BitVec.ofNat 64 (2 + s.pkg.linkst.toNat * 2 ^ 32)))) ∧
    (s.pkg.samples ≠ [] → s.meanPower = s.pkg.samples.sum / s.pkg.samples.length / 10) ∧
    s.peakPower = s.pkg.samples.foldl max 0 / 10) ∧
  (∀ s : State, s.pkg.bootState ≠ 2 →
    (s.pkg.astat = 1 ∨ 32768 ≤ s.pkg.fuse → exec .adoorWrite s = .next s) ∧
    (s.pkg.astat ≠ 1 → s.pkg.fuse < 32768 → ∃ s' : State, exec .adoorWrite s = .next s' ∧ s'.pkg.astat = 1 ∧
      s'.pkg.leaf = s.pkg.fuse ∧ s'.pkg.fuse = s.pkg.fuse + 1 ∧ (Instr.attestationComplete, []) ∈ s'.agenda)) ∧
  (∀ s : State, let l := locHost s.pkg.adest.toNat
    (s.pkg.astat ≠ 1 → exec .attestationComplete s = .next s) ∧
    (s.pkg.astat = 1 → s.egressBefore 128 0 = true →
      exec .attestationComplete s = .next (s.after 8 .attestationComplete [])) ∧
    (s.pkg.astat = 1 → s.egressBefore 128 0 = false → (∀ k, k < 1804 → s.hostAborts (l + k) = false) →
      ∃ s' : State, exec .attestationComplete s = .next s' ∧ s'.pkg.astat = 2 ∧ s'.pkg.fuse = s.pkg.fuse ∧
      s'.read64 l = 1 ∧ s'.read64 (l + 8) = BitVec.ofNat 64 s.pkg.leaf ∧
      (∀ k, k < 4 → s'.read64 (l + 16 + 8 * k) = AMap.get 0 s.pkg.anonce k) ∧
      (∀ k, k < 2 → s'.read64 (l + 48 + 8 * k) = BitVec.ofNat 64 (Config.serial / 2 ^ (64 * k))) ∧
      (∀ n k, n < 4 → k < 4 → s'.read64 (l + 64 + 32 * n + 8 * k) =
        BitVec.ofNat 64 (sha256Num (AMap.get [] s.pkg.images n) / 2 ^ (64 * k))) ∧
      ∀ k, k < 1612 → readByte s'.mem (l + 192 + k) = signatureAt s.pkg.leaf s.report k)))

/-- R348, R349 and R354: the fabric port's registers, the devices behind its ports, and the links. A new device number
leaves what the package's own memory holds. R352, R353 and R355: PWRCTL, the bounds of a power sample, and ENERGY,
which is charged in proportion to the work of a die's regions and never falls; the ballast's energy is charged to no
region. -/
def Obligations.LinksAndPowerAct : Prop :=
  ((∀ s : State, s.pkg.bootState ≠ 2 → s.arg 0 < 2 ^ 64 →
    (s.pkg.fabLock = true → exec .fabctlWrite s = .next s) ∧
    (s.pkg.fabLock = false → exec .fabctlWrite s = .next ((s.swapDevices s.pkg.device (s.arg 0 % 128)).setPkg
      { s.pkg with device := s.arg 0 % 128, fabLock := (s.arg 0).testBit 7 }))) ∧
  (∀ (s : State) a b die home off, Memory.wf s.mem = true → a < 128 → b < 128 → die < 16 → home < 4096 → off < 2 ^ 44 →
    readByte (s.swapDevices a b).mem (locDram b die home off) = readByte s.mem (locDram a die home off) ∧
    readByte (s.swapDevices a b).mem (locDram a die home off) = readByte s.mem (locDram b die home off) ∧
    (∀ l, l < 2 ^ 70 ∨ 2 ^ 71 ≤ l → readByte (s.swapDevices a b).mem l = readByte s.mem l)) ∧
  (∀ s : State, s.pkg.bootState ≠ 2 → s.arg 0 < 16 → ∃ s' : State, exec .linkUp s = .next s' ∧
    s'.pkg.linkst = s.pkg.linkst ||| (1#16 <<< s.arg 0) ∧ (∀ d ∈ s.ev.drop 1, (s.arg 0, d) ∈ s'.pkg.routes) ∧
    (∀ d, (s.arg 0, d) ∈ s'.pkg.routes → d ∈ s.ev.drop 1) ∧
    (s.pkg.linkst.getLsbD (s.arg 0) = false → AMap.get 0 s'.pkg.missed (s.arg 0) = 0 ∧
      (s.now + 80000000, Instr.heartbeat, [s.arg 0]) ∈ s'.timers) ∧
    (s.pkg.linkst.getLsbD (s.arg 0) = true → s'.mem = s.mem ∧ s'.timers = s.timers ∧ s'.pkg.missed = s.pkg.missed)) ∧
  (∀ s : State, (s.pkg.linkst.getLsbD (s.arg 0) = false → exec .heartbeat s = .next s ∧ exec .heartbeatMiss s = .next s) ∧
    (s.pkg.linkst.getLsbD (s.arg 0) = true →
      (s.arg 0 ∉ s.pkg.silent →
        exec .heartbeat s = .next ((s.setPkg { s.pkg with missed := AMap.set s.pkg.missed (s.arg 0) 0 }).after 80000000
          .heartbeat [s.arg 0])) ∧
      (s.arg 0 ∈ s.pkg.silent → ∃ s' : State, exec .heartbeat s = .next s' ∧ s'.pkg.missed = s.pkg.missed ∧
        (Instr.heartbeatMiss, [s.arg 0]) ∈ s'.agenda ∧ s.arg 0 ∉ s'.pkg.silent ∧
        (s.now + 80000000, Instr.heartbeat, [s.arg 0]) ∈ s'.timers) ∧
      (AMap.get 0 s.pkg.missed (s.arg 0) < 3 → exec .heartbeatMiss s = .next (s.setPkg { s.pkg with
        missed := AMap.set s.pkg.missed (s.arg 0) (AMap.get 0 s.pkg.missed (s.arg 0) + 1) })) ∧
      (3 ≤ AMap.get 0 s.pkg.missed (s.arg 0) → ∃ s1 : State, exec .heartbeatMiss s =
        .next (s1.setLinks (s.pkg.linkst &&& ~~~(1#16 <<< s.arg 0))).failUnreachable ∧ s1.pkg = { s.pkg with
          missed := AMap.set s.pkg.missed (s.arg 0) (AMap.get 0 s.pkg.missed (s.arg 0) + 1) } ∧ s1.mem = s.mem ∧
        ∀ x, x ∈ s1.timers ↔ x ∈ s.timers ∧ x.2 ≠ (Instr.heartbeat, [s.arg 0]))))) ∧
  ((∀ s : State, s.pkg.bootState ≠ 2 → s.arg 0 < 2 ^ 64 →
    (s.arg 0 % 2 ^ 16 / 4 ≠ 0 → exec .pwrctlWrite s = .next s) ∧
    (s.arg 0 % 2 ^ 16 / 4 = 0 → exec .pwrctlWrite s = .next (s.setPkg { s.pkg with pwr := BitVec.ofNat 64 (s.arg 0) }) ∧
      (s.setPkg { s.pkg with pwr := BitVec.ofNat 64 (s.arg 0) }).ldRegister 0x200 = BitVec.ofNat 64 (s.arg 0))) ∧
  (∀ p : Pkg, p.plim = min (p.pwr.toNat / 2 ^ 48) 4600 ∧ p.rampUp = p.pwr.toNat / 2 ^ 32 % 2 ^ 16 ∧
    p.rampDn = p.pwr.toNat / 2 ^ 16 % 2 ^ 16) ∧
  (∀ s : State, let p := s.pkg
    let demand := 10 * p.demand
    let up := min (10 * p.plim) (p.power + p.rampUp)
    let down := p.power - p.rampDn
    ∃ s' : State, exec .powerSample s = .next s' ∧ s'.mem = s.mem ∧ s'.threads = s.threads ∧ s'.pkg.pwr = p.pwr ∧
      (s.now + 800000, Instr.powerSample, []) ∈ s'.timers ∧ s'.pkg.samples.getLast? = some s'.pkg.power ∧
      (p.samples.length ≤ 10 → s'.pkg.samples.length ≤ 10) ∧
      (down ≤ up → s'.pkg.power ≤ up) ∧ (s'.pkg.throttle = true ↔ up < demand) ∧
      (down ≤ up → p.noBal = false → (s.clusters.filter (fun (c : Nat × Cluster) => c.2.failed)).length < 784 →
        down ≤ s'.pkg.power) ∧
      (demand ≤ up → down ≤ demand → s'.pkg.power = demand ∧ s'.pkg.ballast = false ∧
        s'.pkg.filler = !s.fillersRunning.isEmpty) ∧
      (demand ≤ up → demand < down → p.noFill = false → s.fillerHomes ≠ [] →
        s'.pkg.filler = true ∧ ∀ h ∈ s.fillerHomes, (Instr.nearDispatch, [h, 1]) ∈ s'.agenda) ∧
      (p.noFill = true ∨ s.fillerHomes = [] → s'.pkg.filler = !s.fillersRunning.isEmpty) ∧
      (p.noBal = true → s'.pkg.ballast = false)) ∧
  (∀ s : State, ∃ s' : State, exec .energyUpdate s = .next s' ∧ s'.mem = s.mem ∧ s'.threads = s.threads ∧
    s'.pkg.work = [] ∧ (s.now + 8000000, Instr.energyUpdate, []) ∈ s'.timers ∧
    (∀ r, AMap.get 0 s.pkg.energy r ≤ AMap.get 0 s'.pkg.energy r ∧
      AMap.get 0 s'.pkg.energy r ≤ AMap.get 0 s.pkg.energy r + 10 * (s.pkg.samples.sum - s.pkg.ballasts.sum)) ∧
    (∀ r, (∀ x ∈ s.pkg.work, x.1 % 2 ^ 128 ≠ r) → AMap.get 0 s'.pkg.energy r = AMap.get 0 s.pkg.energy r) ∧
    (∀ die r w q v, die < 12 → s.workOn die = [(r, w), (q, v)] → r ≠ q → 0 < w + v →
      (∀ d, d < 12 → d ≠ die → s.workOn d = []) → ∃ e, e ≤ 10 * (s.pkg.samples.sum - s.pkg.ballasts.sum) ∧
        AMap.get 0 s'.pkg.energy r = AMap.get 0 s.pkg.energy r + e * w / (w + v) ∧
        AMap.get 0 s'.pkg.energy q = AMap.get 0 s.pkg.energy q + e * v / (w + v))))

/-- R177, R356 and R358: images are verified in turn, one that fails leaves every die held in reset with nothing under
way; the reset key and a power-on reset every part, words FULL and not poisoned, and what a reset keeps. Log 1 (DESIGN
CHOICE): the zeros of the fields that the spec gives no reset value. Log 3 (DESIGN CHOICE): package memory reads zero.
Log 39 (DEDUCED): FABCTL's DEVICE is zero after a reset. Log 51 (DESIGN CHOICE): where the capability list stands. -/
def Obligations.BootAndResetLeaveTheResetState : Prop :=
  (∀ s : State, s.pkg.bootState = 0 → s.arg 0 = s.pkg.verified →
    let good := imageGood (s.ev.drop 1)
    (good = true ↔ ∃ k, k < 4 ∧ Config.lmsVerifies (Config.fusedKeyHash k) (s.ev.drop 1) = true) ∧
    ∃ s' : State, exec .bootVerify s = .next s' ∧
    s'.pkg.bootImage = s.arg 0 ∧ s'.pkg.bootState = (if good = false then 2 else if s.arg 0 = 3 then 1 else 0) ∧
    (good = false → s'.timers = [] ∧ s'.agenda = [] ∧ s'.pkg.launching = none ∧ s'.pkg.launchQ = []) ∧
    (good = true → s'.pkg.verified = s.pkg.verified + 1 ∧ AMap.get [] s'.pkg.images (s.arg 0) = s.ev.drop 1 ∧
      s'.timers = s.timers) ∧ s'.pkg.fuse = s.pkg.fuse ∧
    s'.mem = (if good = true ∧ s.arg 0 = 3 then s.placeCaps.mem else s.mem)) ∧
  (∀ (s : State) j, s.pkg.caplist.toNat % 8 = 0 → s.pkg.caplist.toNat < 2 ^ 36 → j < s.capList.length →
    s.placeCaps.read64 (s.capLoc j) = s.capList.getD j 0) ∧
  (∀ s : State, s.pkg.bootState ≠ 0 ∨ s.arg 0 ≠ s.pkg.verified → exec .bootVerify s = .next s) ∧
  (∀ s : State, s.arg 0 ≠ 0xC0DE0001 → exec .rstctlWrite s = .next s) ∧
  (∀ (s : State) i, (i = Instr.rstctlWrite ∧ s.arg 0 = 0xC0DE0001) ∨ i = Instr.powerOn →
    ∃ s' : State, exec i s = .next s' ∧
    (∀ t, s'.th t = {}) ∧ (∀ u, s'.core u = {}) ∧ (∀ c, s'.cluster c = {}) ∧ (∀ k, s'.ctx k = {}) ∧
    (∀ k, s'.stream k = {}) ∧ (∀ q, s'.queue q = {}) ∧ (∀ b, s'.tlb b = []) ∧ (∀ h, s'.home h = {}) ∧
    s'.reqs = [] ∧ s'.msgs = [] ∧ s'.steals = [] ∧ s'.pairs = [] ∧ s'.skew = [] ∧ s'.now = 0 ∧ s'.focus = 0 ∧ s'.resume = none ∧ s'.agenda = [] ∧
    s'.timers = [(800000, Instr.powerSample, []), (8000000, Instr.energyUpdate, [])] ∧
    s'.pkg.beacon = .free ∧ s'.pkg.linkst = 0 ∧ s'.pkg.fabLock = false ∧ s'.pkg.device = 0 ∧ s'.pkg.lerr = 0 ∧
    s'.pkg.submitted = 0 ∧ s'.pkg.doneCount = 0 ∧ s'.pkg.plim = 4600 ∧ s'.pkg.rampUp = 50 ∧ s'.pkg.rampDn = 50 ∧
    s'.pkg.bootState = 0 ∧ s'.pkg.fuse = s.pkg.fuse ∧ s'.pkg.keyEpoch = s.pkg.keyEpoch + 1 ∧
    (Memory.wf s.mem = true → s.pkg.device < 128 → ∀ a, let b := swapDev s.pkg.device 0 a
      (s.elsewhere a = true → readByte s'.mem b = readByte s.mem a ∧ s'.full b = s.full a ∧
        (wordOf b ∈ s'.poison ↔ wordOf a ∈ s.poison)) ∧
      (s.elsewhere a = false → readByte s'.mem b = 0 ∧ s'.full b = true ∧ wordOf b ∉ s'.poison))) ∧
  (∀ t, State.reset.th t = {}) ∧ (∀ u, State.reset.core u = {}) ∧ State.reset.mem = [] ∧ State.reset.pkg = {} ∧
  (∀ l, State.reset.full l = true ∧ State.reset.isPoison l 1 = false) ∧
  ({} : Thread).live = 0x7FFF ∧ ({} : Thread).st = {} ∧ ({} : Thread).status = .free ∧
  (∀ u, u < 2 ^ 18 → (State.reset.pairt u).toNat = 2 ^ 18 + (if u % 2 = 0 then u + 1 else u - 1))

/-- R30: every legal instruction decodes from its own word, with every operand at every value its encoding admits. -/
def Obligations.DecodingInvertsEncoding : Prop := ∀ i, wellFormed i = true → decode (encode i) = some i

/-- R30 and R48: a word is decoded to at most one instruction, whose word it is; all-zeros, all-ones, reserved majors,
and reserved engine numbers of the three engine majors (R37, R47) are refused. -/
def Obligations.OnlyLegalWordsDecode : Prop :=
  (∀ w i, decode w = some i → encode i = w ∧ wellFormed i = true) ∧
  (∀ i j, wellFormed i = true → wellFormed j = true → encode i = encode j → i = j) ∧
  decodeRaw 0 = none ∧ decodeRaw 0xFFFFFFFF = none ∧
  (∀ w : BitVec 32, w.toNat / 2 ^ 26 ∈ [0, 15, 30, 31, 33, 35, 39, 40, 41, 42, 43, 44, 45, 46, 47, 51, 53, 54, 55, 56, 57,
    58, 59, 60, 61, 62, 63] → decodeRaw w = none) ∧
  (∀ w : BitVec 32, w.toNat / 2 ^ 26 ∈ [48, 49, 50] → w.toNat / 2 ^ 22 % 16 = 3 ∨ 8 ≤ w.toNat / 2 ^ 22 % 16 → decodeRaw w = none)

/-- Ten words that the spec writes out, of the `xp` and `sys` majors, decode to the instructions it names (R265, R300,
R317). -/
def Obligations.DecodedWordsAreTheSpecsExamples : Prop :=
  decode 0xD0006000 = some (.xpCtrm 0 3) ∧ decode 0xD0808001 = some (.xpCtrl 1 4) ∧ decode 0xD020A004 = some (.xpSt 2 5) ∧
  decode 0xD000A186 = some (.xpForm 0 5 6) ∧ decode 0xD010E20A = some (.xpEval 1 7 8) ∧
  decode 0xD001220C = some (.xpNear 9 8) ∧ decode 0xD010028D = some (.xpAdm 0 1 10) ∧
  decode 0x70000009 = some .sysTres ∧ decode 0x7000500A = some (.sysTkill 5) ∧ decode 0x7048A16B = some (.sysPre 9 10 11)

/-- R26, R48: a unit's cycle fetches the word at the chosen slot's PC, which is decoded and executed; a fetch that
must wait parks, one that fails traps, and so does a word without an instruction or with a set must-be-zero bit. -/
def Obligations.AStepRunsTheFetchedWord : Prop :=
  ∀ (s : State) u rest k, s.resume = none → s.plan = .cycle u :: rest → s.pkg.bootState = 1 → u ∈ s.busyUnits →
    { s with plan := rest }.inTurn u = true →
    let s0 := { s with plan := rest }.catchUp u
    let t := u * 64 + k
    let si := (s0.issue u t).boundaries
    let th := si.th t
    let sf := si.dropDenied (tlbOfUnit u) th.root th.pc .x (!th.st.mode)
    s0.dueFirst u = none → s0.pickSlot u = some k → th.held = [] → (inServer t = false ∨ th.pc ≠ 0) →
    (∀ c, sf.fetch t = .trap c → step s = exec .trap { sf with ev := [t, c, 4, th.pc.toNat, 0, 0] }) ∧
    (∀ l, sf.fetch t = .wait l → step s = .next (sf.parkOn t .thrYield (.fetch l) none (sf.fetchLimited u l))) ∧
    (∀ w s1, sf.fetch t = .word w s1 →
      (∀ i, decodeRaw w = some i → encode i = w →
        step s = exec i { (s1.chargeIssue t i).dropDenials t i with focus := t }) ∧
      (decodeRaw w = none → step s = exec .trap { s1 with ev := [t, cILLOP, 0, 0, 0, w.toNat] }) ∧
      (∀ i, decodeRaw w = some i → encode i ≠ w →
        (absentClass i t = none → step s = exec .trap { s1 with ev := [t, cILLFLD, 0, 0, 0, w.toNat] }) ∧
        (absentClass i t = some .ret → step s = exec .returnTrap { s1 with ev := [t, w.toNat] }) ∧
        (∀ c n a d, absentClass i t = some (.trap c n a d) →
          step s = exec .trap { s1 with ev := [t, cNOUNIT, 0, 0, 0, w.toNat] })))

/-- R26, R68, R69, R174, R178, R205, R228, R285: what a fetch comes to. A misaligned PC traps ALIGN and a window
address PROT; a fetch waits at a closed home, and one of a skerry's own channel also where the word is held already;
else it reads memory's word, which its cache then holds, or an older word that the cache or the core still holds. Log
15 (DEDUCED): a poisoned or unreachable word traps POISON, and a fetch waits at a closed home. A woken instruction
completes first; then, after the rotation boundaries that have passed, what the plan chooses, or the oldest message, a
held cause that interrupts a park, and a park that ends; a rebuild or a commit that is due comes before a slot issues
(R26, R34, R124, R291). R290, R320, R321: where an issued instruction comes to be executed and its residue check
fails, it is withdrawn, with no effect; where it fails again, ARITH comes before every other execution cause. An
instruction taken up again after its operands had parked it, and a division in the divider, likewise (R52). Log 15
(DEDUCED): an instruction that an operand parks is not yet executed, so nothing is withdrawn then. -/
def Obligations.FetchesAndChoicesComeInTheirOrder : Prop :=
  (∀ (s : State) t,
  let pc := (s.th t).pc
  let u := unitOfThread t
  (pc.toNat % 4 ≠ 0 → s.fetch t = .trap cALIGN) ∧
  (pc.toNat % 4 = 0 → isWindow pc = true → s.fetch t = .trap cPROT) ∧
  (pc.toNat % 4 = 0 → isWindow pc = false →
    (∀ c, threadResolve s t pc .x = .error c → s.fetch t = .trap c) ∧
    (∀ l, threadResolve s t pc .x = .ok l →
      (s.channelShut u l = true → (s.th t).landed ≠ some l → s.fetch t = .wait l) ∧
      (s.aheadWord t l = none → s.channelShut u l = false → s.cachedWord u l = none →
        (s.fetchShut (s.arrivalOf t l) l = true → s.fetch t = .wait l) ∧
        (s.fetchShut (s.arrivalOf t l) l = false → s.fetchable l = false → s.fetch t = .trap cPOISON) ∧
        (s.fetchShut (s.arrivalOf t l) l = false → s.fetchable l = true → ∃ s1 : State,
          s.fetch t = .word (BitVec.ofNat 32 (s.read l 4)) s1 ∧
          s1.cachedWord u l = some (BitVec.ofNat 32 (s.read l 4)) ∧ s1.mem = s.mem ∧ s1.reqs = s.reqs ∧
          (s1.th t).regs = (s.th t).regs ∧ (s1.th t).pc = pc ∧ (s1.th t).st = (s.th t).st)) ∧
      (∀ w s1, s.fetch t = .word w s1 →
        (w = s.wordAt l ∨ s.aheadWord t l = some w ∨ s.cachedWord u l = some w) ∧ (s1.th t).landed = none)))) ∧
  ((∀ (s : State) t p, s.resume = some t → (s.th t).park = some p →
    (p.read.isSome = true ∨ ∀ u n, s.plan.head? ≠ some (.mismatch u n)) →
    let s' := { s.dropDenials t p.instr with resume := none, focus := t }
    step s = exec p.instr (if p.read.isSome then s' else s'.chargeIssue t p.instr)) ∧
  (∀ (s : State), s.resume = none → s.plan = [] →
    let b := s.boundaries
    (∀ e args rest, b.agenda = (e, args) :: rest →
      step s = exec e { b with agenda := rest, ev := args }) ∧
    (∀ t, b.agenda = [] → b.interrupted = some t → step s = exec .asyncCauseTaken { b with ev := [t] }) ∧
    (∀ k t p, b.agenda = [] → b.interrupted = none → b.woken = some (k, t, p) → (∀ m h, p.await ≠ .drain m h) →
      step s = exec .awaitedEvent { b with ev := [t] }) ∧
    (∀ k t p m h, b.agenda = [] → b.interrupted = none → b.woken = some (k, t, p) → p.await = .drain m h →
      step s = exec .drainComplete { b with ev := [t] })) ∧
  (∀ (s : State) k rest e args, s.resume = none → s.plan = .deliver k :: rest →
    let b := { s with plan := rest }.boundaries
    b.agenda[k]? = some (e, args) →
    step s = exec e { b with agenda := b.agenda.eraseIdx k, ev := args }) ∧
  (∀ (s : State) e args rest, s.resume = none → s.plan = .outside e args :: rest → outsideEvent e = true →
    step s = exec e { { s with plan := rest }.boundaries with ev := args }) ∧
  (∀ (s : State) u rest e, s.resume = none → s.plan = .cycle u :: rest → s.pkg.bootState = 1 → u ∈ s.busyUnits →
    { s with plan := rest }.inTurn u = true → ({ s with plan := rest }.catchUp u).dueFirst u = some e →
    step s = exec e { { s with plan := rest }.catchUp u with ev := [u] })) ∧
  ((∀ (s : State) u n rest k w s1 i, s.resume = none → s.plan = .mismatch u n :: rest → s.pkg.bootState = 1 →
    u ∈ s.busyUnits → { s with plan := rest }.inTurn u = true →
    let s0 := { s with plan := rest }.catchUp u
    let t := u * 64 + k
    let si := (s0.issue u t).boundaries
    let th := si.th t
    let sf := si.dropDenied (tlbOfUnit u) th.root th.pc .x (!th.st.mode)
    s0.dueFirst u = none → s0.pickSlot u = some k → th.held = [] → (inServer t = false ∨ th.pc ≠ 0) →
    sf.fetch t = .word w s1 → decode w = some i →
    (decodeState s1 t i = none → (∀ a, operandState s1 t i ≠ some (.park a)) →
      ((s1.th t).retried = false → step s = .next (s1.updTh t (fun q => { q with retried := true, park := none }))) ∧
      ((s1.th t).retried = true →
        step s = exec .trap { s1 with ev := [t, cARITH, failInfo t i n, 0, 0, w.toNat] })) ∧
    ((decodeState s1 t i).isSome = true ∨ (∃ a, operandState s1 t i = some (.park a)) →
      step s = exec i { (s1.chargeIssue t i).dropDenials t i with focus := t })) ∧
  (∀ (s : State) t n rest p, s.resume = some t → (s.th t).park = some p → p.read = none →
    s.plan = .mismatch (unitOfThread t) n :: rest →
    let s0 := { s.dropDenials t p.instr with resume := none, focus := t, plan := rest }
    decodeState s0 t p.instr = none → (∀ a, operandState s0 t p.instr ≠ some (.park a)) →
    ((s0.th t).retried = false → step s = .next (s0.updTh t (fun q => { q with retried := true, park := none }))) ∧
    ((s0.th t).retried = true → step s = exec .trap
      { s0 with ev := [t, cARITH, failInfo t p.instr n, 0, 0, (encode p.instr).toNat] })) ∧
  (∀ (s : State) t n rest p, s.resume = none → s.plan = .divMismatch t n :: rest →
    let b := { s with plan := rest }.boundaries
    let a := b.abandon t
    (b.th t).status = .park → (b.th t).park = some p → p.await = .divider →
    ((a.th t).retried = false →
      step s = .next (a.updTh t (fun q => { q with status := .run, park := none, retried := true }))) ∧
    ((a.th t).retried = true →
      step s = exec .trap { a with ev := [t, cARITH, failInfo t p.instr n, 0, 0, (encode p.instr).toNat] })))

/-- Every instruction answers a next state, a host access outside the ranges of R340 apart; nothing is refused. -/
def Obligations.EveryInstructionAnswers : Prop :=
  ∀ i s, i ≠ .hostMemRead → i ≠ .hostMemWrite → ∃ s' : State, exec i s = .next s'

/-- R48 rows 2 to 6, R46 and R195: the first row that matches decides, and the word has no other effect. Log 59
(DESIGN CHOICE): a field that the instruction does not use names no register of row 2. -/
def Obligations.CausesComeInTheirOrder : Prop :=
  ∀ i s, isWord i = true →
    let t := s.focus
    let th := me s
    let skerry := isSkerry (here s)
    let absent := if skerry then returnsOnSkerry i || (engineOf i = some 7 && !isHolm (here s))
      else engineOf i = some 6 || engineOf i = some 7
    (skerry = false → engineOf i = some 6 ∨ engineOf i = some 7 → TrapsWith i s cNOUNIT 0 0 0) ∧
    (skerry = true → isHolm (here s) = false → engineOf i = some 7 → TrapsWith i s cNOUNIT 0 0 0) ∧
    (skerry = true → returnsOnSkerry i = true → engineOf i ≠ some 7 → inServer t = true → TrapsWith i s cNOUNIT 0 0 0) ∧
    (skerry = true → returnsOnSkerry i = true → engineOf i ≠ some 7 → inServer t = false →
      exec i s = .next (s.returnTrap t i)) ∧
    (absent = false →
      (wellFormed i = false → TrapsWith i s cILLFLD 0 0 0) ∧
      (wellFormed i = true → misusesPfx i th.st = true → TrapsWith i s cILLFLD 0 0 0) ∧
      (wellFormed i = true → misusesPfx i th.st = false → overLimit i th.lim = true → TrapsWith i s cREGRANGE 0 0 0) ∧
      (wellFormed i = true → misusesPfx i th.st = false → overLimit i th.lim = false → privileged i = true →
        th.st.mode = false → TrapsWith i s cPRIV 0 0 0))

/-- R10, R33 to R35, R327: the places a register field names, as a source, as a destination, on both twins' cores for
a matched reply, and at completion. Log 53 (DESIGN CHOICE): the elements of a stream that a parked instruction of
another slot has read are its own. R9, R10, R15: what an instruction that writes one partition register leaves alone
when it completes: every other register, the mode and flags, memory, and everything of other threads and parts. -/
def Obligations.OperandsAndFramesHold : Prop :=
  ((∀ (s : State) (v : Word), s.writeDest s.focus 0 v = s.updTh s.focus id) ∧
  (∀ (th : Thread) (v : Word), th.reg 0 = 0 ∧ th.setReg 0 v = th) ∧
  (∀ (s : State) (d : BitVec 7) v, 120 ≤ d.toNat → d.toNat < 124 → ∃ s' : State, s.writeDest s.focus d v = s' ∧
    (∀ k, AMap.get 0 (s'.core (here s)).c k = AMap.get 0 (s.core (here s)).c k) ∧
    ((me s).lastIssue.getD 0 + 12, Commit.shared (d.toNat - 120) v) ∈ (s'.core (here s)).commits ∧ s'.mem = s.mem ∧
    s'.threads = s.threads) ∧
  (∀ (s : State) (d : BitVec 7) v, 112 ≤ d.toNat → d.toNat < 120 →
    let key := here s * 8 + (d.toNat - 112)
    let x := s.stream key
    let s' := s.writeDest s.focus d v
    s'.mem = s.mem ∧ s'.threads = s.threads ∧ s'.units = s.units ∧
    ((me s).twin = none ∨ (me s).matched = false → (s'.stream key).fifo = x.fifo ++ bytesOfNat x.esz v.toNat) ∧
    (∀ o, let y := s.stream (unitOfThread o * 8 + (d.toNat - 112))
      (me s).twin = some (o, false) → (me s).matched = true → (s.th o).paired = true → unitOfThread o ≠ here s →
      (s'.stream key).fifo = x.fifo ++ bytesOfNat x.esz v.toNat ∧
      (s'.stream (unitOfThread o * 8 + (d.toNat - 112))).fifo = y.fifo ++ bytesOfNat y.esz v.toNat)) ∧
  (∀ (s : State) i n, let r := (srcRegs i).getD n 0
    (s.parkOf s.focus i = none →
      (r.toNat < 112 → src i s n = (me s).reg r.toNat) ∧
      (112 ≤ r.toNat → r.toNat < 120 → let x := s.stream (here s * 8 + (r.toNat - 112))
        let k := r.toNat - 112
        -- the numbers of the bytes that nobody has popped and that no other slot's parked instruction has read
        let free := ((List.range x.fifo.length).map (x.front + ·)).filter (fun b => !x.gone.contains b &&
          !(s.taken s.focus k).contains b)
        src i s n = x.element (((free.drop (skipScalar i k n x.esz)).take x.esz).map (fun b => x.fifo.getD (b - x.front) 0))) ∧
      (120 ≤ r.toNat → r.toNat < 124 → src i s n = AMap.get 0 (s.core (here s)).c (r.toNat - 120)) ∧
      (124 ≤ r.toNat → src i s n = (AMap.get none (s.core (here s)).mbox (r.toNat - 124)).getD 0)) ∧
    (∀ p, s.parkOf s.focus i = some p →
      (n < p.args.length → src i s n = p.args.getD n 0) ∧
      (p.args = [] → r.toNat < 112 → src i s n = (me s).reg r.toNat) ∧
      (let k := r.toNat - 112
       let x := s.stream (here s * 8 + k)
       p.args = [] → 112 ≤ r.toNat → r.toNat < 120 → AMap.has p.els k = true → src i s n = x.element
        ((((AMap.get [] p.els k).drop (skipScalar i k n x.esz)).take x.esz).map (fun b => x.fifo.getD (b - x.front) 0))) ∧
      (p.args = [] → 120 ≤ r.toNat → r.toNat < 124 → src i s n = AMap.get 0 p.cs (r.toNat - 120)))) ∧
  (∀ (s : State) i (r : BitVec 7), r ∈ srcRegs i → 124 ≤ r.toNat →
    AMap.get none ((s.consume s.focus i).core (here s)).mbox (r.toNat - 124) = none) ∧
  (∀ (s : State) i, (srcRegs i).any isSpecial = false → (vecSrcs i).any (fun x => (vstreamOf x).isSome) = false →
    s.consume s.focus i = s)) ∧
  (∀ (s : State) (i : Instr) (d : BitVec 7) (v : Word), d.toNat < 112 → (srcRegs i).any isSpecial = false →
    (vecSrcs i).any (fun x => (vstreamOf x).isSome) = false → (∀ f a b r, i ≠ .pfxFmt f a b r) → i ≠ .pfxRlx →
    (me s).twin = none →
    let s' := (s.writeDest s.focus d v).finish s.focus i
    let th := me s
    let th' := s'.th s.focus
    (∀ n, n ≠ d.toNat → th'.reg n = th.reg n) ∧ (d ≠ 0 → th'.reg d.toNat = v) ∧ th'.reg 0 = 0 ∧
    th'.pc = th.pc + 4 ∧ th'.status = .run ∧ th'.st = th.st.noPfx ∧ th'.lim = th.lim ∧ th'.base = th.base ∧
    th'.rnd = th.rnd ∧ th'.live = th.live ∧ th'.rcb = th.rcb ∧ th'.root = th.root ∧ th'.task = th.task ∧ th'.seq = th.seq ∧
    th'.pending = th.pending ∧ th'.held = th.held ∧ (∀ t, t ≠ s.focus → s'.th t = s.th t) ∧ s'.mem = s.mem ∧
    s'.empties = s.empties ∧ s'.poison = s.poison ∧ s'.units = s.units ∧ s'.clusters = s.clusters ∧ s'.ctxs = s.ctxs ∧
    s'.streams = s.streams ∧ s'.queues = s.queues ∧ s'.homes = s.homes ∧ s'.tlbs = s.tlbs ∧ s'.pkg = s.pkg ∧
    s'.reqs = s.reqs ∧ s'.now = s.now)

/-- Every step keeps the stores in canonical form, from any state that has it: memory, the empty words and the
poisoned words stay what one list of each says (R175, R177). -/
def Obligations.EveryStepKeepsTheCanonicalForm : Prop := ∀ s s' : State, s.Canon → step s = .next s' → s'.Canon

/-- Every step keeps the numbers of queues, contexts and homes, from any state that has them: SEQ of a queue's tasks
distinct and rising (R142, R145), TL at most ISSUED (R220, R221), at most four reserved banks a home (R228). -/
def Obligations.EveryStepKeepsTheNumbers : Prop := ∀ s s' : State, s.Numbered → step s = .next s' → s'.Numbered

/-- The state after reset has the canonical form. The state after reset has them. -/
def Obligations.ResetHasTheInvariants : Prop :=
  (State.reset.Canon) ∧
  (State.reset.Numbered)
end

