-- ==== Sys2Proof/Laws/AMap.lean ====
section
/-!
SUPPORT. Laws of sparse maps and of sorted sets of numbers: what a read after a write gives, and that rising order is
kept.
-/

namespace Sys2Proof.Machine

variable {α : Type}

/-! ### Reading after writing -/

@[simp] theorem AMap.get_nil (d : α) (k : Nat) : AMap.get d [] k = d := rfl

@[simp] theorem AMap.get_set_same (d : α) (m : AMap α) (k : Nat) (v : α) : AMap.get d (AMap.set m k v) k = v := by
  induction m with
  | nil => simp [AMap.set, AMap.get]
  | cons p m ih =>
    obtain ⟨j, w⟩ := p
    simp only [AMap.set]
    split
    · simp [AMap.get]
    · split
      · simp [AMap.get]
      · simp [AMap.get, *]

theorem AMap.get_set_ne (d : α) (m : AMap α) {j k : Nat} (v : α) (h : j ≠ k) :
    AMap.get d (AMap.set m k v) j = AMap.get d m j := by
  induction m with
  | nil => simp [AMap.set, AMap.get, h]
  | cons p m ih =>
    obtain ⟨i, w⟩ := p
    simp only [AMap.set]
    split
    · simp [AMap.get, h]
    · split
      · next hk => subst hk; simp [AMap.get, h]
      · simp [AMap.get, ih]

@[simp] theorem AMap.get_del_same (d : α) (m : AMap α) (k : Nat) : AMap.get d (AMap.del m k) k = d := by
  induction m with
  | nil => rfl
  | cons p m ih =>
    obtain ⟨i, w⟩ := p
    simp only [AMap.del]
    split
    · exact ih
    · next h => simp [AMap.get, h, ih]

theorem AMap.get_del_ne (d : α) (m : AMap α) {j k : Nat} (h : j ≠ k) : AMap.get d (AMap.del m k) j = AMap.get d m j := by
  induction m with
  | nil => rfl
  | cons p m ih =>
    obtain ⟨i, w⟩ := p
    simp only [AMap.del]
    split
    · next hk => subst hk; simp [AMap.get, h, ih]
    · simp [AMap.get, ih]

/-! ### Rising keys -/

theorem AMap.Rising.weaken {m : AMap α} {a b : Nat} (h : AMap.Rising b m) (hab : a ≤ b) : AMap.Rising a m := by
  cases m with
  | nil => trivial
  | cons p m => exact ⟨by have := h.1; omega, h.2⟩

theorem AMap.rising_set {m : AMap α} {b k : Nat} {v : α} (h : AMap.Rising b m) (hk : b ≤ k) :
    AMap.Rising b (AMap.set m k v) := by
  induction m generalizing b with
  | nil => exact ⟨hk, trivial⟩
  | cons p m ih =>
    obtain ⟨i, w⟩ := p
    simp only [AMap.set]
    obtain ⟨h1, h2⟩ := h
    split
    · next hlt => exact ⟨hk, by omega, h2⟩
    · split
      · next _ he => subst he; exact ⟨hk, h2⟩
      · exact ⟨h1, ih h2 (by omega)⟩

theorem AMap.rising_del {m : AMap α} {b k : Nat} (h : AMap.Rising b m) : AMap.Rising b (AMap.del m k) := by
  induction m generalizing b with
  | nil => trivial
  | cons p m ih =>
    obtain ⟨i, w⟩ := p
    obtain ⟨h1, h2⟩ := h
    simp only [AMap.del]
    split
    · exact ih (h2.weaken (by omega))
    · exact ⟨h1, ih h2⟩

theorem AMap.rising_filter {m : AMap α} {b : Nat} {p : Nat × α → Bool} (h : AMap.Rising b m) :
    AMap.Rising b (m.filter p) := by
  induction m generalizing b with
  | nil => trivial
  | cons q m ih =>
    obtain ⟨h1, h2⟩ := h
    simp only [List.filter]
    split
    · exact ⟨h1, ih h2⟩
    · exact ih (h2.weaken (by omega))

/-! ### Sets of numbers -/

theorem Ascending.weaken {l : List Nat} {a b : Nat} (h : Ascending b l) (hab : a ≤ b) : Ascending a l := by
  cases l with
  | nil => trivial
  | cons x xs => exact ⟨by have := h.1; omega, h.2⟩

theorem ascending_insert {l : List Nat} {b k : Nat} (h : Ascending b l) (hk : b ≤ k) : Ascending b (setInsert l k) := by
  induction l generalizing b with
  | nil => exact ⟨hk, trivial⟩
  | cons x xs ih =>
    obtain ⟨h1, h2⟩ := h
    simp only [setInsert]
    split
    · exact ⟨hk, by omega, h2⟩
    · split
      · exact ⟨h1, h2⟩
      · exact ⟨h1, ih h2 (by omega)⟩

theorem ascending_erase {l : List Nat} {b k : Nat} (h : Ascending b l) : Ascending b (setErase l k) := by
  induction l generalizing b with
  | nil => trivial
  | cons x xs ih =>
    obtain ⟨h1, h2⟩ := h
    simp only [setErase]
    split
    · exact ih (h2.weaken (by omega))
    · exact ⟨h1, ih h2⟩

theorem ascending_filter {l : List Nat} {b : Nat} {p : Nat → Bool} (h : Ascending b l) : Ascending b (l.filter p) := by
  induction l generalizing b with
  | nil => trivial
  | cons x xs ih =>
    obtain ⟨h1, h2⟩ := h
    simp only [List.filter]
    split
    · exact ⟨h1, ih h2⟩
    · exact ih (h2.weaken (by omega))

@[simp] theorem mem_setInsert {l : List Nat} {j k : Nat} : j ∈ setInsert l k ↔ j = k ∨ j ∈ l := by
  induction l with
  | nil => simp [setInsert]
  | cons x xs ih =>
    simp only [setInsert]
    split
    · simp
    · split
      · next _ h => subst h; simp
      · simp [ih, or_left_comm]

@[simp] theorem mem_setErase {l : List Nat} {j k : Nat} : j ∈ setErase l k ↔ j ≠ k ∧ j ∈ l := by
  induction l with
  | nil => simp [setErase]
  | cons x xs ih =>
    simp only [setErase]
    split
    · next h =>
      subst h
      rw [ih, List.mem_cons]
      exact ⟨fun h => ⟨h.1, .inr h.2⟩, fun h => ⟨h.1, h.2.resolve_left h.1⟩⟩
    · next h =>
      rw [List.mem_cons, List.mem_cons, ih]
      constructor
      · rintro (rfl | h')
        · exact ⟨fun e => h e.symm, .inl rfl⟩
        · exact ⟨h'.1, .inr h'.2⟩
      · rintro ⟨h1, rfl | h2⟩
        · exact .inl rfl
        · exact .inr ⟨h1, h2⟩

end Sys2Proof.Machine
end

