-- ==== Sys2Proof/Laws/Memory.lean ====
section
/-!
SUPPORT. Laws of memory: the canonical form and what keeps it, and reads after writes (R20, R175, R177).
-/

namespace Sys2Proof.Machine

/-! ### The canonical form -/

/-- No listed byte is zero. -/
def Memory.NoZero (m : Memory) : Prop := ∀ c, c ∈ m → c.2 ≠ 0

theorem memory_wf_iff_from (m : Memory) : Memory.wf m = true ↔ (∃ b, AMap.Rising b m) ∧ Memory.NoZero m := by
  induction m with
  | nil => simp [Memory.wf, AMap.Rising, Memory.NoZero]
  | cons p m ih =>
    obtain ⟨a, v⟩ := p
    cases m with
    | nil => simp [Memory.wf, AMap.Rising, Memory.NoZero]; exact fun _ => ⟨a, Nat.le_refl _⟩
    | cons q m =>
      obtain ⟨b, w⟩ := q
      simp only [Memory.wf, Bool.and_eq_true, decide_eq_true_eq, ih]
      constructor
      · rintro ⟨⟨hv, hab⟩, ⟨c, hc⟩, hz⟩
        refine ⟨⟨a, Nat.le_refl _, by omega, hc.2⟩, ?_⟩
        intro x hx
        rcases List.mem_cons.1 hx with rfl | hx
        · exact hv
        · exact hz x hx
      · rintro ⟨⟨c, hc⟩, hz⟩
        have h1 := hc.2.1
        refine ⟨⟨hz (a, v) (by simp), by omega⟩, ⟨a + 1, hc.2⟩, ?_⟩
        exact fun x hx => hz x (by simp [hx])

/-- The canonical form: rising addresses, no listed zero. -/
theorem memory_wf_iff (m : Memory) : Memory.wf m = true ↔ AMap.Rising 0 m ∧ Memory.NoZero m := by
  rw [memory_wf_iff_from]
  exact ⟨fun ⟨⟨_, hb⟩, hz⟩ => ⟨hb.weaken (Nat.zero_le _), hz⟩, fun ⟨hb, hz⟩ => ⟨⟨0, hb⟩, hz⟩⟩

theorem mem_of_mem_set {m : Memory} {k : Nat} {v : Byte} {c : Nat × Byte} (h : c ∈ AMap.set m k v) : c = (k, v) ∨ c ∈ m := by
  induction m with
  | nil => simpa [AMap.set] using h
  | cons p m ih =>
    obtain ⟨i, w⟩ := p
    simp only [AMap.set] at h
    split at h
    · simpa using h
    · split at h
      · rcases List.mem_cons.1 h with h | h <;> simp [h]
      · rcases List.mem_cons.1 h with h | h
        · simp [h]
        · rcases ih h with h | h <;> simp [h]

theorem mem_of_mem_del {m : Memory} {k : Nat} {c : Nat × Byte} (h : c ∈ AMap.del m k) : c ∈ m := by
  induction m with
  | nil => exact h
  | cons p m ih =>
    obtain ⟨i, w⟩ := p
    simp only [AMap.del] at h
    split at h
    · simp [ih h]
    · rcases List.mem_cons.1 h with h | h
      · simp [h]
      · simp [ih h]

/-- A byte written keeps the canonical form. -/
theorem writeByte_wf {m : Memory} (h : Memory.wf m = true) (a : Nat) (v : Byte) : Memory.wf (writeByte m a v) = true := by
  rw [memory_wf_iff] at h ⊢
  unfold writeByte
  split
  · exact ⟨AMap.rising_del h.1, fun c hc => h.2 c (mem_of_mem_del hc)⟩
  · next hv =>
    refine ⟨AMap.rising_set h.1 (Nat.zero_le _), fun c hc => ?_⟩
    rcases mem_of_mem_set hc with rfl | hc
    · exact hv
    · exact h.2 c hc

/-- Bytes written keep it. -/
theorem writeNat_wf {m : Memory} (h : Memory.wf m = true) (a n v : Nat) : Memory.wf (writeNat m a n v) = true := by
  induction n generalizing m a v with
  | zero => exact h
  | succ n ih => exact ih (writeByte_wf h a _) _ _

/-- Cells taken out keep it. -/
theorem filter_wf {m : Memory} (h : Memory.wf m = true) (p : Nat × Byte → Bool) : Memory.wf (m.filter p) = true := by
  rw [memory_wf_iff] at h ⊢
  exact ⟨AMap.rising_filter h.1, fun c hc => h.2 c (List.mem_filter.1 hc).1⟩

/-! ### Reads after writes -/

@[simp] theorem readByte_writeByte_same (m : Memory) (a : Nat) (v : Byte) : readByte (writeByte m a v) a = v := by
  unfold readByte writeByte
  split
  · next h => simp [h]
  · simp

theorem readByte_writeByte_ne (m : Memory) {a b : Nat} (v : Byte) (h : b ≠ a) :
    readByte (writeByte m a v) b = readByte m b := by
  unfold readByte writeByte
  split
  · exact AMap.get_del_ne _ _ h
  · exact AMap.get_set_ne _ _ _ h

/-- Bytes outside a store are as before. -/
theorem readByte_writeNat_outside (m : Memory) (a n v : Nat) {b : Nat} (h : b < a ∨ a + n ≤ b) :
    readByte (writeNat m a n v) b = readByte m b := by
  induction n generalizing m a v with
  | zero => rfl
  | succ n ih =>
    rw [writeNat, ih _ _ _ (by omega), readByte_writeByte_ne _ _ (by omega)]

/-- A read of n bytes depends on those bytes alone. -/
theorem readNat_congr {m m' : Memory} {a n : Nat} (h : ∀ b, a ≤ b → b < a + n → readByte m b = readByte m' b) :
    readNat m a n = readNat m' a n := by
  induction n generalizing a with
  | zero => rfl
  | succ n ih =>
    simp only [readNat]
    rw [h a (Nat.le_refl _) (by omega), ih fun b h1 h2 => h b (by omega) (by omega)]

/-- A read of what was stored, little-endian. -/
theorem readNat_writeNat_same (m : Memory) (a n v : Nat) : readNat (writeNat m a n v) a n = v % 256 ^ n := by
  induction n generalizing m a v with
  | zero => simp [readNat, Nat.mod_one]
  | succ n ih =>
    have hb : readByte (writeNat (writeByte m a (BitVec.ofNat 8 v)) (a + 1) n (v / 256)) a = BitVec.ofNat 8 v := by
      rw [readByte_writeNat_outside _ _ _ _ (by omega)]; simp
    simp only [writeNat, readNat]
    rw [hb, ih, BitVec.toNat_ofNat, show 256 ^ (n + 1) = 256 * 256 ^ n by rw [Nat.pow_succ, Nat.mul_comm], Nat.mod_mul]

/-- A read of n bytes is below 256^n. -/
theorem readNat_lt (m : Memory) (a n : Nat) : readNat m a n < 256 ^ n := by
  induction n generalizing a with
  | zero => simp [readNat]
  | succ n ih =>
    have h1 := (readByte m a).isLt
    have h2 := ih (a + 1)
    simp only [readNat, Nat.pow_succ]
    omega

/-- A doubleword read where it was stored. -/
theorem read64_write64_same (s : State) (l : Nat) (v : Word) : (s.write64 l v).read64 l = v := by
  unfold State.read64 State.write64 State.read State.write
  simp only [readNat_writeNat_same]
  apply BitVec.eq_of_toNat_eq
  have := v.isLt
  simp only [BitVec.toNat_ofNat]
  omega

/-- Bytes outside a doubleword that is stored are as before. -/
theorem read_write_outside (s : State) (l n v k w : Nat) (h : k + w ≤ l ∨ l + n ≤ k) :
    (s.write l n v).read k w = s.read k w := by
  unfold State.read State.write
  exact readNat_congr fun b h1 h2 => readByte_writeNat_outside _ _ _ _ (by omega)

end Sys2Proof.Machine
end

