-- ==== Sys2Proof/Laws/State.lean ====
section
/-!
SUPPORT. What each update of the state leaves, field by field and through each accessor; what the accessor of the updated
field gives.
-/

namespace Sys2Proof.Machine

/-! ### `setTh` -/

@[simp] theorem State.setTh_units (s : State) (t : Nat) (v : Thread) : (s.setTh t v).units = s.units := rfl
@[simp] theorem State.setTh_clusters (s : State) (t : Nat) (v : Thread) : (s.setTh t v).clusters = s.clusters := rfl
@[simp] theorem State.setTh_ctxs (s : State) (t : Nat) (v : Thread) : (s.setTh t v).ctxs = s.ctxs := rfl
@[simp] theorem State.setTh_streams (s : State) (t : Nat) (v : Thread) : (s.setTh t v).streams = s.streams := rfl
@[simp] theorem State.setTh_queues (s : State) (t : Nat) (v : Thread) : (s.setTh t v).queues = s.queues := rfl
@[simp] theorem State.setTh_homes (s : State) (t : Nat) (v : Thread) : (s.setTh t v).homes = s.homes := rfl
@[simp] theorem State.setTh_tlbs (s : State) (t : Nat) (v : Thread) : (s.setTh t v).tlbs = s.tlbs := rfl
@[simp] theorem State.setTh_pkg (s : State) (t : Nat) (v : Thread) : (s.setTh t v).pkg = s.pkg := rfl
@[simp] theorem State.setTh_mem (s : State) (t : Nat) (v : Thread) : (s.setTh t v).mem = s.mem := rfl
@[simp] theorem State.setTh_empties (s : State) (t : Nat) (v : Thread) : (s.setTh t v).empties = s.empties := rfl
@[simp] theorem State.setTh_poison (s : State) (t : Nat) (v : Thread) : (s.setTh t v).poison = s.poison := rfl
@[simp] theorem State.setTh_reqs (s : State) (t : Nat) (v : Thread) : (s.setTh t v).reqs = s.reqs := rfl
@[simp] theorem State.setTh_msgs (s : State) (t : Nat) (v : Thread) : (s.setTh t v).msgs = s.msgs := rfl
@[simp] theorem State.setTh_steals (s : State) (t : Nat) (v : Thread) : (s.setTh t v).steals = s.steals := rfl
@[simp] theorem State.setTh_pairs (s : State) (t : Nat) (v : Thread) : (s.setTh t v).pairs = s.pairs := rfl
@[simp] theorem State.setTh_agenda (s : State) (t : Nat) (v : Thread) : (s.setTh t v).agenda = s.agenda := rfl
@[simp] theorem State.setTh_timers (s : State) (t : Nat) (v : Thread) : (s.setTh t v).timers = s.timers := rfl
@[simp] theorem State.setTh_plan (s : State) (t : Nat) (v : Thread) : (s.setTh t v).plan = s.plan := rfl
@[simp] theorem State.setTh_ev (s : State) (t : Nat) (v : Thread) : (s.setTh t v).ev = s.ev := rfl
@[simp] theorem State.setTh_focus (s : State) (t : Nat) (v : Thread) : (s.setTh t v).focus = s.focus := rfl
@[simp] theorem State.setTh_resume (s : State) (t : Nat) (v : Thread) : (s.setTh t v).resume = s.resume := rfl
@[simp] theorem State.setTh_split (s : State) (t : Nat) (v : Thread) : (s.setTh t v).split = s.split := rfl
@[simp] theorem State.setTh_now (s : State) (t : Nat) (v : Thread) : (s.setTh t v).now = s.now := rfl
@[simp] theorem State.setTh_skew (s : State) (t : Nat) (v : Thread) : (s.setTh t v).skew = s.skew := rfl
@[simp] theorem State.setTh_fresh (s : State) (t : Nat) (v : Thread) : (s.setTh t v).fresh = s.fresh := rfl
@[simp] theorem State.setTh_free (s : State) (t : Nat) (v : Thread) : (s.setTh t v).free = s.free := rfl
@[simp] theorem State.setTh_core (s : State) (t : Nat) (v : Thread) (k : Nat) : (s.setTh t v).core k = s.core k := rfl
@[simp] theorem State.setTh_cluster (s : State) (t : Nat) (v : Thread) (k : Nat) : (s.setTh t v).cluster k = s.cluster k := rfl
@[simp] theorem State.setTh_ctx (s : State) (t : Nat) (v : Thread) (k : Nat) : (s.setTh t v).ctx k = s.ctx k := rfl
@[simp] theorem State.setTh_stream (s : State) (t : Nat) (v : Thread) (k : Nat) : (s.setTh t v).stream k = s.stream k := rfl
@[simp] theorem State.setTh_queue (s : State) (t : Nat) (v : Thread) (k : Nat) : (s.setTh t v).queue k = s.queue k := rfl
@[simp] theorem State.setTh_home (s : State) (t : Nat) (v : Thread) (k : Nat) : (s.setTh t v).home k = s.home k := rfl
@[simp] theorem State.setTh_tlb (s : State) (t : Nat) (v : Thread) (k : Nat) : (s.setTh t v).tlb k = s.tlb k := rfl
@[simp] theorem State.setTh_req (s : State) (t : Nat) (v : Thread) (k : Nat) : (s.setTh t v).req k = s.req k := rfl
@[simp] theorem State.setTh_read (s : State) (t : Nat) (v : Thread) (k n : Nat) : (s.setTh t v).read k n = s.read k n := rfl
@[simp] theorem State.setTh_full (s : State) (t : Nat) (v : Thread) (k : Nat) : (s.setTh t v).full k = s.full k := rfl
@[simp] theorem State.setTh_arg (s : State) (t : Nat) (v : Thread) (k : Nat) : (s.setTh t v).arg k = s.arg k := rfl

/-! ### `setCore` -/

@[simp] theorem State.setCore_threads (s : State) (u : Nat) (v : Core) : (s.setCore u v).threads = s.threads := rfl
@[simp] theorem State.setCore_clusters (s : State) (u : Nat) (v : Core) : (s.setCore u v).clusters = s.clusters := rfl
@[simp] theorem State.setCore_ctxs (s : State) (u : Nat) (v : Core) : (s.setCore u v).ctxs = s.ctxs := rfl
@[simp] theorem State.setCore_streams (s : State) (u : Nat) (v : Core) : (s.setCore u v).streams = s.streams := rfl
@[simp] theorem State.setCore_queues (s : State) (u : Nat) (v : Core) : (s.setCore u v).queues = s.queues := rfl
@[simp] theorem State.setCore_homes (s : State) (u : Nat) (v : Core) : (s.setCore u v).homes = s.homes := rfl
@[simp] theorem State.setCore_tlbs (s : State) (u : Nat) (v : Core) : (s.setCore u v).tlbs = s.tlbs := rfl
@[simp] theorem State.setCore_pkg (s : State) (u : Nat) (v : Core) : (s.setCore u v).pkg = s.pkg := rfl
@[simp] theorem State.setCore_mem (s : State) (u : Nat) (v : Core) : (s.setCore u v).mem = s.mem := rfl
@[simp] theorem State.setCore_empties (s : State) (u : Nat) (v : Core) : (s.setCore u v).empties = s.empties := rfl
@[simp] theorem State.setCore_poison (s : State) (u : Nat) (v : Core) : (s.setCore u v).poison = s.poison := rfl
@[simp] theorem State.setCore_reqs (s : State) (u : Nat) (v : Core) : (s.setCore u v).reqs = s.reqs := rfl
@[simp] theorem State.setCore_msgs (s : State) (u : Nat) (v : Core) : (s.setCore u v).msgs = s.msgs := rfl
@[simp] theorem State.setCore_steals (s : State) (u : Nat) (v : Core) : (s.setCore u v).steals = s.steals := rfl
@[simp] theorem State.setCore_pairs (s : State) (u : Nat) (v : Core) : (s.setCore u v).pairs = s.pairs := rfl
@[simp] theorem State.setCore_agenda (s : State) (u : Nat) (v : Core) : (s.setCore u v).agenda = s.agenda := rfl
@[simp] theorem State.setCore_timers (s : State) (u : Nat) (v : Core) : (s.setCore u v).timers = s.timers := rfl
@[simp] theorem State.setCore_plan (s : State) (u : Nat) (v : Core) : (s.setCore u v).plan = s.plan := rfl
@[simp] theorem State.setCore_ev (s : State) (u : Nat) (v : Core) : (s.setCore u v).ev = s.ev := rfl
@[simp] theorem State.setCore_focus (s : State) (u : Nat) (v : Core) : (s.setCore u v).focus = s.focus := rfl
@[simp] theorem State.setCore_resume (s : State) (u : Nat) (v : Core) : (s.setCore u v).resume = s.resume := rfl
@[simp] theorem State.setCore_split (s : State) (u : Nat) (v : Core) : (s.setCore u v).split = s.split := rfl
@[simp] theorem State.setCore_now (s : State) (u : Nat) (v : Core) : (s.setCore u v).now = s.now := rfl
@[simp] theorem State.setCore_skew (s : State) (u : Nat) (v : Core) : (s.setCore u v).skew = s.skew := rfl
@[simp] theorem State.setCore_fresh (s : State) (u : Nat) (v : Core) : (s.setCore u v).fresh = s.fresh := rfl
@[simp] theorem State.setCore_free (s : State) (u : Nat) (v : Core) : (s.setCore u v).free = s.free := rfl
@[simp] theorem State.setCore_th (s : State) (u : Nat) (v : Core) (k : Nat) : (s.setCore u v).th k = s.th k := rfl
@[simp] theorem State.setCore_cluster (s : State) (u : Nat) (v : Core) (k : Nat) : (s.setCore u v).cluster k = s.cluster k := rfl
@[simp] theorem State.setCore_ctx (s : State) (u : Nat) (v : Core) (k : Nat) : (s.setCore u v).ctx k = s.ctx k := rfl
@[simp] theorem State.setCore_stream (s : State) (u : Nat) (v : Core) (k : Nat) : (s.setCore u v).stream k = s.stream k := rfl
@[simp] theorem State.setCore_queue (s : State) (u : Nat) (v : Core) (k : Nat) : (s.setCore u v).queue k = s.queue k := rfl
@[simp] theorem State.setCore_home (s : State) (u : Nat) (v : Core) (k : Nat) : (s.setCore u v).home k = s.home k := rfl
@[simp] theorem State.setCore_tlb (s : State) (u : Nat) (v : Core) (k : Nat) : (s.setCore u v).tlb k = s.tlb k := rfl
@[simp] theorem State.setCore_req (s : State) (u : Nat) (v : Core) (k : Nat) : (s.setCore u v).req k = s.req k := rfl
@[simp] theorem State.setCore_read (s : State) (u : Nat) (v : Core) (k n : Nat) : (s.setCore u v).read k n = s.read k n := rfl
@[simp] theorem State.setCore_full (s : State) (u : Nat) (v : Core) (k : Nat) : (s.setCore u v).full k = s.full k := rfl
@[simp] theorem State.setCore_arg (s : State) (u : Nat) (v : Core) (k : Nat) : (s.setCore u v).arg k = s.arg k := rfl

/-! ### `setCluster` -/

@[simp] theorem State.setCluster_threads (s : State) (c : Nat) (v : Cluster) : (s.setCluster c v).threads = s.threads := rfl
@[simp] theorem State.setCluster_units (s : State) (c : Nat) (v : Cluster) : (s.setCluster c v).units = s.units := rfl
@[simp] theorem State.setCluster_ctxs (s : State) (c : Nat) (v : Cluster) : (s.setCluster c v).ctxs = s.ctxs := rfl
@[simp] theorem State.setCluster_streams (s : State) (c : Nat) (v : Cluster) : (s.setCluster c v).streams = s.streams := rfl
@[simp] theorem State.setCluster_queues (s : State) (c : Nat) (v : Cluster) : (s.setCluster c v).queues = s.queues := rfl
@[simp] theorem State.setCluster_homes (s : State) (c : Nat) (v : Cluster) : (s.setCluster c v).homes = s.homes := rfl
@[simp] theorem State.setCluster_tlbs (s : State) (c : Nat) (v : Cluster) : (s.setCluster c v).tlbs = s.tlbs := rfl
@[simp] theorem State.setCluster_pkg (s : State) (c : Nat) (v : Cluster) : (s.setCluster c v).pkg = s.pkg := rfl
@[simp] theorem State.setCluster_mem (s : State) (c : Nat) (v : Cluster) : (s.setCluster c v).mem = s.mem := rfl
@[simp] theorem State.setCluster_empties (s : State) (c : Nat) (v : Cluster) : (s.setCluster c v).empties = s.empties := rfl
@[simp] theorem State.setCluster_poison (s : State) (c : Nat) (v : Cluster) : (s.setCluster c v).poison = s.poison := rfl
@[simp] theorem State.setCluster_reqs (s : State) (c : Nat) (v : Cluster) : (s.setCluster c v).reqs = s.reqs := rfl
@[simp] theorem State.setCluster_msgs (s : State) (c : Nat) (v : Cluster) : (s.setCluster c v).msgs = s.msgs := rfl
@[simp] theorem State.setCluster_steals (s : State) (c : Nat) (v : Cluster) : (s.setCluster c v).steals = s.steals := rfl
@[simp] theorem State.setCluster_pairs (s : State) (c : Nat) (v : Cluster) : (s.setCluster c v).pairs = s.pairs := rfl
@[simp] theorem State.setCluster_agenda (s : State) (c : Nat) (v : Cluster) : (s.setCluster c v).agenda = s.agenda := rfl
@[simp] theorem State.setCluster_timers (s : State) (c : Nat) (v : Cluster) : (s.setCluster c v).timers = s.timers := rfl
@[simp] theorem State.setCluster_plan (s : State) (c : Nat) (v : Cluster) : (s.setCluster c v).plan = s.plan := rfl
@[simp] theorem State.setCluster_ev (s : State) (c : Nat) (v : Cluster) : (s.setCluster c v).ev = s.ev := rfl
@[simp] theorem State.setCluster_focus (s : State) (c : Nat) (v : Cluster) : (s.setCluster c v).focus = s.focus := rfl
@[simp] theorem State.setCluster_resume (s : State) (c : Nat) (v : Cluster) : (s.setCluster c v).resume = s.resume := rfl
@[simp] theorem State.setCluster_split (s : State) (c : Nat) (v : Cluster) : (s.setCluster c v).split = s.split := rfl
@[simp] theorem State.setCluster_now (s : State) (c : Nat) (v : Cluster) : (s.setCluster c v).now = s.now := rfl
@[simp] theorem State.setCluster_skew (s : State) (c : Nat) (v : Cluster) : (s.setCluster c v).skew = s.skew := rfl
@[simp] theorem State.setCluster_fresh (s : State) (c : Nat) (v : Cluster) : (s.setCluster c v).fresh = s.fresh := rfl
@[simp] theorem State.setCluster_free (s : State) (c : Nat) (v : Cluster) : (s.setCluster c v).free = s.free := rfl
@[simp] theorem State.setCluster_th (s : State) (c : Nat) (v : Cluster) (k : Nat) : (s.setCluster c v).th k = s.th k := rfl
@[simp] theorem State.setCluster_core (s : State) (c : Nat) (v : Cluster) (k : Nat) : (s.setCluster c v).core k = s.core k := rfl
@[simp] theorem State.setCluster_ctx (s : State) (c : Nat) (v : Cluster) (k : Nat) : (s.setCluster c v).ctx k = s.ctx k := rfl
@[simp] theorem State.setCluster_stream (s : State) (c : Nat) (v : Cluster) (k : Nat) : (s.setCluster c v).stream k = s.stream k := rfl
@[simp] theorem State.setCluster_queue (s : State) (c : Nat) (v : Cluster) (k : Nat) : (s.setCluster c v).queue k = s.queue k := rfl
@[simp] theorem State.setCluster_home (s : State) (c : Nat) (v : Cluster) (k : Nat) : (s.setCluster c v).home k = s.home k := rfl
@[simp] theorem State.setCluster_tlb (s : State) (c : Nat) (v : Cluster) (k : Nat) : (s.setCluster c v).tlb k = s.tlb k := rfl
@[simp] theorem State.setCluster_req (s : State) (c : Nat) (v : Cluster) (k : Nat) : (s.setCluster c v).req k = s.req k := rfl
@[simp] theorem State.setCluster_read (s : State) (c : Nat) (v : Cluster) (k n : Nat) : (s.setCluster c v).read k n = s.read k n := rfl
@[simp] theorem State.setCluster_full (s : State) (c : Nat) (v : Cluster) (k : Nat) : (s.setCluster c v).full k = s.full k := rfl
@[simp] theorem State.setCluster_arg (s : State) (c : Nat) (v : Cluster) (k : Nat) : (s.setCluster c v).arg k = s.arg k := rfl

/-! ### `setCtx` -/

@[simp] theorem State.setCtx_threads (s : State) (c : Nat) (v : Ctx) : (s.setCtx c v).threads = s.threads := rfl
@[simp] theorem State.setCtx_units (s : State) (c : Nat) (v : Ctx) : (s.setCtx c v).units = s.units := rfl
@[simp] theorem State.setCtx_clusters (s : State) (c : Nat) (v : Ctx) : (s.setCtx c v).clusters = s.clusters := rfl
@[simp] theorem State.setCtx_streams (s : State) (c : Nat) (v : Ctx) : (s.setCtx c v).streams = s.streams := rfl
@[simp] theorem State.setCtx_queues (s : State) (c : Nat) (v : Ctx) : (s.setCtx c v).queues = s.queues := rfl
@[simp] theorem State.setCtx_homes (s : State) (c : Nat) (v : Ctx) : (s.setCtx c v).homes = s.homes := rfl
@[simp] theorem State.setCtx_tlbs (s : State) (c : Nat) (v : Ctx) : (s.setCtx c v).tlbs = s.tlbs := rfl
@[simp] theorem State.setCtx_pkg (s : State) (c : Nat) (v : Ctx) : (s.setCtx c v).pkg = s.pkg := rfl
@[simp] theorem State.setCtx_mem (s : State) (c : Nat) (v : Ctx) : (s.setCtx c v).mem = s.mem := rfl
@[simp] theorem State.setCtx_empties (s : State) (c : Nat) (v : Ctx) : (s.setCtx c v).empties = s.empties := rfl
@[simp] theorem State.setCtx_poison (s : State) (c : Nat) (v : Ctx) : (s.setCtx c v).poison = s.poison := rfl
@[simp] theorem State.setCtx_reqs (s : State) (c : Nat) (v : Ctx) : (s.setCtx c v).reqs = s.reqs := rfl
@[simp] theorem State.setCtx_msgs (s : State) (c : Nat) (v : Ctx) : (s.setCtx c v).msgs = s.msgs := rfl
@[simp] theorem State.setCtx_steals (s : State) (c : Nat) (v : Ctx) : (s.setCtx c v).steals = s.steals := rfl
@[simp] theorem State.setCtx_pairs (s : State) (c : Nat) (v : Ctx) : (s.setCtx c v).pairs = s.pairs := rfl
@[simp] theorem State.setCtx_agenda (s : State) (c : Nat) (v : Ctx) : (s.setCtx c v).agenda = s.agenda := rfl
@[simp] theorem State.setCtx_timers (s : State) (c : Nat) (v : Ctx) : (s.setCtx c v).timers = s.timers := rfl
@[simp] theorem State.setCtx_plan (s : State) (c : Nat) (v : Ctx) : (s.setCtx c v).plan = s.plan := rfl
@[simp] theorem State.setCtx_ev (s : State) (c : Nat) (v : Ctx) : (s.setCtx c v).ev = s.ev := rfl
@[simp] theorem State.setCtx_focus (s : State) (c : Nat) (v : Ctx) : (s.setCtx c v).focus = s.focus := rfl
@[simp] theorem State.setCtx_resume (s : State) (c : Nat) (v : Ctx) : (s.setCtx c v).resume = s.resume := rfl
@[simp] theorem State.setCtx_split (s : State) (c : Nat) (v : Ctx) : (s.setCtx c v).split = s.split := rfl
@[simp] theorem State.setCtx_now (s : State) (c : Nat) (v : Ctx) : (s.setCtx c v).now = s.now := rfl
@[simp] theorem State.setCtx_skew (s : State) (c : Nat) (v : Ctx) : (s.setCtx c v).skew = s.skew := rfl
@[simp] theorem State.setCtx_fresh (s : State) (c : Nat) (v : Ctx) : (s.setCtx c v).fresh = s.fresh := rfl
@[simp] theorem State.setCtx_free (s : State) (c : Nat) (v : Ctx) : (s.setCtx c v).free = s.free := rfl
@[simp] theorem State.setCtx_th (s : State) (c : Nat) (v : Ctx) (k : Nat) : (s.setCtx c v).th k = s.th k := rfl
@[simp] theorem State.setCtx_core (s : State) (c : Nat) (v : Ctx) (k : Nat) : (s.setCtx c v).core k = s.core k := rfl
@[simp] theorem State.setCtx_cluster (s : State) (c : Nat) (v : Ctx) (k : Nat) : (s.setCtx c v).cluster k = s.cluster k := rfl
@[simp] theorem State.setCtx_stream (s : State) (c : Nat) (v : Ctx) (k : Nat) : (s.setCtx c v).stream k = s.stream k := rfl
@[simp] theorem State.setCtx_queue (s : State) (c : Nat) (v : Ctx) (k : Nat) : (s.setCtx c v).queue k = s.queue k := rfl
@[simp] theorem State.setCtx_home (s : State) (c : Nat) (v : Ctx) (k : Nat) : (s.setCtx c v).home k = s.home k := rfl
@[simp] theorem State.setCtx_tlb (s : State) (c : Nat) (v : Ctx) (k : Nat) : (s.setCtx c v).tlb k = s.tlb k := rfl
@[simp] theorem State.setCtx_req (s : State) (c : Nat) (v : Ctx) (k : Nat) : (s.setCtx c v).req k = s.req k := rfl
@[simp] theorem State.setCtx_read (s : State) (c : Nat) (v : Ctx) (k n : Nat) : (s.setCtx c v).read k n = s.read k n := rfl
@[simp] theorem State.setCtx_full (s : State) (c : Nat) (v : Ctx) (k : Nat) : (s.setCtx c v).full k = s.full k := rfl
@[simp] theorem State.setCtx_arg (s : State) (c : Nat) (v : Ctx) (k : Nat) : (s.setCtx c v).arg k = s.arg k := rfl

/-! ### `setStream` -/

@[simp] theorem State.setStream_threads (s : State) (j : Nat) (v : Stream) : (s.setStream j v).threads = s.threads := rfl
@[simp] theorem State.setStream_units (s : State) (j : Nat) (v : Stream) : (s.setStream j v).units = s.units := rfl
@[simp] theorem State.setStream_clusters (s : State) (j : Nat) (v : Stream) : (s.setStream j v).clusters = s.clusters := rfl
@[simp] theorem State.setStream_ctxs (s : State) (j : Nat) (v : Stream) : (s.setStream j v).ctxs = s.ctxs := rfl
@[simp] theorem State.setStream_queues (s : State) (j : Nat) (v : Stream) : (s.setStream j v).queues = s.queues := rfl
@[simp] theorem State.setStream_homes (s : State) (j : Nat) (v : Stream) : (s.setStream j v).homes = s.homes := rfl
@[simp] theorem State.setStream_tlbs (s : State) (j : Nat) (v : Stream) : (s.setStream j v).tlbs = s.tlbs := rfl
@[simp] theorem State.setStream_pkg (s : State) (j : Nat) (v : Stream) : (s.setStream j v).pkg = s.pkg := rfl
@[simp] theorem State.setStream_mem (s : State) (j : Nat) (v : Stream) : (s.setStream j v).mem = s.mem := rfl
@[simp] theorem State.setStream_empties (s : State) (j : Nat) (v : Stream) : (s.setStream j v).empties = s.empties := rfl
@[simp] theorem State.setStream_poison (s : State) (j : Nat) (v : Stream) : (s.setStream j v).poison = s.poison := rfl
@[simp] theorem State.setStream_reqs (s : State) (j : Nat) (v : Stream) : (s.setStream j v).reqs = s.reqs := rfl
@[simp] theorem State.setStream_msgs (s : State) (j : Nat) (v : Stream) : (s.setStream j v).msgs = s.msgs := rfl
@[simp] theorem State.setStream_steals (s : State) (j : Nat) (v : Stream) : (s.setStream j v).steals = s.steals := rfl
@[simp] theorem State.setStream_pairs (s : State) (j : Nat) (v : Stream) : (s.setStream j v).pairs = s.pairs := rfl
@[simp] theorem State.setStream_agenda (s : State) (j : Nat) (v : Stream) : (s.setStream j v).agenda = s.agenda := rfl
@[simp] theorem State.setStream_timers (s : State) (j : Nat) (v : Stream) : (s.setStream j v).timers = s.timers := rfl
@[simp] theorem State.setStream_plan (s : State) (j : Nat) (v : Stream) : (s.setStream j v).plan = s.plan := rfl
@[simp] theorem State.setStream_ev (s : State) (j : Nat) (v : Stream) : (s.setStream j v).ev = s.ev := rfl
@[simp] theorem State.setStream_focus (s : State) (j : Nat) (v : Stream) : (s.setStream j v).focus = s.focus := rfl
@[simp] theorem State.setStream_resume (s : State) (j : Nat) (v : Stream) : (s.setStream j v).resume = s.resume := rfl
@[simp] theorem State.setStream_split (s : State) (j : Nat) (v : Stream) : (s.setStream j v).split = s.split := rfl
@[simp] theorem State.setStream_now (s : State) (j : Nat) (v : Stream) : (s.setStream j v).now = s.now := rfl
@[simp] theorem State.setStream_skew (s : State) (j : Nat) (v : Stream) : (s.setStream j v).skew = s.skew := rfl
@[simp] theorem State.setStream_fresh (s : State) (j : Nat) (v : Stream) : (s.setStream j v).fresh = s.fresh := rfl
@[simp] theorem State.setStream_free (s : State) (j : Nat) (v : Stream) : (s.setStream j v).free = s.free := rfl
@[simp] theorem State.setStream_th (s : State) (j : Nat) (v : Stream) (k : Nat) : (s.setStream j v).th k = s.th k := rfl
@[simp] theorem State.setStream_core (s : State) (j : Nat) (v : Stream) (k : Nat) : (s.setStream j v).core k = s.core k := rfl
@[simp] theorem State.setStream_cluster (s : State) (j : Nat) (v : Stream) (k : Nat) : (s.setStream j v).cluster k = s.cluster k := rfl
@[simp] theorem State.setStream_ctx (s : State) (j : Nat) (v : Stream) (k : Nat) : (s.setStream j v).ctx k = s.ctx k := rfl
@[simp] theorem State.setStream_queue (s : State) (j : Nat) (v : Stream) (k : Nat) : (s.setStream j v).queue k = s.queue k := rfl
@[simp] theorem State.setStream_home (s : State) (j : Nat) (v : Stream) (k : Nat) : (s.setStream j v).home k = s.home k := rfl
@[simp] theorem State.setStream_tlb (s : State) (j : Nat) (v : Stream) (k : Nat) : (s.setStream j v).tlb k = s.tlb k := rfl
@[simp] theorem State.setStream_req (s : State) (j : Nat) (v : Stream) (k : Nat) : (s.setStream j v).req k = s.req k := rfl
@[simp] theorem State.setStream_read (s : State) (j : Nat) (v : Stream) (k n : Nat) : (s.setStream j v).read k n = s.read k n := rfl
@[simp] theorem State.setStream_full (s : State) (j : Nat) (v : Stream) (k : Nat) : (s.setStream j v).full k = s.full k := rfl
@[simp] theorem State.setStream_arg (s : State) (j : Nat) (v : Stream) (k : Nat) : (s.setStream j v).arg k = s.arg k := rfl

/-! ### `setQueue` -/

@[simp] theorem State.setQueue_threads (s : State) (q : Nat) (v : Queue) : (s.setQueue q v).threads = s.threads := rfl
@[simp] theorem State.setQueue_units (s : State) (q : Nat) (v : Queue) : (s.setQueue q v).units = s.units := rfl
@[simp] theorem State.setQueue_clusters (s : State) (q : Nat) (v : Queue) : (s.setQueue q v).clusters = s.clusters := rfl
@[simp] theorem State.setQueue_ctxs (s : State) (q : Nat) (v : Queue) : (s.setQueue q v).ctxs = s.ctxs := rfl
@[simp] theorem State.setQueue_streams (s : State) (q : Nat) (v : Queue) : (s.setQueue q v).streams = s.streams := rfl
@[simp] theorem State.setQueue_homes (s : State) (q : Nat) (v : Queue) : (s.setQueue q v).homes = s.homes := rfl
@[simp] theorem State.setQueue_tlbs (s : State) (q : Nat) (v : Queue) : (s.setQueue q v).tlbs = s.tlbs := rfl
@[simp] theorem State.setQueue_pkg (s : State) (q : Nat) (v : Queue) : (s.setQueue q v).pkg = s.pkg := rfl
@[simp] theorem State.setQueue_mem (s : State) (q : Nat) (v : Queue) : (s.setQueue q v).mem = s.mem := rfl
@[simp] theorem State.setQueue_empties (s : State) (q : Nat) (v : Queue) : (s.setQueue q v).empties = s.empties := rfl
@[simp] theorem State.setQueue_poison (s : State) (q : Nat) (v : Queue) : (s.setQueue q v).poison = s.poison := rfl
@[simp] theorem State.setQueue_reqs (s : State) (q : Nat) (v : Queue) : (s.setQueue q v).reqs = s.reqs := rfl
@[simp] theorem State.setQueue_msgs (s : State) (q : Nat) (v : Queue) : (s.setQueue q v).msgs = s.msgs := rfl
@[simp] theorem State.setQueue_steals (s : State) (q : Nat) (v : Queue) : (s.setQueue q v).steals = s.steals := rfl
@[simp] theorem State.setQueue_pairs (s : State) (q : Nat) (v : Queue) : (s.setQueue q v).pairs = s.pairs := rfl
@[simp] theorem State.setQueue_agenda (s : State) (q : Nat) (v : Queue) : (s.setQueue q v).agenda = s.agenda := rfl
@[simp] theorem State.setQueue_timers (s : State) (q : Nat) (v : Queue) : (s.setQueue q v).timers = s.timers := rfl
@[simp] theorem State.setQueue_plan (s : State) (q : Nat) (v : Queue) : (s.setQueue q v).plan = s.plan := rfl
@[simp] theorem State.setQueue_ev (s : State) (q : Nat) (v : Queue) : (s.setQueue q v).ev = s.ev := rfl
@[simp] theorem State.setQueue_focus (s : State) (q : Nat) (v : Queue) : (s.setQueue q v).focus = s.focus := rfl
@[simp] theorem State.setQueue_resume (s : State) (q : Nat) (v : Queue) : (s.setQueue q v).resume = s.resume := rfl
@[simp] theorem State.setQueue_split (s : State) (q : Nat) (v : Queue) : (s.setQueue q v).split = s.split := rfl
@[simp] theorem State.setQueue_now (s : State) (q : Nat) (v : Queue) : (s.setQueue q v).now = s.now := rfl
@[simp] theorem State.setQueue_skew (s : State) (q : Nat) (v : Queue) : (s.setQueue q v).skew = s.skew := rfl
@[simp] theorem State.setQueue_fresh (s : State) (q : Nat) (v : Queue) : (s.setQueue q v).fresh = s.fresh := rfl
@[simp] theorem State.setQueue_free (s : State) (q : Nat) (v : Queue) : (s.setQueue q v).free = s.free := rfl
@[simp] theorem State.setQueue_th (s : State) (q : Nat) (v : Queue) (k : Nat) : (s.setQueue q v).th k = s.th k := rfl
@[simp] theorem State.setQueue_core (s : State) (q : Nat) (v : Queue) (k : Nat) : (s.setQueue q v).core k = s.core k := rfl
@[simp] theorem State.setQueue_cluster (s : State) (q : Nat) (v : Queue) (k : Nat) : (s.setQueue q v).cluster k = s.cluster k := rfl
@[simp] theorem State.setQueue_ctx (s : State) (q : Nat) (v : Queue) (k : Nat) : (s.setQueue q v).ctx k = s.ctx k := rfl
@[simp] theorem State.setQueue_stream (s : State) (q : Nat) (v : Queue) (k : Nat) : (s.setQueue q v).stream k = s.stream k := rfl
@[simp] theorem State.setQueue_home (s : State) (q : Nat) (v : Queue) (k : Nat) : (s.setQueue q v).home k = s.home k := rfl
@[simp] theorem State.setQueue_tlb (s : State) (q : Nat) (v : Queue) (k : Nat) : (s.setQueue q v).tlb k = s.tlb k := rfl
@[simp] theorem State.setQueue_req (s : State) (q : Nat) (v : Queue) (k : Nat) : (s.setQueue q v).req k = s.req k := rfl
@[simp] theorem State.setQueue_read (s : State) (q : Nat) (v : Queue) (k n : Nat) : (s.setQueue q v).read k n = s.read k n := rfl
@[simp] theorem State.setQueue_full (s : State) (q : Nat) (v : Queue) (k : Nat) : (s.setQueue q v).full k = s.full k := rfl
@[simp] theorem State.setQueue_arg (s : State) (q : Nat) (v : Queue) (k : Nat) : (s.setQueue q v).arg k = s.arg k := rfl

/-! ### `setHome` -/

@[simp] theorem State.setHome_threads (s : State) (h : Nat) (v : Home) : (s.setHome h v).threads = s.threads := rfl
@[simp] theorem State.setHome_units (s : State) (h : Nat) (v : Home) : (s.setHome h v).units = s.units := rfl
@[simp] theorem State.setHome_clusters (s : State) (h : Nat) (v : Home) : (s.setHome h v).clusters = s.clusters := rfl
@[simp] theorem State.setHome_ctxs (s : State) (h : Nat) (v : Home) : (s.setHome h v).ctxs = s.ctxs := rfl
@[simp] theorem State.setHome_streams (s : State) (h : Nat) (v : Home) : (s.setHome h v).streams = s.streams := rfl
@[simp] theorem State.setHome_queues (s : State) (h : Nat) (v : Home) : (s.setHome h v).queues = s.queues := rfl
@[simp] theorem State.setHome_tlbs (s : State) (h : Nat) (v : Home) : (s.setHome h v).tlbs = s.tlbs := rfl
@[simp] theorem State.setHome_pkg (s : State) (h : Nat) (v : Home) : (s.setHome h v).pkg = s.pkg := rfl
@[simp] theorem State.setHome_mem (s : State) (h : Nat) (v : Home) : (s.setHome h v).mem = s.mem := rfl
@[simp] theorem State.setHome_empties (s : State) (h : Nat) (v : Home) : (s.setHome h v).empties = s.empties := rfl
@[simp] theorem State.setHome_poison (s : State) (h : Nat) (v : Home) : (s.setHome h v).poison = s.poison := rfl
@[simp] theorem State.setHome_reqs (s : State) (h : Nat) (v : Home) : (s.setHome h v).reqs = s.reqs := rfl
@[simp] theorem State.setHome_msgs (s : State) (h : Nat) (v : Home) : (s.setHome h v).msgs = s.msgs := rfl
@[simp] theorem State.setHome_steals (s : State) (h : Nat) (v : Home) : (s.setHome h v).steals = s.steals := rfl
@[simp] theorem State.setHome_pairs (s : State) (h : Nat) (v : Home) : (s.setHome h v).pairs = s.pairs := rfl
@[simp] theorem State.setHome_agenda (s : State) (h : Nat) (v : Home) : (s.setHome h v).agenda = s.agenda := rfl
@[simp] theorem State.setHome_timers (s : State) (h : Nat) (v : Home) : (s.setHome h v).timers = s.timers := rfl
@[simp] theorem State.setHome_plan (s : State) (h : Nat) (v : Home) : (s.setHome h v).plan = s.plan := rfl
@[simp] theorem State.setHome_ev (s : State) (h : Nat) (v : Home) : (s.setHome h v).ev = s.ev := rfl
@[simp] theorem State.setHome_focus (s : State) (h : Nat) (v : Home) : (s.setHome h v).focus = s.focus := rfl
@[simp] theorem State.setHome_resume (s : State) (h : Nat) (v : Home) : (s.setHome h v).resume = s.resume := rfl
@[simp] theorem State.setHome_split (s : State) (h : Nat) (v : Home) : (s.setHome h v).split = s.split := rfl
@[simp] theorem State.setHome_now (s : State) (h : Nat) (v : Home) : (s.setHome h v).now = s.now := rfl
@[simp] theorem State.setHome_skew (s : State) (h : Nat) (v : Home) : (s.setHome h v).skew = s.skew := rfl
@[simp] theorem State.setHome_fresh (s : State) (h : Nat) (v : Home) : (s.setHome h v).fresh = s.fresh := rfl
@[simp] theorem State.setHome_free (s : State) (h : Nat) (v : Home) : (s.setHome h v).free = s.free := rfl
@[simp] theorem State.setHome_th (s : State) (h : Nat) (v : Home) (k : Nat) : (s.setHome h v).th k = s.th k := rfl
@[simp] theorem State.setHome_core (s : State) (h : Nat) (v : Home) (k : Nat) : (s.setHome h v).core k = s.core k := rfl
@[simp] theorem State.setHome_cluster (s : State) (h : Nat) (v : Home) (k : Nat) : (s.setHome h v).cluster k = s.cluster k := rfl
@[simp] theorem State.setHome_ctx (s : State) (h : Nat) (v : Home) (k : Nat) : (s.setHome h v).ctx k = s.ctx k := rfl
@[simp] theorem State.setHome_stream (s : State) (h : Nat) (v : Home) (k : Nat) : (s.setHome h v).stream k = s.stream k := rfl
@[simp] theorem State.setHome_queue (s : State) (h : Nat) (v : Home) (k : Nat) : (s.setHome h v).queue k = s.queue k := rfl
@[simp] theorem State.setHome_tlb (s : State) (h : Nat) (v : Home) (k : Nat) : (s.setHome h v).tlb k = s.tlb k := rfl
@[simp] theorem State.setHome_req (s : State) (h : Nat) (v : Home) (k : Nat) : (s.setHome h v).req k = s.req k := rfl
@[simp] theorem State.setHome_read (s : State) (h : Nat) (v : Home) (k n : Nat) : (s.setHome h v).read k n = s.read k n := rfl
@[simp] theorem State.setHome_full (s : State) (h : Nat) (v : Home) (k : Nat) : (s.setHome h v).full k = s.full k := rfl
@[simp] theorem State.setHome_arg (s : State) (h : Nat) (v : Home) (k : Nat) : (s.setHome h v).arg k = s.arg k := rfl

/-! ### `setTlb` -/

@[simp] theorem State.setTlb_threads (s : State) (b : Nat) (v : List TlbEntry) : (s.setTlb b v).threads = s.threads := rfl
@[simp] theorem State.setTlb_units (s : State) (b : Nat) (v : List TlbEntry) : (s.setTlb b v).units = s.units := rfl
@[simp] theorem State.setTlb_clusters (s : State) (b : Nat) (v : List TlbEntry) : (s.setTlb b v).clusters = s.clusters := rfl
@[simp] theorem State.setTlb_ctxs (s : State) (b : Nat) (v : List TlbEntry) : (s.setTlb b v).ctxs = s.ctxs := rfl
@[simp] theorem State.setTlb_streams (s : State) (b : Nat) (v : List TlbEntry) : (s.setTlb b v).streams = s.streams := rfl
@[simp] theorem State.setTlb_queues (s : State) (b : Nat) (v : List TlbEntry) : (s.setTlb b v).queues = s.queues := rfl
@[simp] theorem State.setTlb_homes (s : State) (b : Nat) (v : List TlbEntry) : (s.setTlb b v).homes = s.homes := rfl
@[simp] theorem State.setTlb_pkg (s : State) (b : Nat) (v : List TlbEntry) : (s.setTlb b v).pkg = s.pkg := rfl
@[simp] theorem State.setTlb_mem (s : State) (b : Nat) (v : List TlbEntry) : (s.setTlb b v).mem = s.mem := rfl
@[simp] theorem State.setTlb_empties (s : State) (b : Nat) (v : List TlbEntry) : (s.setTlb b v).empties = s.empties := rfl
@[simp] theorem State.setTlb_poison (s : State) (b : Nat) (v : List TlbEntry) : (s.setTlb b v).poison = s.poison := rfl
@[simp] theorem State.setTlb_reqs (s : State) (b : Nat) (v : List TlbEntry) : (s.setTlb b v).reqs = s.reqs := rfl
@[simp] theorem State.setTlb_msgs (s : State) (b : Nat) (v : List TlbEntry) : (s.setTlb b v).msgs = s.msgs := rfl
@[simp] theorem State.setTlb_steals (s : State) (b : Nat) (v : List TlbEntry) : (s.setTlb b v).steals = s.steals := rfl
@[simp] theorem State.setTlb_pairs (s : State) (b : Nat) (v : List TlbEntry) : (s.setTlb b v).pairs = s.pairs := rfl
@[simp] theorem State.setTlb_agenda (s : State) (b : Nat) (v : List TlbEntry) : (s.setTlb b v).agenda = s.agenda := rfl
@[simp] theorem State.setTlb_timers (s : State) (b : Nat) (v : List TlbEntry) : (s.setTlb b v).timers = s.timers := rfl
@[simp] theorem State.setTlb_plan (s : State) (b : Nat) (v : List TlbEntry) : (s.setTlb b v).plan = s.plan := rfl
@[simp] theorem State.setTlb_ev (s : State) (b : Nat) (v : List TlbEntry) : (s.setTlb b v).ev = s.ev := rfl
@[simp] theorem State.setTlb_focus (s : State) (b : Nat) (v : List TlbEntry) : (s.setTlb b v).focus = s.focus := rfl
@[simp] theorem State.setTlb_resume (s : State) (b : Nat) (v : List TlbEntry) : (s.setTlb b v).resume = s.resume := rfl
@[simp] theorem State.setTlb_split (s : State) (b : Nat) (v : List TlbEntry) : (s.setTlb b v).split = s.split := rfl
@[simp] theorem State.setTlb_now (s : State) (b : Nat) (v : List TlbEntry) : (s.setTlb b v).now = s.now := rfl
@[simp] theorem State.setTlb_skew (s : State) (b : Nat) (v : List TlbEntry) : (s.setTlb b v).skew = s.skew := rfl
@[simp] theorem State.setTlb_fresh (s : State) (b : Nat) (v : List TlbEntry) : (s.setTlb b v).fresh = s.fresh := rfl
@[simp] theorem State.setTlb_free (s : State) (b : Nat) (v : List TlbEntry) : (s.setTlb b v).free = s.free := rfl
@[simp] theorem State.setTlb_th (s : State) (b : Nat) (v : List TlbEntry) (k : Nat) : (s.setTlb b v).th k = s.th k := rfl
@[simp] theorem State.setTlb_core (s : State) (b : Nat) (v : List TlbEntry) (k : Nat) : (s.setTlb b v).core k = s.core k := rfl
@[simp] theorem State.setTlb_cluster (s : State) (b : Nat) (v : List TlbEntry) (k : Nat) : (s.setTlb b v).cluster k = s.cluster k := rfl
@[simp] theorem State.setTlb_ctx (s : State) (b : Nat) (v : List TlbEntry) (k : Nat) : (s.setTlb b v).ctx k = s.ctx k := rfl
@[simp] theorem State.setTlb_stream (s : State) (b : Nat) (v : List TlbEntry) (k : Nat) : (s.setTlb b v).stream k = s.stream k := rfl
@[simp] theorem State.setTlb_queue (s : State) (b : Nat) (v : List TlbEntry) (k : Nat) : (s.setTlb b v).queue k = s.queue k := rfl
@[simp] theorem State.setTlb_home (s : State) (b : Nat) (v : List TlbEntry) (k : Nat) : (s.setTlb b v).home k = s.home k := rfl
@[simp] theorem State.setTlb_req (s : State) (b : Nat) (v : List TlbEntry) (k : Nat) : (s.setTlb b v).req k = s.req k := rfl
@[simp] theorem State.setTlb_read (s : State) (b : Nat) (v : List TlbEntry) (k n : Nat) : (s.setTlb b v).read k n = s.read k n := rfl
@[simp] theorem State.setTlb_full (s : State) (b : Nat) (v : List TlbEntry) (k : Nat) : (s.setTlb b v).full k = s.full k := rfl
@[simp] theorem State.setTlb_arg (s : State) (b : Nat) (v : List TlbEntry) (k : Nat) : (s.setTlb b v).arg k = s.arg k := rfl

/-! ### `setPkg` -/

@[simp] theorem State.setPkg_threads (s : State) (p : Pkg) : (s.setPkg p).threads = s.threads := rfl
@[simp] theorem State.setPkg_units (s : State) (p : Pkg) : (s.setPkg p).units = s.units := rfl
@[simp] theorem State.setPkg_clusters (s : State) (p : Pkg) : (s.setPkg p).clusters = s.clusters := rfl
@[simp] theorem State.setPkg_ctxs (s : State) (p : Pkg) : (s.setPkg p).ctxs = s.ctxs := rfl
@[simp] theorem State.setPkg_streams (s : State) (p : Pkg) : (s.setPkg p).streams = s.streams := rfl
@[simp] theorem State.setPkg_queues (s : State) (p : Pkg) : (s.setPkg p).queues = s.queues := rfl
@[simp] theorem State.setPkg_homes (s : State) (p : Pkg) : (s.setPkg p).homes = s.homes := rfl
@[simp] theorem State.setPkg_tlbs (s : State) (p : Pkg) : (s.setPkg p).tlbs = s.tlbs := rfl
@[simp] theorem State.setPkg_mem (s : State) (p : Pkg) : (s.setPkg p).mem = s.mem := rfl
@[simp] theorem State.setPkg_empties (s : State) (p : Pkg) : (s.setPkg p).empties = s.empties := rfl
@[simp] theorem State.setPkg_poison (s : State) (p : Pkg) : (s.setPkg p).poison = s.poison := rfl
@[simp] theorem State.setPkg_reqs (s : State) (p : Pkg) : (s.setPkg p).reqs = s.reqs := rfl
@[simp] theorem State.setPkg_msgs (s : State) (p : Pkg) : (s.setPkg p).msgs = s.msgs := rfl
@[simp] theorem State.setPkg_steals (s : State) (p : Pkg) : (s.setPkg p).steals = s.steals := rfl
@[simp] theorem State.setPkg_pairs (s : State) (p : Pkg) : (s.setPkg p).pairs = s.pairs := rfl
@[simp] theorem State.setPkg_agenda (s : State) (p : Pkg) : (s.setPkg p).agenda = s.agenda := rfl
@[simp] theorem State.setPkg_timers (s : State) (p : Pkg) : (s.setPkg p).timers = s.timers := rfl
@[simp] theorem State.setPkg_plan (s : State) (p : Pkg) : (s.setPkg p).plan = s.plan := rfl
@[simp] theorem State.setPkg_ev (s : State) (p : Pkg) : (s.setPkg p).ev = s.ev := rfl
@[simp] theorem State.setPkg_focus (s : State) (p : Pkg) : (s.setPkg p).focus = s.focus := rfl
@[simp] theorem State.setPkg_resume (s : State) (p : Pkg) : (s.setPkg p).resume = s.resume := rfl
@[simp] theorem State.setPkg_split (s : State) (p : Pkg) : (s.setPkg p).split = s.split := rfl
@[simp] theorem State.setPkg_now (s : State) (p : Pkg) : (s.setPkg p).now = s.now := rfl
@[simp] theorem State.setPkg_skew (s : State) (p : Pkg) : (s.setPkg p).skew = s.skew := rfl
@[simp] theorem State.setPkg_fresh (s : State) (p : Pkg) : (s.setPkg p).fresh = s.fresh := rfl
@[simp] theorem State.setPkg_free (s : State) (p : Pkg) : (s.setPkg p).free = s.free := rfl
@[simp] theorem State.setPkg_th (s : State) (p : Pkg) (k : Nat) : (s.setPkg p).th k = s.th k := rfl
@[simp] theorem State.setPkg_core (s : State) (p : Pkg) (k : Nat) : (s.setPkg p).core k = s.core k := rfl
@[simp] theorem State.setPkg_cluster (s : State) (p : Pkg) (k : Nat) : (s.setPkg p).cluster k = s.cluster k := rfl
@[simp] theorem State.setPkg_ctx (s : State) (p : Pkg) (k : Nat) : (s.setPkg p).ctx k = s.ctx k := rfl
@[simp] theorem State.setPkg_stream (s : State) (p : Pkg) (k : Nat) : (s.setPkg p).stream k = s.stream k := rfl
@[simp] theorem State.setPkg_queue (s : State) (p : Pkg) (k : Nat) : (s.setPkg p).queue k = s.queue k := rfl
@[simp] theorem State.setPkg_home (s : State) (p : Pkg) (k : Nat) : (s.setPkg p).home k = s.home k := rfl
@[simp] theorem State.setPkg_tlb (s : State) (p : Pkg) (k : Nat) : (s.setPkg p).tlb k = s.tlb k := rfl
@[simp] theorem State.setPkg_req (s : State) (p : Pkg) (k : Nat) : (s.setPkg p).req k = s.req k := rfl
@[simp] theorem State.setPkg_read (s : State) (p : Pkg) (k n : Nat) : (s.setPkg p).read k n = s.read k n := rfl
@[simp] theorem State.setPkg_full (s : State) (p : Pkg) (k : Nat) : (s.setPkg p).full k = s.full k := rfl
@[simp] theorem State.setPkg_arg (s : State) (p : Pkg) (k : Nat) : (s.setPkg p).arg k = s.arg k := rfl

/-! ### `setReq` -/

@[simp] theorem State.setReq_threads (s : State) (j : Nat) (r : Req) : (s.setReq j r).threads = s.threads := rfl
@[simp] theorem State.setReq_units (s : State) (j : Nat) (r : Req) : (s.setReq j r).units = s.units := rfl
@[simp] theorem State.setReq_clusters (s : State) (j : Nat) (r : Req) : (s.setReq j r).clusters = s.clusters := rfl
@[simp] theorem State.setReq_ctxs (s : State) (j : Nat) (r : Req) : (s.setReq j r).ctxs = s.ctxs := rfl
@[simp] theorem State.setReq_streams (s : State) (j : Nat) (r : Req) : (s.setReq j r).streams = s.streams := rfl
@[simp] theorem State.setReq_queues (s : State) (j : Nat) (r : Req) : (s.setReq j r).queues = s.queues := rfl
@[simp] theorem State.setReq_homes (s : State) (j : Nat) (r : Req) : (s.setReq j r).homes = s.homes := rfl
@[simp] theorem State.setReq_tlbs (s : State) (j : Nat) (r : Req) : (s.setReq j r).tlbs = s.tlbs := rfl
@[simp] theorem State.setReq_pkg (s : State) (j : Nat) (r : Req) : (s.setReq j r).pkg = s.pkg := rfl
@[simp] theorem State.setReq_mem (s : State) (j : Nat) (r : Req) : (s.setReq j r).mem = s.mem := rfl
@[simp] theorem State.setReq_empties (s : State) (j : Nat) (r : Req) : (s.setReq j r).empties = s.empties := rfl
@[simp] theorem State.setReq_poison (s : State) (j : Nat) (r : Req) : (s.setReq j r).poison = s.poison := rfl
@[simp] theorem State.setReq_msgs (s : State) (j : Nat) (r : Req) : (s.setReq j r).msgs = s.msgs := rfl
@[simp] theorem State.setReq_steals (s : State) (j : Nat) (r : Req) : (s.setReq j r).steals = s.steals := rfl
@[simp] theorem State.setReq_pairs (s : State) (j : Nat) (r : Req) : (s.setReq j r).pairs = s.pairs := rfl
@[simp] theorem State.setReq_agenda (s : State) (j : Nat) (r : Req) : (s.setReq j r).agenda = s.agenda := rfl
@[simp] theorem State.setReq_timers (s : State) (j : Nat) (r : Req) : (s.setReq j r).timers = s.timers := rfl
@[simp] theorem State.setReq_plan (s : State) (j : Nat) (r : Req) : (s.setReq j r).plan = s.plan := rfl
@[simp] theorem State.setReq_ev (s : State) (j : Nat) (r : Req) : (s.setReq j r).ev = s.ev := rfl
@[simp] theorem State.setReq_focus (s : State) (j : Nat) (r : Req) : (s.setReq j r).focus = s.focus := rfl
@[simp] theorem State.setReq_resume (s : State) (j : Nat) (r : Req) : (s.setReq j r).resume = s.resume := rfl
@[simp] theorem State.setReq_split (s : State) (j : Nat) (r : Req) : (s.setReq j r).split = s.split := rfl
@[simp] theorem State.setReq_now (s : State) (j : Nat) (r : Req) : (s.setReq j r).now = s.now := rfl
@[simp] theorem State.setReq_skew (s : State) (j : Nat) (r : Req) : (s.setReq j r).skew = s.skew := rfl
@[simp] theorem State.setReq_fresh (s : State) (j : Nat) (r : Req) : (s.setReq j r).fresh = s.fresh := rfl
@[simp] theorem State.setReq_free (s : State) (j : Nat) (r : Req) : (s.setReq j r).free = s.free := rfl
@[simp] theorem State.setReq_th (s : State) (j : Nat) (r : Req) (k : Nat) : (s.setReq j r).th k = s.th k := rfl
@[simp] theorem State.setReq_core (s : State) (j : Nat) (r : Req) (k : Nat) : (s.setReq j r).core k = s.core k := rfl
@[simp] theorem State.setReq_cluster (s : State) (j : Nat) (r : Req) (k : Nat) : (s.setReq j r).cluster k = s.cluster k := rfl
@[simp] theorem State.setReq_ctx (s : State) (j : Nat) (r : Req) (k : Nat) : (s.setReq j r).ctx k = s.ctx k := rfl
@[simp] theorem State.setReq_stream (s : State) (j : Nat) (r : Req) (k : Nat) : (s.setReq j r).stream k = s.stream k := rfl
@[simp] theorem State.setReq_queue (s : State) (j : Nat) (r : Req) (k : Nat) : (s.setReq j r).queue k = s.queue k := rfl
@[simp] theorem State.setReq_home (s : State) (j : Nat) (r : Req) (k : Nat) : (s.setReq j r).home k = s.home k := rfl
@[simp] theorem State.setReq_tlb (s : State) (j : Nat) (r : Req) (k : Nat) : (s.setReq j r).tlb k = s.tlb k := rfl
@[simp] theorem State.setReq_read (s : State) (j : Nat) (r : Req) (k n : Nat) : (s.setReq j r).read k n = s.read k n := rfl
@[simp] theorem State.setReq_full (s : State) (j : Nat) (r : Req) (k : Nat) : (s.setReq j r).full k = s.full k := rfl
@[simp] theorem State.setReq_arg (s : State) (j : Nat) (r : Req) (k : Nat) : (s.setReq j r).arg k = s.arg k := rfl

/-! ### `dropReq` -/

@[simp] theorem State.dropReq_threads (s : State) (j : Nat) : (s.dropReq j).threads = s.threads := rfl
@[simp] theorem State.dropReq_units (s : State) (j : Nat) : (s.dropReq j).units = s.units := rfl
@[simp] theorem State.dropReq_clusters (s : State) (j : Nat) : (s.dropReq j).clusters = s.clusters := rfl
@[simp] theorem State.dropReq_ctxs (s : State) (j : Nat) : (s.dropReq j).ctxs = s.ctxs := rfl
@[simp] theorem State.dropReq_streams (s : State) (j : Nat) : (s.dropReq j).streams = s.streams := rfl
@[simp] theorem State.dropReq_queues (s : State) (j : Nat) : (s.dropReq j).queues = s.queues := rfl
@[simp] theorem State.dropReq_homes (s : State) (j : Nat) : (s.dropReq j).homes = s.homes := rfl
@[simp] theorem State.dropReq_tlbs (s : State) (j : Nat) : (s.dropReq j).tlbs = s.tlbs := rfl
@[simp] theorem State.dropReq_pkg (s : State) (j : Nat) : (s.dropReq j).pkg = s.pkg := rfl
@[simp] theorem State.dropReq_mem (s : State) (j : Nat) : (s.dropReq j).mem = s.mem := rfl
@[simp] theorem State.dropReq_empties (s : State) (j : Nat) : (s.dropReq j).empties = s.empties := rfl
@[simp] theorem State.dropReq_poison (s : State) (j : Nat) : (s.dropReq j).poison = s.poison := rfl
@[simp] theorem State.dropReq_msgs (s : State) (j : Nat) : (s.dropReq j).msgs = s.msgs := rfl
@[simp] theorem State.dropReq_steals (s : State) (j : Nat) : (s.dropReq j).steals = s.steals := rfl
@[simp] theorem State.dropReq_pairs (s : State) (j : Nat) : (s.dropReq j).pairs = s.pairs := rfl
@[simp] theorem State.dropReq_agenda (s : State) (j : Nat) : (s.dropReq j).agenda = s.agenda := rfl
@[simp] theorem State.dropReq_timers (s : State) (j : Nat) : (s.dropReq j).timers = s.timers := rfl
@[simp] theorem State.dropReq_plan (s : State) (j : Nat) : (s.dropReq j).plan = s.plan := rfl
@[simp] theorem State.dropReq_ev (s : State) (j : Nat) : (s.dropReq j).ev = s.ev := rfl
@[simp] theorem State.dropReq_focus (s : State) (j : Nat) : (s.dropReq j).focus = s.focus := rfl
@[simp] theorem State.dropReq_resume (s : State) (j : Nat) : (s.dropReq j).resume = s.resume := rfl
@[simp] theorem State.dropReq_split (s : State) (j : Nat) : (s.dropReq j).split = s.split := rfl
@[simp] theorem State.dropReq_now (s : State) (j : Nat) : (s.dropReq j).now = s.now := rfl
@[simp] theorem State.dropReq_skew (s : State) (j : Nat) : (s.dropReq j).skew = s.skew := rfl
@[simp] theorem State.dropReq_fresh (s : State) (j : Nat) : (s.dropReq j).fresh = s.fresh := rfl
@[simp] theorem State.dropReq_free (s : State) (j : Nat) : (s.dropReq j).free = s.free := rfl
@[simp] theorem State.dropReq_th (s : State) (j : Nat) (k : Nat) : (s.dropReq j).th k = s.th k := rfl
@[simp] theorem State.dropReq_core (s : State) (j : Nat) (k : Nat) : (s.dropReq j).core k = s.core k := rfl
@[simp] theorem State.dropReq_cluster (s : State) (j : Nat) (k : Nat) : (s.dropReq j).cluster k = s.cluster k := rfl
@[simp] theorem State.dropReq_ctx (s : State) (j : Nat) (k : Nat) : (s.dropReq j).ctx k = s.ctx k := rfl
@[simp] theorem State.dropReq_stream (s : State) (j : Nat) (k : Nat) : (s.dropReq j).stream k = s.stream k := rfl
@[simp] theorem State.dropReq_queue (s : State) (j : Nat) (k : Nat) : (s.dropReq j).queue k = s.queue k := rfl
@[simp] theorem State.dropReq_home (s : State) (j : Nat) (k : Nat) : (s.dropReq j).home k = s.home k := rfl
@[simp] theorem State.dropReq_tlb (s : State) (j : Nat) (k : Nat) : (s.dropReq j).tlb k = s.tlb k := rfl
@[simp] theorem State.dropReq_read (s : State) (j : Nat) (k n : Nat) : (s.dropReq j).read k n = s.read k n := rfl
@[simp] theorem State.dropReq_full (s : State) (j : Nat) (k : Nat) : (s.dropReq j).full k = s.full k := rfl
@[simp] theorem State.dropReq_arg (s : State) (j : Nat) (k : Nat) : (s.dropReq j).arg k = s.arg k := rfl

/-! ### `push` -/

@[simp] theorem State.push_threads (s : State) (e : Instr) (l : List Nat) : (s.push e l).threads = s.threads := rfl
@[simp] theorem State.push_units (s : State) (e : Instr) (l : List Nat) : (s.push e l).units = s.units := rfl
@[simp] theorem State.push_clusters (s : State) (e : Instr) (l : List Nat) : (s.push e l).clusters = s.clusters := rfl
@[simp] theorem State.push_ctxs (s : State) (e : Instr) (l : List Nat) : (s.push e l).ctxs = s.ctxs := rfl
@[simp] theorem State.push_streams (s : State) (e : Instr) (l : List Nat) : (s.push e l).streams = s.streams := rfl
@[simp] theorem State.push_queues (s : State) (e : Instr) (l : List Nat) : (s.push e l).queues = s.queues := rfl
@[simp] theorem State.push_homes (s : State) (e : Instr) (l : List Nat) : (s.push e l).homes = s.homes := rfl
@[simp] theorem State.push_tlbs (s : State) (e : Instr) (l : List Nat) : (s.push e l).tlbs = s.tlbs := rfl
@[simp] theorem State.push_pkg (s : State) (e : Instr) (l : List Nat) : (s.push e l).pkg = s.pkg := rfl
@[simp] theorem State.push_mem (s : State) (e : Instr) (l : List Nat) : (s.push e l).mem = s.mem := rfl
@[simp] theorem State.push_empties (s : State) (e : Instr) (l : List Nat) : (s.push e l).empties = s.empties := rfl
@[simp] theorem State.push_poison (s : State) (e : Instr) (l : List Nat) : (s.push e l).poison = s.poison := rfl
@[simp] theorem State.push_reqs (s : State) (e : Instr) (l : List Nat) : (s.push e l).reqs = s.reqs := rfl
@[simp] theorem State.push_msgs (s : State) (e : Instr) (l : List Nat) : (s.push e l).msgs = s.msgs := rfl
@[simp] theorem State.push_steals (s : State) (e : Instr) (l : List Nat) : (s.push e l).steals = s.steals := rfl
@[simp] theorem State.push_pairs (s : State) (e : Instr) (l : List Nat) : (s.push e l).pairs = s.pairs := rfl
@[simp] theorem State.push_timers (s : State) (e : Instr) (l : List Nat) : (s.push e l).timers = s.timers := rfl
@[simp] theorem State.push_plan (s : State) (e : Instr) (l : List Nat) : (s.push e l).plan = s.plan := rfl
@[simp] theorem State.push_ev (s : State) (e : Instr) (l : List Nat) : (s.push e l).ev = s.ev := rfl
@[simp] theorem State.push_focus (s : State) (e : Instr) (l : List Nat) : (s.push e l).focus = s.focus := rfl
@[simp] theorem State.push_resume (s : State) (e : Instr) (l : List Nat) : (s.push e l).resume = s.resume := rfl
@[simp] theorem State.push_split (s : State) (e : Instr) (l : List Nat) : (s.push e l).split = s.split := rfl
@[simp] theorem State.push_now (s : State) (e : Instr) (l : List Nat) : (s.push e l).now = s.now := rfl
@[simp] theorem State.push_skew (s : State) (e : Instr) (l : List Nat) : (s.push e l).skew = s.skew := rfl
@[simp] theorem State.push_fresh (s : State) (e : Instr) (l : List Nat) : (s.push e l).fresh = s.fresh := rfl
@[simp] theorem State.push_free (s : State) (e : Instr) (l : List Nat) : (s.push e l).free = s.free := rfl
@[simp] theorem State.push_th (s : State) (e : Instr) (l : List Nat) (k : Nat) : (s.push e l).th k = s.th k := rfl
@[simp] theorem State.push_core (s : State) (e : Instr) (l : List Nat) (k : Nat) : (s.push e l).core k = s.core k := rfl
@[simp] theorem State.push_cluster (s : State) (e : Instr) (l : List Nat) (k : Nat) : (s.push e l).cluster k = s.cluster k := rfl
@[simp] theorem State.push_ctx (s : State) (e : Instr) (l : List Nat) (k : Nat) : (s.push e l).ctx k = s.ctx k := rfl
@[simp] theorem State.push_stream (s : State) (e : Instr) (l : List Nat) (k : Nat) : (s.push e l).stream k = s.stream k := rfl
@[simp] theorem State.push_queue (s : State) (e : Instr) (l : List Nat) (k : Nat) : (s.push e l).queue k = s.queue k := rfl
@[simp] theorem State.push_home (s : State) (e : Instr) (l : List Nat) (k : Nat) : (s.push e l).home k = s.home k := rfl
@[simp] theorem State.push_tlb (s : State) (e : Instr) (l : List Nat) (k : Nat) : (s.push e l).tlb k = s.tlb k := rfl
@[simp] theorem State.push_req (s : State) (e : Instr) (l : List Nat) (k : Nat) : (s.push e l).req k = s.req k := rfl
@[simp] theorem State.push_read (s : State) (e : Instr) (l : List Nat) (k n : Nat) : (s.push e l).read k n = s.read k n := rfl
@[simp] theorem State.push_full (s : State) (e : Instr) (l : List Nat) (k : Nat) : (s.push e l).full k = s.full k := rfl
@[simp] theorem State.push_arg (s : State) (e : Instr) (l : List Nat) (k : Nat) : (s.push e l).arg k = s.arg k := rfl

/-! ### `after` -/

@[simp] theorem State.after_threads (s : State) (d : Nat) (e : Instr) (l : List Nat) : (s.after d e l).threads = s.threads := rfl
@[simp] theorem State.after_units (s : State) (d : Nat) (e : Instr) (l : List Nat) : (s.after d e l).units = s.units := rfl
@[simp] theorem State.after_clusters (s : State) (d : Nat) (e : Instr) (l : List Nat) : (s.after d e l).clusters = s.clusters := rfl
@[simp] theorem State.after_ctxs (s : State) (d : Nat) (e : Instr) (l : List Nat) : (s.after d e l).ctxs = s.ctxs := rfl
@[simp] theorem State.after_streams (s : State) (d : Nat) (e : Instr) (l : List Nat) : (s.after d e l).streams = s.streams := rfl
@[simp] theorem State.after_queues (s : State) (d : Nat) (e : Instr) (l : List Nat) : (s.after d e l).queues = s.queues := rfl
@[simp] theorem State.after_homes (s : State) (d : Nat) (e : Instr) (l : List Nat) : (s.after d e l).homes = s.homes := rfl
@[simp] theorem State.after_tlbs (s : State) (d : Nat) (e : Instr) (l : List Nat) : (s.after d e l).tlbs = s.tlbs := rfl
@[simp] theorem State.after_pkg (s : State) (d : Nat) (e : Instr) (l : List Nat) : (s.after d e l).pkg = s.pkg := rfl
@[simp] theorem State.after_mem (s : State) (d : Nat) (e : Instr) (l : List Nat) : (s.after d e l).mem = s.mem := rfl
@[simp] theorem State.after_empties (s : State) (d : Nat) (e : Instr) (l : List Nat) : (s.after d e l).empties = s.empties := rfl
@[simp] theorem State.after_poison (s : State) (d : Nat) (e : Instr) (l : List Nat) : (s.after d e l).poison = s.poison := rfl
@[simp] theorem State.after_reqs (s : State) (d : Nat) (e : Instr) (l : List Nat) : (s.after d e l).reqs = s.reqs := rfl
@[simp] theorem State.after_msgs (s : State) (d : Nat) (e : Instr) (l : List Nat) : (s.after d e l).msgs = s.msgs := rfl
@[simp] theorem State.after_steals (s : State) (d : Nat) (e : Instr) (l : List Nat) : (s.after d e l).steals = s.steals := rfl
@[simp] theorem State.after_pairs (s : State) (d : Nat) (e : Instr) (l : List Nat) : (s.after d e l).pairs = s.pairs := rfl
@[simp] theorem State.after_agenda (s : State) (d : Nat) (e : Instr) (l : List Nat) : (s.after d e l).agenda = s.agenda := rfl
@[simp] theorem State.after_plan (s : State) (d : Nat) (e : Instr) (l : List Nat) : (s.after d e l).plan = s.plan := rfl
@[simp] theorem State.after_ev (s : State) (d : Nat) (e : Instr) (l : List Nat) : (s.after d e l).ev = s.ev := rfl
@[simp] theorem State.after_focus (s : State) (d : Nat) (e : Instr) (l : List Nat) : (s.after d e l).focus = s.focus := rfl
@[simp] theorem State.after_resume (s : State) (d : Nat) (e : Instr) (l : List Nat) : (s.after d e l).resume = s.resume := rfl
@[simp] theorem State.after_split (s : State) (d : Nat) (e : Instr) (l : List Nat) : (s.after d e l).split = s.split := rfl
@[simp] theorem State.after_now (s : State) (d : Nat) (e : Instr) (l : List Nat) : (s.after d e l).now = s.now := rfl
@[simp] theorem State.after_skew (s : State) (d : Nat) (e : Instr) (l : List Nat) : (s.after d e l).skew = s.skew := rfl
@[simp] theorem State.after_fresh (s : State) (d : Nat) (e : Instr) (l : List Nat) : (s.after d e l).fresh = s.fresh := rfl
@[simp] theorem State.after_free (s : State) (d : Nat) (e : Instr) (l : List Nat) : (s.after d e l).free = s.free := rfl
@[simp] theorem State.after_th (s : State) (d : Nat) (e : Instr) (l : List Nat) (k : Nat) : (s.after d e l).th k = s.th k := rfl
@[simp] theorem State.after_core (s : State) (d : Nat) (e : Instr) (l : List Nat) (k : Nat) : (s.after d e l).core k = s.core k := rfl
@[simp] theorem State.after_cluster (s : State) (d : Nat) (e : Instr) (l : List Nat) (k : Nat) : (s.after d e l).cluster k = s.cluster k := rfl
@[simp] theorem State.after_ctx (s : State) (d : Nat) (e : Instr) (l : List Nat) (k : Nat) : (s.after d e l).ctx k = s.ctx k := rfl
@[simp] theorem State.after_stream (s : State) (d : Nat) (e : Instr) (l : List Nat) (k : Nat) : (s.after d e l).stream k = s.stream k := rfl
@[simp] theorem State.after_queue (s : State) (d : Nat) (e : Instr) (l : List Nat) (k : Nat) : (s.after d e l).queue k = s.queue k := rfl
@[simp] theorem State.after_home (s : State) (d : Nat) (e : Instr) (l : List Nat) (k : Nat) : (s.after d e l).home k = s.home k := rfl
@[simp] theorem State.after_tlb (s : State) (d : Nat) (e : Instr) (l : List Nat) (k : Nat) : (s.after d e l).tlb k = s.tlb k := rfl
@[simp] theorem State.after_req (s : State) (d : Nat) (e : Instr) (l : List Nat) (k : Nat) : (s.after d e l).req k = s.req k := rfl
@[simp] theorem State.after_read (s : State) (d : Nat) (e : Instr) (l : List Nat) (k n : Nat) : (s.after d e l).read k n = s.read k n := rfl
@[simp] theorem State.after_full (s : State) (d : Nat) (e : Instr) (l : List Nat) (k : Nat) : (s.after d e l).full k = s.full k := rfl
@[simp] theorem State.after_arg (s : State) (d : Nat) (e : Instr) (l : List Nat) (k : Nat) : (s.after d e l).arg k = s.arg k := rfl

/-! ### `write` -/

@[simp] theorem State.write_threads (s : State) (l m v : Nat) : (s.write l m v).threads = s.threads := rfl
@[simp] theorem State.write_units (s : State) (l m v : Nat) : (s.write l m v).units = s.units := rfl
@[simp] theorem State.write_clusters (s : State) (l m v : Nat) : (s.write l m v).clusters = s.clusters := rfl
@[simp] theorem State.write_ctxs (s : State) (l m v : Nat) : (s.write l m v).ctxs = s.ctxs := rfl
@[simp] theorem State.write_streams (s : State) (l m v : Nat) : (s.write l m v).streams = s.streams := rfl
@[simp] theorem State.write_queues (s : State) (l m v : Nat) : (s.write l m v).queues = s.queues := rfl
@[simp] theorem State.write_homes (s : State) (l m v : Nat) : (s.write l m v).homes = s.homes := rfl
@[simp] theorem State.write_tlbs (s : State) (l m v : Nat) : (s.write l m v).tlbs = s.tlbs := rfl
@[simp] theorem State.write_pkg (s : State) (l m v : Nat) : (s.write l m v).pkg = s.pkg := rfl
@[simp] theorem State.write_empties (s : State) (l m v : Nat) : (s.write l m v).empties = s.empties := rfl
@[simp] theorem State.write_poison (s : State) (l m v : Nat) : (s.write l m v).poison = s.poison := rfl
@[simp] theorem State.write_reqs (s : State) (l m v : Nat) : (s.write l m v).reqs = s.reqs := rfl
@[simp] theorem State.write_msgs (s : State) (l m v : Nat) : (s.write l m v).msgs = s.msgs := rfl
@[simp] theorem State.write_steals (s : State) (l m v : Nat) : (s.write l m v).steals = s.steals := rfl
@[simp] theorem State.write_pairs (s : State) (l m v : Nat) : (s.write l m v).pairs = s.pairs := rfl
@[simp] theorem State.write_agenda (s : State) (l m v : Nat) : (s.write l m v).agenda = s.agenda := rfl
@[simp] theorem State.write_timers (s : State) (l m v : Nat) : (s.write l m v).timers = s.timers := rfl
@[simp] theorem State.write_plan (s : State) (l m v : Nat) : (s.write l m v).plan = s.plan := rfl
@[simp] theorem State.write_ev (s : State) (l m v : Nat) : (s.write l m v).ev = s.ev := rfl
@[simp] theorem State.write_focus (s : State) (l m v : Nat) : (s.write l m v).focus = s.focus := rfl
@[simp] theorem State.write_resume (s : State) (l m v : Nat) : (s.write l m v).resume = s.resume := rfl
@[simp] theorem State.write_split (s : State) (l m v : Nat) : (s.write l m v).split = s.split := rfl
@[simp] theorem State.write_now (s : State) (l m v : Nat) : (s.write l m v).now = s.now := rfl
@[simp] theorem State.write_skew (s : State) (l m v : Nat) : (s.write l m v).skew = s.skew := rfl
@[simp] theorem State.write_fresh (s : State) (l m v : Nat) : (s.write l m v).fresh = s.fresh := rfl
@[simp] theorem State.write_free (s : State) (l m v : Nat) : (s.write l m v).free = s.free := rfl
@[simp] theorem State.write_th (s : State) (l m v : Nat) (k : Nat) : (s.write l m v).th k = s.th k := rfl
@[simp] theorem State.write_core (s : State) (l m v : Nat) (k : Nat) : (s.write l m v).core k = s.core k := rfl
@[simp] theorem State.write_cluster (s : State) (l m v : Nat) (k : Nat) : (s.write l m v).cluster k = s.cluster k := rfl
@[simp] theorem State.write_ctx (s : State) (l m v : Nat) (k : Nat) : (s.write l m v).ctx k = s.ctx k := rfl
@[simp] theorem State.write_stream (s : State) (l m v : Nat) (k : Nat) : (s.write l m v).stream k = s.stream k := rfl
@[simp] theorem State.write_queue (s : State) (l m v : Nat) (k : Nat) : (s.write l m v).queue k = s.queue k := rfl
@[simp] theorem State.write_home (s : State) (l m v : Nat) (k : Nat) : (s.write l m v).home k = s.home k := rfl
@[simp] theorem State.write_tlb (s : State) (l m v : Nat) (k : Nat) : (s.write l m v).tlb k = s.tlb k := rfl
@[simp] theorem State.write_req (s : State) (l m v : Nat) (k : Nat) : (s.write l m v).req k = s.req k := rfl
@[simp] theorem State.write_full (s : State) (l m v : Nat) (k : Nat) : (s.write l m v).full k = s.full k := rfl
@[simp] theorem State.write_arg (s : State) (l m v : Nat) (k : Nat) : (s.write l m v).arg k = s.arg k := rfl

/-! ### `setFull` -/

@[simp] theorem State.setFull_threads (s : State) (l : Nat) (f : Bool) : (s.setFull l f).threads = s.threads := rfl
@[simp] theorem State.setFull_units (s : State) (l : Nat) (f : Bool) : (s.setFull l f).units = s.units := rfl
@[simp] theorem State.setFull_clusters (s : State) (l : Nat) (f : Bool) : (s.setFull l f).clusters = s.clusters := rfl
@[simp] theorem State.setFull_ctxs (s : State) (l : Nat) (f : Bool) : (s.setFull l f).ctxs = s.ctxs := rfl
@[simp] theorem State.setFull_streams (s : State) (l : Nat) (f : Bool) : (s.setFull l f).streams = s.streams := rfl
@[simp] theorem State.setFull_queues (s : State) (l : Nat) (f : Bool) : (s.setFull l f).queues = s.queues := rfl
@[simp] theorem State.setFull_homes (s : State) (l : Nat) (f : Bool) : (s.setFull l f).homes = s.homes := rfl
@[simp] theorem State.setFull_tlbs (s : State) (l : Nat) (f : Bool) : (s.setFull l f).tlbs = s.tlbs := rfl
@[simp] theorem State.setFull_pkg (s : State) (l : Nat) (f : Bool) : (s.setFull l f).pkg = s.pkg := rfl
@[simp] theorem State.setFull_mem (s : State) (l : Nat) (f : Bool) : (s.setFull l f).mem = s.mem := rfl
@[simp] theorem State.setFull_poison (s : State) (l : Nat) (f : Bool) : (s.setFull l f).poison = s.poison := rfl
@[simp] theorem State.setFull_reqs (s : State) (l : Nat) (f : Bool) : (s.setFull l f).reqs = s.reqs := rfl
@[simp] theorem State.setFull_msgs (s : State) (l : Nat) (f : Bool) : (s.setFull l f).msgs = s.msgs := rfl
@[simp] theorem State.setFull_steals (s : State) (l : Nat) (f : Bool) : (s.setFull l f).steals = s.steals := rfl
@[simp] theorem State.setFull_pairs (s : State) (l : Nat) (f : Bool) : (s.setFull l f).pairs = s.pairs := rfl
@[simp] theorem State.setFull_agenda (s : State) (l : Nat) (f : Bool) : (s.setFull l f).agenda = s.agenda := rfl
@[simp] theorem State.setFull_timers (s : State) (l : Nat) (f : Bool) : (s.setFull l f).timers = s.timers := rfl
@[simp] theorem State.setFull_plan (s : State) (l : Nat) (f : Bool) : (s.setFull l f).plan = s.plan := rfl
@[simp] theorem State.setFull_ev (s : State) (l : Nat) (f : Bool) : (s.setFull l f).ev = s.ev := rfl
@[simp] theorem State.setFull_focus (s : State) (l : Nat) (f : Bool) : (s.setFull l f).focus = s.focus := rfl
@[simp] theorem State.setFull_resume (s : State) (l : Nat) (f : Bool) : (s.setFull l f).resume = s.resume := rfl
@[simp] theorem State.setFull_split (s : State) (l : Nat) (f : Bool) : (s.setFull l f).split = s.split := rfl
@[simp] theorem State.setFull_now (s : State) (l : Nat) (f : Bool) : (s.setFull l f).now = s.now := rfl
@[simp] theorem State.setFull_skew (s : State) (l : Nat) (f : Bool) : (s.setFull l f).skew = s.skew := rfl
@[simp] theorem State.setFull_fresh (s : State) (l : Nat) (f : Bool) : (s.setFull l f).fresh = s.fresh := rfl
@[simp] theorem State.setFull_free (s : State) (l : Nat) (f : Bool) : (s.setFull l f).free = s.free := rfl
@[simp] theorem State.setFull_th (s : State) (l : Nat) (f : Bool) (k : Nat) : (s.setFull l f).th k = s.th k := rfl
@[simp] theorem State.setFull_core (s : State) (l : Nat) (f : Bool) (k : Nat) : (s.setFull l f).core k = s.core k := rfl
@[simp] theorem State.setFull_cluster (s : State) (l : Nat) (f : Bool) (k : Nat) : (s.setFull l f).cluster k = s.cluster k := rfl
@[simp] theorem State.setFull_ctx (s : State) (l : Nat) (f : Bool) (k : Nat) : (s.setFull l f).ctx k = s.ctx k := rfl
@[simp] theorem State.setFull_stream (s : State) (l : Nat) (f : Bool) (k : Nat) : (s.setFull l f).stream k = s.stream k := rfl
@[simp] theorem State.setFull_queue (s : State) (l : Nat) (f : Bool) (k : Nat) : (s.setFull l f).queue k = s.queue k := rfl
@[simp] theorem State.setFull_home (s : State) (l : Nat) (f : Bool) (k : Nat) : (s.setFull l f).home k = s.home k := rfl
@[simp] theorem State.setFull_tlb (s : State) (l : Nat) (f : Bool) (k : Nat) : (s.setFull l f).tlb k = s.tlb k := rfl
@[simp] theorem State.setFull_req (s : State) (l : Nat) (f : Bool) (k : Nat) : (s.setFull l f).req k = s.req k := rfl
@[simp] theorem State.setFull_read (s : State) (l : Nat) (f : Bool) (k n : Nat) : (s.setFull l f).read k n = s.read k n := rfl
@[simp] theorem State.setFull_arg (s : State) (l : Nat) (f : Bool) (k : Nat) : (s.setFull l f).arg k = s.arg k := rfl

/-! ### `setPoison` -/

@[simp] theorem State.setPoison_threads (s : State) (l : Nat) (p : Bool) : (s.setPoison l p).threads = s.threads := rfl
@[simp] theorem State.setPoison_units (s : State) (l : Nat) (p : Bool) : (s.setPoison l p).units = s.units := rfl
@[simp] theorem State.setPoison_clusters (s : State) (l : Nat) (p : Bool) : (s.setPoison l p).clusters = s.clusters := rfl
@[simp] theorem State.setPoison_ctxs (s : State) (l : Nat) (p : Bool) : (s.setPoison l p).ctxs = s.ctxs := rfl
@[simp] theorem State.setPoison_streams (s : State) (l : Nat) (p : Bool) : (s.setPoison l p).streams = s.streams := rfl
@[simp] theorem State.setPoison_queues (s : State) (l : Nat) (p : Bool) : (s.setPoison l p).queues = s.queues := rfl
@[simp] theorem State.setPoison_homes (s : State) (l : Nat) (p : Bool) : (s.setPoison l p).homes = s.homes := rfl
@[simp] theorem State.setPoison_tlbs (s : State) (l : Nat) (p : Bool) : (s.setPoison l p).tlbs = s.tlbs := rfl
@[simp] theorem State.setPoison_pkg (s : State) (l : Nat) (p : Bool) : (s.setPoison l p).pkg = s.pkg := rfl
@[simp] theorem State.setPoison_mem (s : State) (l : Nat) (p : Bool) : (s.setPoison l p).mem = s.mem := rfl
@[simp] theorem State.setPoison_empties (s : State) (l : Nat) (p : Bool) : (s.setPoison l p).empties = s.empties := rfl
@[simp] theorem State.setPoison_reqs (s : State) (l : Nat) (p : Bool) : (s.setPoison l p).reqs = s.reqs := rfl
@[simp] theorem State.setPoison_msgs (s : State) (l : Nat) (p : Bool) : (s.setPoison l p).msgs = s.msgs := rfl
@[simp] theorem State.setPoison_steals (s : State) (l : Nat) (p : Bool) : (s.setPoison l p).steals = s.steals := rfl
@[simp] theorem State.setPoison_pairs (s : State) (l : Nat) (p : Bool) : (s.setPoison l p).pairs = s.pairs := rfl
@[simp] theorem State.setPoison_agenda (s : State) (l : Nat) (p : Bool) : (s.setPoison l p).agenda = s.agenda := rfl
@[simp] theorem State.setPoison_timers (s : State) (l : Nat) (p : Bool) : (s.setPoison l p).timers = s.timers := rfl
@[simp] theorem State.setPoison_plan (s : State) (l : Nat) (p : Bool) : (s.setPoison l p).plan = s.plan := rfl
@[simp] theorem State.setPoison_ev (s : State) (l : Nat) (p : Bool) : (s.setPoison l p).ev = s.ev := rfl
@[simp] theorem State.setPoison_focus (s : State) (l : Nat) (p : Bool) : (s.setPoison l p).focus = s.focus := rfl
@[simp] theorem State.setPoison_resume (s : State) (l : Nat) (p : Bool) : (s.setPoison l p).resume = s.resume := rfl
@[simp] theorem State.setPoison_split (s : State) (l : Nat) (p : Bool) : (s.setPoison l p).split = s.split := rfl
@[simp] theorem State.setPoison_now (s : State) (l : Nat) (p : Bool) : (s.setPoison l p).now = s.now := rfl
@[simp] theorem State.setPoison_skew (s : State) (l : Nat) (p : Bool) : (s.setPoison l p).skew = s.skew := rfl
@[simp] theorem State.setPoison_fresh (s : State) (l : Nat) (p : Bool) : (s.setPoison l p).fresh = s.fresh := rfl
@[simp] theorem State.setPoison_free (s : State) (l : Nat) (p : Bool) : (s.setPoison l p).free = s.free := rfl
@[simp] theorem State.setPoison_th (s : State) (l : Nat) (p : Bool) (k : Nat) : (s.setPoison l p).th k = s.th k := rfl
@[simp] theorem State.setPoison_core (s : State) (l : Nat) (p : Bool) (k : Nat) : (s.setPoison l p).core k = s.core k := rfl
@[simp] theorem State.setPoison_cluster (s : State) (l : Nat) (p : Bool) (k : Nat) : (s.setPoison l p).cluster k = s.cluster k := rfl
@[simp] theorem State.setPoison_ctx (s : State) (l : Nat) (p : Bool) (k : Nat) : (s.setPoison l p).ctx k = s.ctx k := rfl
@[simp] theorem State.setPoison_stream (s : State) (l : Nat) (p : Bool) (k : Nat) : (s.setPoison l p).stream k = s.stream k := rfl
@[simp] theorem State.setPoison_queue (s : State) (l : Nat) (p : Bool) (k : Nat) : (s.setPoison l p).queue k = s.queue k := rfl
@[simp] theorem State.setPoison_home (s : State) (l : Nat) (p : Bool) (k : Nat) : (s.setPoison l p).home k = s.home k := rfl
@[simp] theorem State.setPoison_tlb (s : State) (l : Nat) (p : Bool) (k : Nat) : (s.setPoison l p).tlb k = s.tlb k := rfl
@[simp] theorem State.setPoison_req (s : State) (l : Nat) (p : Bool) (k : Nat) : (s.setPoison l p).req k = s.req k := rfl
@[simp] theorem State.setPoison_read (s : State) (l : Nat) (p : Bool) (k n : Nat) : (s.setPoison l p).read k n = s.read k n := rfl
@[simp] theorem State.setPoison_full (s : State) (l : Nat) (p : Bool) (k : Nat) : (s.setPoison l p).full k = s.full k := rfl
@[simp] theorem State.setPoison_arg (s : State) (l : Nat) (p : Bool) (k : Nat) : (s.setPoison l p).arg k = s.arg k := rfl

/-! ### `updTh` -/

@[simp] theorem State.updTh_units (s : State) (t : Nat) (f : Thread → Thread) : (s.updTh t f).units = s.units := rfl
@[simp] theorem State.updTh_clusters (s : State) (t : Nat) (f : Thread → Thread) : (s.updTh t f).clusters = s.clusters := rfl
@[simp] theorem State.updTh_ctxs (s : State) (t : Nat) (f : Thread → Thread) : (s.updTh t f).ctxs = s.ctxs := rfl
@[simp] theorem State.updTh_streams (s : State) (t : Nat) (f : Thread → Thread) : (s.updTh t f).streams = s.streams := rfl
@[simp] theorem State.updTh_queues (s : State) (t : Nat) (f : Thread → Thread) : (s.updTh t f).queues = s.queues := rfl
@[simp] theorem State.updTh_homes (s : State) (t : Nat) (f : Thread → Thread) : (s.updTh t f).homes = s.homes := rfl
@[simp] theorem State.updTh_tlbs (s : State) (t : Nat) (f : Thread → Thread) : (s.updTh t f).tlbs = s.tlbs := rfl
@[simp] theorem State.updTh_pkg (s : State) (t : Nat) (f : Thread → Thread) : (s.updTh t f).pkg = s.pkg := rfl
@[simp] theorem State.updTh_mem (s : State) (t : Nat) (f : Thread → Thread) : (s.updTh t f).mem = s.mem := rfl
@[simp] theorem State.updTh_empties (s : State) (t : Nat) (f : Thread → Thread) : (s.updTh t f).empties = s.empties := rfl
@[simp] theorem State.updTh_poison (s : State) (t : Nat) (f : Thread → Thread) : (s.updTh t f).poison = s.poison := rfl
@[simp] theorem State.updTh_reqs (s : State) (t : Nat) (f : Thread → Thread) : (s.updTh t f).reqs = s.reqs := rfl
@[simp] theorem State.updTh_msgs (s : State) (t : Nat) (f : Thread → Thread) : (s.updTh t f).msgs = s.msgs := rfl
@[simp] theorem State.updTh_steals (s : State) (t : Nat) (f : Thread → Thread) : (s.updTh t f).steals = s.steals := rfl
@[simp] theorem State.updTh_pairs (s : State) (t : Nat) (f : Thread → Thread) : (s.updTh t f).pairs = s.pairs := rfl
@[simp] theorem State.updTh_agenda (s : State) (t : Nat) (f : Thread → Thread) : (s.updTh t f).agenda = s.agenda := rfl
@[simp] theorem State.updTh_timers (s : State) (t : Nat) (f : Thread → Thread) : (s.updTh t f).timers = s.timers := rfl
@[simp] theorem State.updTh_plan (s : State) (t : Nat) (f : Thread → Thread) : (s.updTh t f).plan = s.plan := rfl
@[simp] theorem State.updTh_ev (s : State) (t : Nat) (f : Thread → Thread) : (s.updTh t f).ev = s.ev := rfl
@[simp] theorem State.updTh_focus (s : State) (t : Nat) (f : Thread → Thread) : (s.updTh t f).focus = s.focus := rfl
@[simp] theorem State.updTh_resume (s : State) (t : Nat) (f : Thread → Thread) : (s.updTh t f).resume = s.resume := rfl
@[simp] theorem State.updTh_split (s : State) (t : Nat) (f : Thread → Thread) : (s.updTh t f).split = s.split := rfl
@[simp] theorem State.updTh_now (s : State) (t : Nat) (f : Thread → Thread) : (s.updTh t f).now = s.now := rfl
@[simp] theorem State.updTh_skew (s : State) (t : Nat) (f : Thread → Thread) : (s.updTh t f).skew = s.skew := rfl
@[simp] theorem State.updTh_fresh (s : State) (t : Nat) (f : Thread → Thread) : (s.updTh t f).fresh = s.fresh := rfl
@[simp] theorem State.updTh_free (s : State) (t : Nat) (f : Thread → Thread) : (s.updTh t f).free = s.free := rfl
@[simp] theorem State.updTh_core (s : State) (t : Nat) (f : Thread → Thread) (k : Nat) : (s.updTh t f).core k = s.core k := rfl
@[simp] theorem State.updTh_cluster (s : State) (t : Nat) (f : Thread → Thread) (k : Nat) : (s.updTh t f).cluster k = s.cluster k := rfl
@[simp] theorem State.updTh_ctx (s : State) (t : Nat) (f : Thread → Thread) (k : Nat) : (s.updTh t f).ctx k = s.ctx k := rfl
@[simp] theorem State.updTh_stream (s : State) (t : Nat) (f : Thread → Thread) (k : Nat) : (s.updTh t f).stream k = s.stream k := rfl
@[simp] theorem State.updTh_queue (s : State) (t : Nat) (f : Thread → Thread) (k : Nat) : (s.updTh t f).queue k = s.queue k := rfl
@[simp] theorem State.updTh_home (s : State) (t : Nat) (f : Thread → Thread) (k : Nat) : (s.updTh t f).home k = s.home k := rfl
@[simp] theorem State.updTh_tlb (s : State) (t : Nat) (f : Thread → Thread) (k : Nat) : (s.updTh t f).tlb k = s.tlb k := rfl
@[simp] theorem State.updTh_req (s : State) (t : Nat) (f : Thread → Thread) (k : Nat) : (s.updTh t f).req k = s.req k := rfl
@[simp] theorem State.updTh_read (s : State) (t : Nat) (f : Thread → Thread) (k n : Nat) : (s.updTh t f).read k n = s.read k n := rfl
@[simp] theorem State.updTh_full (s : State) (t : Nat) (f : Thread → Thread) (k : Nat) : (s.updTh t f).full k = s.full k := rfl
@[simp] theorem State.updTh_arg (s : State) (t : Nat) (f : Thread → Thread) (k : Nat) : (s.updTh t f).arg k = s.arg k := rfl

/-! ### `updCore` -/

@[simp] theorem State.updCore_threads (s : State) (u : Nat) (f : Core → Core) : (s.updCore u f).threads = s.threads := rfl
@[simp] theorem State.updCore_clusters (s : State) (u : Nat) (f : Core → Core) : (s.updCore u f).clusters = s.clusters := rfl
@[simp] theorem State.updCore_ctxs (s : State) (u : Nat) (f : Core → Core) : (s.updCore u f).ctxs = s.ctxs := rfl
@[simp] theorem State.updCore_streams (s : State) (u : Nat) (f : Core → Core) : (s.updCore u f).streams = s.streams := rfl
@[simp] theorem State.updCore_queues (s : State) (u : Nat) (f : Core → Core) : (s.updCore u f).queues = s.queues := rfl
@[simp] theorem State.updCore_homes (s : State) (u : Nat) (f : Core → Core) : (s.updCore u f).homes = s.homes := rfl
@[simp] theorem State.updCore_tlbs (s : State) (u : Nat) (f : Core → Core) : (s.updCore u f).tlbs = s.tlbs := rfl
@[simp] theorem State.updCore_pkg (s : State) (u : Nat) (f : Core → Core) : (s.updCore u f).pkg = s.pkg := rfl
@[simp] theorem State.updCore_mem (s : State) (u : Nat) (f : Core → Core) : (s.updCore u f).mem = s.mem := rfl
@[simp] theorem State.updCore_empties (s : State) (u : Nat) (f : Core → Core) : (s.updCore u f).empties = s.empties := rfl
@[simp] theorem State.updCore_poison (s : State) (u : Nat) (f : Core → Core) : (s.updCore u f).poison = s.poison := rfl
@[simp] theorem State.updCore_reqs (s : State) (u : Nat) (f : Core → Core) : (s.updCore u f).reqs = s.reqs := rfl
@[simp] theorem State.updCore_msgs (s : State) (u : Nat) (f : Core → Core) : (s.updCore u f).msgs = s.msgs := rfl
@[simp] theorem State.updCore_steals (s : State) (u : Nat) (f : Core → Core) : (s.updCore u f).steals = s.steals := rfl
@[simp] theorem State.updCore_pairs (s : State) (u : Nat) (f : Core → Core) : (s.updCore u f).pairs = s.pairs := rfl
@[simp] theorem State.updCore_agenda (s : State) (u : Nat) (f : Core → Core) : (s.updCore u f).agenda = s.agenda := rfl
@[simp] theorem State.updCore_timers (s : State) (u : Nat) (f : Core → Core) : (s.updCore u f).timers = s.timers := rfl
@[simp] theorem State.updCore_plan (s : State) (u : Nat) (f : Core → Core) : (s.updCore u f).plan = s.plan := rfl
@[simp] theorem State.updCore_ev (s : State) (u : Nat) (f : Core → Core) : (s.updCore u f).ev = s.ev := rfl
@[simp] theorem State.updCore_focus (s : State) (u : Nat) (f : Core → Core) : (s.updCore u f).focus = s.focus := rfl
@[simp] theorem State.updCore_resume (s : State) (u : Nat) (f : Core → Core) : (s.updCore u f).resume = s.resume := rfl
@[simp] theorem State.updCore_split (s : State) (u : Nat) (f : Core → Core) : (s.updCore u f).split = s.split := rfl
@[simp] theorem State.updCore_now (s : State) (u : Nat) (f : Core → Core) : (s.updCore u f).now = s.now := rfl
@[simp] theorem State.updCore_skew (s : State) (u : Nat) (f : Core → Core) : (s.updCore u f).skew = s.skew := rfl
@[simp] theorem State.updCore_fresh (s : State) (u : Nat) (f : Core → Core) : (s.updCore u f).fresh = s.fresh := rfl
@[simp] theorem State.updCore_free (s : State) (u : Nat) (f : Core → Core) : (s.updCore u f).free = s.free := rfl
@[simp] theorem State.updCore_th (s : State) (u : Nat) (f : Core → Core) (k : Nat) : (s.updCore u f).th k = s.th k := rfl
@[simp] theorem State.updCore_cluster (s : State) (u : Nat) (f : Core → Core) (k : Nat) : (s.updCore u f).cluster k = s.cluster k := rfl
@[simp] theorem State.updCore_ctx (s : State) (u : Nat) (f : Core → Core) (k : Nat) : (s.updCore u f).ctx k = s.ctx k := rfl
@[simp] theorem State.updCore_stream (s : State) (u : Nat) (f : Core → Core) (k : Nat) : (s.updCore u f).stream k = s.stream k := rfl
@[simp] theorem State.updCore_queue (s : State) (u : Nat) (f : Core → Core) (k : Nat) : (s.updCore u f).queue k = s.queue k := rfl
@[simp] theorem State.updCore_home (s : State) (u : Nat) (f : Core → Core) (k : Nat) : (s.updCore u f).home k = s.home k := rfl
@[simp] theorem State.updCore_tlb (s : State) (u : Nat) (f : Core → Core) (k : Nat) : (s.updCore u f).tlb k = s.tlb k := rfl
@[simp] theorem State.updCore_req (s : State) (u : Nat) (f : Core → Core) (k : Nat) : (s.updCore u f).req k = s.req k := rfl
@[simp] theorem State.updCore_read (s : State) (u : Nat) (f : Core → Core) (k n : Nat) : (s.updCore u f).read k n = s.read k n := rfl
@[simp] theorem State.updCore_full (s : State) (u : Nat) (f : Core → Core) (k : Nat) : (s.updCore u f).full k = s.full k := rfl
@[simp] theorem State.updCore_arg (s : State) (u : Nat) (f : Core → Core) (k : Nat) : (s.updCore u f).arg k = s.arg k := rfl

/-! ### `updCtx` -/

@[simp] theorem State.updCtx_threads (s : State) (c : Nat) (f : Ctx → Ctx) : (s.updCtx c f).threads = s.threads := rfl
@[simp] theorem State.updCtx_units (s : State) (c : Nat) (f : Ctx → Ctx) : (s.updCtx c f).units = s.units := rfl
@[simp] theorem State.updCtx_clusters (s : State) (c : Nat) (f : Ctx → Ctx) : (s.updCtx c f).clusters = s.clusters := rfl
@[simp] theorem State.updCtx_streams (s : State) (c : Nat) (f : Ctx → Ctx) : (s.updCtx c f).streams = s.streams := rfl
@[simp] theorem State.updCtx_queues (s : State) (c : Nat) (f : Ctx → Ctx) : (s.updCtx c f).queues = s.queues := rfl
@[simp] theorem State.updCtx_homes (s : State) (c : Nat) (f : Ctx → Ctx) : (s.updCtx c f).homes = s.homes := rfl
@[simp] theorem State.updCtx_tlbs (s : State) (c : Nat) (f : Ctx → Ctx) : (s.updCtx c f).tlbs = s.tlbs := rfl
@[simp] theorem State.updCtx_pkg (s : State) (c : Nat) (f : Ctx → Ctx) : (s.updCtx c f).pkg = s.pkg := rfl
@[simp] theorem State.updCtx_mem (s : State) (c : Nat) (f : Ctx → Ctx) : (s.updCtx c f).mem = s.mem := rfl
@[simp] theorem State.updCtx_empties (s : State) (c : Nat) (f : Ctx → Ctx) : (s.updCtx c f).empties = s.empties := rfl
@[simp] theorem State.updCtx_poison (s : State) (c : Nat) (f : Ctx → Ctx) : (s.updCtx c f).poison = s.poison := rfl
@[simp] theorem State.updCtx_reqs (s : State) (c : Nat) (f : Ctx → Ctx) : (s.updCtx c f).reqs = s.reqs := rfl
@[simp] theorem State.updCtx_msgs (s : State) (c : Nat) (f : Ctx → Ctx) : (s.updCtx c f).msgs = s.msgs := rfl
@[simp] theorem State.updCtx_steals (s : State) (c : Nat) (f : Ctx → Ctx) : (s.updCtx c f).steals = s.steals := rfl
@[simp] theorem State.updCtx_pairs (s : State) (c : Nat) (f : Ctx → Ctx) : (s.updCtx c f).pairs = s.pairs := rfl
@[simp] theorem State.updCtx_agenda (s : State) (c : Nat) (f : Ctx → Ctx) : (s.updCtx c f).agenda = s.agenda := rfl
@[simp] theorem State.updCtx_timers (s : State) (c : Nat) (f : Ctx → Ctx) : (s.updCtx c f).timers = s.timers := rfl
@[simp] theorem State.updCtx_plan (s : State) (c : Nat) (f : Ctx → Ctx) : (s.updCtx c f).plan = s.plan := rfl
@[simp] theorem State.updCtx_ev (s : State) (c : Nat) (f : Ctx → Ctx) : (s.updCtx c f).ev = s.ev := rfl
@[simp] theorem State.updCtx_focus (s : State) (c : Nat) (f : Ctx → Ctx) : (s.updCtx c f).focus = s.focus := rfl
@[simp] theorem State.updCtx_resume (s : State) (c : Nat) (f : Ctx → Ctx) : (s.updCtx c f).resume = s.resume := rfl
@[simp] theorem State.updCtx_split (s : State) (c : Nat) (f : Ctx → Ctx) : (s.updCtx c f).split = s.split := rfl
@[simp] theorem State.updCtx_now (s : State) (c : Nat) (f : Ctx → Ctx) : (s.updCtx c f).now = s.now := rfl
@[simp] theorem State.updCtx_skew (s : State) (c : Nat) (f : Ctx → Ctx) : (s.updCtx c f).skew = s.skew := rfl
@[simp] theorem State.updCtx_fresh (s : State) (c : Nat) (f : Ctx → Ctx) : (s.updCtx c f).fresh = s.fresh := rfl
@[simp] theorem State.updCtx_free (s : State) (c : Nat) (f : Ctx → Ctx) : (s.updCtx c f).free = s.free := rfl
@[simp] theorem State.updCtx_th (s : State) (c : Nat) (f : Ctx → Ctx) (k : Nat) : (s.updCtx c f).th k = s.th k := rfl
@[simp] theorem State.updCtx_core (s : State) (c : Nat) (f : Ctx → Ctx) (k : Nat) : (s.updCtx c f).core k = s.core k := rfl
@[simp] theorem State.updCtx_cluster (s : State) (c : Nat) (f : Ctx → Ctx) (k : Nat) : (s.updCtx c f).cluster k = s.cluster k := rfl
@[simp] theorem State.updCtx_stream (s : State) (c : Nat) (f : Ctx → Ctx) (k : Nat) : (s.updCtx c f).stream k = s.stream k := rfl
@[simp] theorem State.updCtx_queue (s : State) (c : Nat) (f : Ctx → Ctx) (k : Nat) : (s.updCtx c f).queue k = s.queue k := rfl
@[simp] theorem State.updCtx_home (s : State) (c : Nat) (f : Ctx → Ctx) (k : Nat) : (s.updCtx c f).home k = s.home k := rfl
@[simp] theorem State.updCtx_tlb (s : State) (c : Nat) (f : Ctx → Ctx) (k : Nat) : (s.updCtx c f).tlb k = s.tlb k := rfl
@[simp] theorem State.updCtx_req (s : State) (c : Nat) (f : Ctx → Ctx) (k : Nat) : (s.updCtx c f).req k = s.req k := rfl
@[simp] theorem State.updCtx_read (s : State) (c : Nat) (f : Ctx → Ctx) (k n : Nat) : (s.updCtx c f).read k n = s.read k n := rfl
@[simp] theorem State.updCtx_full (s : State) (c : Nat) (f : Ctx → Ctx) (k : Nat) : (s.updCtx c f).full k = s.full k := rfl
@[simp] theorem State.updCtx_arg (s : State) (c : Nat) (f : Ctx → Ctx) (k : Nat) : (s.updCtx c f).arg k = s.arg k := rfl

/-! ### `updStream` -/

@[simp] theorem State.updStream_threads (s : State) (j : Nat) (f : Stream → Stream) : (s.updStream j f).threads = s.threads := rfl
@[simp] theorem State.updStream_units (s : State) (j : Nat) (f : Stream → Stream) : (s.updStream j f).units = s.units := rfl
@[simp] theorem State.updStream_clusters (s : State) (j : Nat) (f : Stream → Stream) : (s.updStream j f).clusters = s.clusters := rfl
@[simp] theorem State.updStream_ctxs (s : State) (j : Nat) (f : Stream → Stream) : (s.updStream j f).ctxs = s.ctxs := rfl
@[simp] theorem State.updStream_queues (s : State) (j : Nat) (f : Stream → Stream) : (s.updStream j f).queues = s.queues := rfl
@[simp] theorem State.updStream_homes (s : State) (j : Nat) (f : Stream → Stream) : (s.updStream j f).homes = s.homes := rfl
@[simp] theorem State.updStream_tlbs (s : State) (j : Nat) (f : Stream → Stream) : (s.updStream j f).tlbs = s.tlbs := rfl
@[simp] theorem State.updStream_pkg (s : State) (j : Nat) (f : Stream → Stream) : (s.updStream j f).pkg = s.pkg := rfl
@[simp] theorem State.updStream_mem (s : State) (j : Nat) (f : Stream → Stream) : (s.updStream j f).mem = s.mem := rfl
@[simp] theorem State.updStream_empties (s : State) (j : Nat) (f : Stream → Stream) : (s.updStream j f).empties = s.empties := rfl
@[simp] theorem State.updStream_poison (s : State) (j : Nat) (f : Stream → Stream) : (s.updStream j f).poison = s.poison := rfl
@[simp] theorem State.updStream_reqs (s : State) (j : Nat) (f : Stream → Stream) : (s.updStream j f).reqs = s.reqs := rfl
@[simp] theorem State.updStream_msgs (s : State) (j : Nat) (f : Stream → Stream) : (s.updStream j f).msgs = s.msgs := rfl
@[simp] theorem State.updStream_steals (s : State) (j : Nat) (f : Stream → Stream) : (s.updStream j f).steals = s.steals := rfl
@[simp] theorem State.updStream_pairs (s : State) (j : Nat) (f : Stream → Stream) : (s.updStream j f).pairs = s.pairs := rfl
@[simp] theorem State.updStream_agenda (s : State) (j : Nat) (f : Stream → Stream) : (s.updStream j f).agenda = s.agenda := rfl
@[simp] theorem State.updStream_timers (s : State) (j : Nat) (f : Stream → Stream) : (s.updStream j f).timers = s.timers := rfl
@[simp] theorem State.updStream_plan (s : State) (j : Nat) (f : Stream → Stream) : (s.updStream j f).plan = s.plan := rfl
@[simp] theorem State.updStream_ev (s : State) (j : Nat) (f : Stream → Stream) : (s.updStream j f).ev = s.ev := rfl
@[simp] theorem State.updStream_focus (s : State) (j : Nat) (f : Stream → Stream) : (s.updStream j f).focus = s.focus := rfl
@[simp] theorem State.updStream_resume (s : State) (j : Nat) (f : Stream → Stream) : (s.updStream j f).resume = s.resume := rfl
@[simp] theorem State.updStream_split (s : State) (j : Nat) (f : Stream → Stream) : (s.updStream j f).split = s.split := rfl
@[simp] theorem State.updStream_now (s : State) (j : Nat) (f : Stream → Stream) : (s.updStream j f).now = s.now := rfl
@[simp] theorem State.updStream_skew (s : State) (j : Nat) (f : Stream → Stream) : (s.updStream j f).skew = s.skew := rfl
@[simp] theorem State.updStream_fresh (s : State) (j : Nat) (f : Stream → Stream) : (s.updStream j f).fresh = s.fresh := rfl
@[simp] theorem State.updStream_free (s : State) (j : Nat) (f : Stream → Stream) : (s.updStream j f).free = s.free := rfl
@[simp] theorem State.updStream_th (s : State) (j : Nat) (f : Stream → Stream) (k : Nat) : (s.updStream j f).th k = s.th k := rfl
@[simp] theorem State.updStream_core (s : State) (j : Nat) (f : Stream → Stream) (k : Nat) : (s.updStream j f).core k = s.core k := rfl
@[simp] theorem State.updStream_cluster (s : State) (j : Nat) (f : Stream → Stream) (k : Nat) : (s.updStream j f).cluster k = s.cluster k := rfl
@[simp] theorem State.updStream_ctx (s : State) (j : Nat) (f : Stream → Stream) (k : Nat) : (s.updStream j f).ctx k = s.ctx k := rfl
@[simp] theorem State.updStream_queue (s : State) (j : Nat) (f : Stream → Stream) (k : Nat) : (s.updStream j f).queue k = s.queue k := rfl
@[simp] theorem State.updStream_home (s : State) (j : Nat) (f : Stream → Stream) (k : Nat) : (s.updStream j f).home k = s.home k := rfl
@[simp] theorem State.updStream_tlb (s : State) (j : Nat) (f : Stream → Stream) (k : Nat) : (s.updStream j f).tlb k = s.tlb k := rfl
@[simp] theorem State.updStream_req (s : State) (j : Nat) (f : Stream → Stream) (k : Nat) : (s.updStream j f).req k = s.req k := rfl
@[simp] theorem State.updStream_read (s : State) (j : Nat) (f : Stream → Stream) (k n : Nat) : (s.updStream j f).read k n = s.read k n := rfl
@[simp] theorem State.updStream_full (s : State) (j : Nat) (f : Stream → Stream) (k : Nat) : (s.updStream j f).full k = s.full k := rfl
@[simp] theorem State.updStream_arg (s : State) (j : Nat) (f : Stream → Stream) (k : Nat) : (s.updStream j f).arg k = s.arg k := rfl

/-! ### `updQueue` -/

@[simp] theorem State.updQueue_threads (s : State) (q : Nat) (f : Queue → Queue) : (s.updQueue q f).threads = s.threads := rfl
@[simp] theorem State.updQueue_units (s : State) (q : Nat) (f : Queue → Queue) : (s.updQueue q f).units = s.units := rfl
@[simp] theorem State.updQueue_clusters (s : State) (q : Nat) (f : Queue → Queue) : (s.updQueue q f).clusters = s.clusters := rfl
@[simp] theorem State.updQueue_ctxs (s : State) (q : Nat) (f : Queue → Queue) : (s.updQueue q f).ctxs = s.ctxs := rfl
@[simp] theorem State.updQueue_streams (s : State) (q : Nat) (f : Queue → Queue) : (s.updQueue q f).streams = s.streams := rfl
@[simp] theorem State.updQueue_homes (s : State) (q : Nat) (f : Queue → Queue) : (s.updQueue q f).homes = s.homes := rfl
@[simp] theorem State.updQueue_tlbs (s : State) (q : Nat) (f : Queue → Queue) : (s.updQueue q f).tlbs = s.tlbs := rfl
@[simp] theorem State.updQueue_pkg (s : State) (q : Nat) (f : Queue → Queue) : (s.updQueue q f).pkg = s.pkg := rfl
@[simp] theorem State.updQueue_mem (s : State) (q : Nat) (f : Queue → Queue) : (s.updQueue q f).mem = s.mem := rfl
@[simp] theorem State.updQueue_empties (s : State) (q : Nat) (f : Queue → Queue) : (s.updQueue q f).empties = s.empties := rfl
@[simp] theorem State.updQueue_poison (s : State) (q : Nat) (f : Queue → Queue) : (s.updQueue q f).poison = s.poison := rfl
@[simp] theorem State.updQueue_reqs (s : State) (q : Nat) (f : Queue → Queue) : (s.updQueue q f).reqs = s.reqs := rfl
@[simp] theorem State.updQueue_msgs (s : State) (q : Nat) (f : Queue → Queue) : (s.updQueue q f).msgs = s.msgs := rfl
@[simp] theorem State.updQueue_steals (s : State) (q : Nat) (f : Queue → Queue) : (s.updQueue q f).steals = s.steals := rfl
@[simp] theorem State.updQueue_pairs (s : State) (q : Nat) (f : Queue → Queue) : (s.updQueue q f).pairs = s.pairs := rfl
@[simp] theorem State.updQueue_agenda (s : State) (q : Nat) (f : Queue → Queue) : (s.updQueue q f).agenda = s.agenda := rfl
@[simp] theorem State.updQueue_timers (s : State) (q : Nat) (f : Queue → Queue) : (s.updQueue q f).timers = s.timers := rfl
@[simp] theorem State.updQueue_plan (s : State) (q : Nat) (f : Queue → Queue) : (s.updQueue q f).plan = s.plan := rfl
@[simp] theorem State.updQueue_ev (s : State) (q : Nat) (f : Queue → Queue) : (s.updQueue q f).ev = s.ev := rfl
@[simp] theorem State.updQueue_focus (s : State) (q : Nat) (f : Queue → Queue) : (s.updQueue q f).focus = s.focus := rfl
@[simp] theorem State.updQueue_resume (s : State) (q : Nat) (f : Queue → Queue) : (s.updQueue q f).resume = s.resume := rfl
@[simp] theorem State.updQueue_split (s : State) (q : Nat) (f : Queue → Queue) : (s.updQueue q f).split = s.split := rfl
@[simp] theorem State.updQueue_now (s : State) (q : Nat) (f : Queue → Queue) : (s.updQueue q f).now = s.now := rfl
@[simp] theorem State.updQueue_skew (s : State) (q : Nat) (f : Queue → Queue) : (s.updQueue q f).skew = s.skew := rfl
@[simp] theorem State.updQueue_fresh (s : State) (q : Nat) (f : Queue → Queue) : (s.updQueue q f).fresh = s.fresh := rfl
@[simp] theorem State.updQueue_free (s : State) (q : Nat) (f : Queue → Queue) : (s.updQueue q f).free = s.free := rfl
@[simp] theorem State.updQueue_th (s : State) (q : Nat) (f : Queue → Queue) (k : Nat) : (s.updQueue q f).th k = s.th k := rfl
@[simp] theorem State.updQueue_core (s : State) (q : Nat) (f : Queue → Queue) (k : Nat) : (s.updQueue q f).core k = s.core k := rfl
@[simp] theorem State.updQueue_cluster (s : State) (q : Nat) (f : Queue → Queue) (k : Nat) : (s.updQueue q f).cluster k = s.cluster k := rfl
@[simp] theorem State.updQueue_ctx (s : State) (q : Nat) (f : Queue → Queue) (k : Nat) : (s.updQueue q f).ctx k = s.ctx k := rfl
@[simp] theorem State.updQueue_stream (s : State) (q : Nat) (f : Queue → Queue) (k : Nat) : (s.updQueue q f).stream k = s.stream k := rfl
@[simp] theorem State.updQueue_home (s : State) (q : Nat) (f : Queue → Queue) (k : Nat) : (s.updQueue q f).home k = s.home k := rfl
@[simp] theorem State.updQueue_tlb (s : State) (q : Nat) (f : Queue → Queue) (k : Nat) : (s.updQueue q f).tlb k = s.tlb k := rfl
@[simp] theorem State.updQueue_req (s : State) (q : Nat) (f : Queue → Queue) (k : Nat) : (s.updQueue q f).req k = s.req k := rfl
@[simp] theorem State.updQueue_read (s : State) (q : Nat) (f : Queue → Queue) (k n : Nat) : (s.updQueue q f).read k n = s.read k n := rfl
@[simp] theorem State.updQueue_full (s : State) (q : Nat) (f : Queue → Queue) (k : Nat) : (s.updQueue q f).full k = s.full k := rfl
@[simp] theorem State.updQueue_arg (s : State) (q : Nat) (f : Queue → Queue) (k : Nat) : (s.updQueue q f).arg k = s.arg k := rfl

/-! ### `updCluster` -/

@[simp] theorem State.updCluster_threads (s : State) (c : Nat) (f : Cluster → Cluster) : (s.updCluster c f).threads = s.threads := rfl
@[simp] theorem State.updCluster_units (s : State) (c : Nat) (f : Cluster → Cluster) : (s.updCluster c f).units = s.units := rfl
@[simp] theorem State.updCluster_ctxs (s : State) (c : Nat) (f : Cluster → Cluster) : (s.updCluster c f).ctxs = s.ctxs := rfl
@[simp] theorem State.updCluster_streams (s : State) (c : Nat) (f : Cluster → Cluster) : (s.updCluster c f).streams = s.streams := rfl
@[simp] theorem State.updCluster_queues (s : State) (c : Nat) (f : Cluster → Cluster) : (s.updCluster c f).queues = s.queues := rfl
@[simp] theorem State.updCluster_homes (s : State) (c : Nat) (f : Cluster → Cluster) : (s.updCluster c f).homes = s.homes := rfl
@[simp] theorem State.updCluster_tlbs (s : State) (c : Nat) (f : Cluster → Cluster) : (s.updCluster c f).tlbs = s.tlbs := rfl
@[simp] theorem State.updCluster_pkg (s : State) (c : Nat) (f : Cluster → Cluster) : (s.updCluster c f).pkg = s.pkg := rfl
@[simp] theorem State.updCluster_mem (s : State) (c : Nat) (f : Cluster → Cluster) : (s.updCluster c f).mem = s.mem := rfl
@[simp] theorem State.updCluster_empties (s : State) (c : Nat) (f : Cluster → Cluster) : (s.updCluster c f).empties = s.empties := rfl
@[simp] theorem State.updCluster_poison (s : State) (c : Nat) (f : Cluster → Cluster) : (s.updCluster c f).poison = s.poison := rfl
@[simp] theorem State.updCluster_reqs (s : State) (c : Nat) (f : Cluster → Cluster) : (s.updCluster c f).reqs = s.reqs := rfl
@[simp] theorem State.updCluster_msgs (s : State) (c : Nat) (f : Cluster → Cluster) : (s.updCluster c f).msgs = s.msgs := rfl
@[simp] theorem State.updCluster_steals (s : State) (c : Nat) (f : Cluster → Cluster) : (s.updCluster c f).steals = s.steals := rfl
@[simp] theorem State.updCluster_pairs (s : State) (c : Nat) (f : Cluster → Cluster) : (s.updCluster c f).pairs = s.pairs := rfl
@[simp] theorem State.updCluster_agenda (s : State) (c : Nat) (f : Cluster → Cluster) : (s.updCluster c f).agenda = s.agenda := rfl
@[simp] theorem State.updCluster_timers (s : State) (c : Nat) (f : Cluster → Cluster) : (s.updCluster c f).timers = s.timers := rfl
@[simp] theorem State.updCluster_plan (s : State) (c : Nat) (f : Cluster → Cluster) : (s.updCluster c f).plan = s.plan := rfl
@[simp] theorem State.updCluster_ev (s : State) (c : Nat) (f : Cluster → Cluster) : (s.updCluster c f).ev = s.ev := rfl
@[simp] theorem State.updCluster_focus (s : State) (c : Nat) (f : Cluster → Cluster) : (s.updCluster c f).focus = s.focus := rfl
@[simp] theorem State.updCluster_resume (s : State) (c : Nat) (f : Cluster → Cluster) : (s.updCluster c f).resume = s.resume := rfl
@[simp] theorem State.updCluster_split (s : State) (c : Nat) (f : Cluster → Cluster) : (s.updCluster c f).split = s.split := rfl
@[simp] theorem State.updCluster_now (s : State) (c : Nat) (f : Cluster → Cluster) : (s.updCluster c f).now = s.now := rfl
@[simp] theorem State.updCluster_skew (s : State) (c : Nat) (f : Cluster → Cluster) : (s.updCluster c f).skew = s.skew := rfl
@[simp] theorem State.updCluster_fresh (s : State) (c : Nat) (f : Cluster → Cluster) : (s.updCluster c f).fresh = s.fresh := rfl
@[simp] theorem State.updCluster_free (s : State) (c : Nat) (f : Cluster → Cluster) : (s.updCluster c f).free = s.free := rfl
@[simp] theorem State.updCluster_th (s : State) (c : Nat) (f : Cluster → Cluster) (k : Nat) : (s.updCluster c f).th k = s.th k := rfl
@[simp] theorem State.updCluster_core (s : State) (c : Nat) (f : Cluster → Cluster) (k : Nat) : (s.updCluster c f).core k = s.core k := rfl
@[simp] theorem State.updCluster_ctx (s : State) (c : Nat) (f : Cluster → Cluster) (k : Nat) : (s.updCluster c f).ctx k = s.ctx k := rfl
@[simp] theorem State.updCluster_stream (s : State) (c : Nat) (f : Cluster → Cluster) (k : Nat) : (s.updCluster c f).stream k = s.stream k := rfl
@[simp] theorem State.updCluster_queue (s : State) (c : Nat) (f : Cluster → Cluster) (k : Nat) : (s.updCluster c f).queue k = s.queue k := rfl
@[simp] theorem State.updCluster_home (s : State) (c : Nat) (f : Cluster → Cluster) (k : Nat) : (s.updCluster c f).home k = s.home k := rfl
@[simp] theorem State.updCluster_tlb (s : State) (c : Nat) (f : Cluster → Cluster) (k : Nat) : (s.updCluster c f).tlb k = s.tlb k := rfl
@[simp] theorem State.updCluster_req (s : State) (c : Nat) (f : Cluster → Cluster) (k : Nat) : (s.updCluster c f).req k = s.req k := rfl
@[simp] theorem State.updCluster_read (s : State) (c : Nat) (f : Cluster → Cluster) (k n : Nat) : (s.updCluster c f).read k n = s.read k n := rfl
@[simp] theorem State.updCluster_full (s : State) (c : Nat) (f : Cluster → Cluster) (k : Nat) : (s.updCluster c f).full k = s.full k := rfl
@[simp] theorem State.updCluster_arg (s : State) (c : Nat) (f : Cluster → Cluster) (k : Nat) : (s.updCluster c f).arg k = s.arg k := rfl

/-! ### `updHome` -/

@[simp] theorem State.updHome_threads (s : State) (h : Nat) (f : Home → Home) : (s.updHome h f).threads = s.threads := rfl
@[simp] theorem State.updHome_units (s : State) (h : Nat) (f : Home → Home) : (s.updHome h f).units = s.units := rfl
@[simp] theorem State.updHome_clusters (s : State) (h : Nat) (f : Home → Home) : (s.updHome h f).clusters = s.clusters := rfl
@[simp] theorem State.updHome_ctxs (s : State) (h : Nat) (f : Home → Home) : (s.updHome h f).ctxs = s.ctxs := rfl
@[simp] theorem State.updHome_streams (s : State) (h : Nat) (f : Home → Home) : (s.updHome h f).streams = s.streams := rfl
@[simp] theorem State.updHome_queues (s : State) (h : Nat) (f : Home → Home) : (s.updHome h f).queues = s.queues := rfl
@[simp] theorem State.updHome_tlbs (s : State) (h : Nat) (f : Home → Home) : (s.updHome h f).tlbs = s.tlbs := rfl
@[simp] theorem State.updHome_pkg (s : State) (h : Nat) (f : Home → Home) : (s.updHome h f).pkg = s.pkg := rfl
@[simp] theorem State.updHome_mem (s : State) (h : Nat) (f : Home → Home) : (s.updHome h f).mem = s.mem := rfl
@[simp] theorem State.updHome_empties (s : State) (h : Nat) (f : Home → Home) : (s.updHome h f).empties = s.empties := rfl
@[simp] theorem State.updHome_poison (s : State) (h : Nat) (f : Home → Home) : (s.updHome h f).poison = s.poison := rfl
@[simp] theorem State.updHome_reqs (s : State) (h : Nat) (f : Home → Home) : (s.updHome h f).reqs = s.reqs := rfl
@[simp] theorem State.updHome_msgs (s : State) (h : Nat) (f : Home → Home) : (s.updHome h f).msgs = s.msgs := rfl
@[simp] theorem State.updHome_steals (s : State) (h : Nat) (f : Home → Home) : (s.updHome h f).steals = s.steals := rfl
@[simp] theorem State.updHome_pairs (s : State) (h : Nat) (f : Home → Home) : (s.updHome h f).pairs = s.pairs := rfl
@[simp] theorem State.updHome_agenda (s : State) (h : Nat) (f : Home → Home) : (s.updHome h f).agenda = s.agenda := rfl
@[simp] theorem State.updHome_timers (s : State) (h : Nat) (f : Home → Home) : (s.updHome h f).timers = s.timers := rfl
@[simp] theorem State.updHome_plan (s : State) (h : Nat) (f : Home → Home) : (s.updHome h f).plan = s.plan := rfl
@[simp] theorem State.updHome_ev (s : State) (h : Nat) (f : Home → Home) : (s.updHome h f).ev = s.ev := rfl
@[simp] theorem State.updHome_focus (s : State) (h : Nat) (f : Home → Home) : (s.updHome h f).focus = s.focus := rfl
@[simp] theorem State.updHome_resume (s : State) (h : Nat) (f : Home → Home) : (s.updHome h f).resume = s.resume := rfl
@[simp] theorem State.updHome_split (s : State) (h : Nat) (f : Home → Home) : (s.updHome h f).split = s.split := rfl
@[simp] theorem State.updHome_now (s : State) (h : Nat) (f : Home → Home) : (s.updHome h f).now = s.now := rfl
@[simp] theorem State.updHome_skew (s : State) (h : Nat) (f : Home → Home) : (s.updHome h f).skew = s.skew := rfl
@[simp] theorem State.updHome_fresh (s : State) (h : Nat) (f : Home → Home) : (s.updHome h f).fresh = s.fresh := rfl
@[simp] theorem State.updHome_free (s : State) (h : Nat) (f : Home → Home) : (s.updHome h f).free = s.free := rfl
@[simp] theorem State.updHome_th (s : State) (h : Nat) (f : Home → Home) (k : Nat) : (s.updHome h f).th k = s.th k := rfl
@[simp] theorem State.updHome_core (s : State) (h : Nat) (f : Home → Home) (k : Nat) : (s.updHome h f).core k = s.core k := rfl
@[simp] theorem State.updHome_cluster (s : State) (h : Nat) (f : Home → Home) (k : Nat) : (s.updHome h f).cluster k = s.cluster k := rfl
@[simp] theorem State.updHome_ctx (s : State) (h : Nat) (f : Home → Home) (k : Nat) : (s.updHome h f).ctx k = s.ctx k := rfl
@[simp] theorem State.updHome_stream (s : State) (h : Nat) (f : Home → Home) (k : Nat) : (s.updHome h f).stream k = s.stream k := rfl
@[simp] theorem State.updHome_queue (s : State) (h : Nat) (f : Home → Home) (k : Nat) : (s.updHome h f).queue k = s.queue k := rfl
@[simp] theorem State.updHome_tlb (s : State) (h : Nat) (f : Home → Home) (k : Nat) : (s.updHome h f).tlb k = s.tlb k := rfl
@[simp] theorem State.updHome_req (s : State) (h : Nat) (f : Home → Home) (k : Nat) : (s.updHome h f).req k = s.req k := rfl
@[simp] theorem State.updHome_read (s : State) (h : Nat) (f : Home → Home) (k n : Nat) : (s.updHome h f).read k n = s.read k n := rfl
@[simp] theorem State.updHome_full (s : State) (h : Nat) (f : Home → Home) (k : Nat) : (s.updHome h f).full k = s.full k := rfl
@[simp] theorem State.updHome_arg (s : State) (h : Nat) (f : Home → Home) (k : Nat) : (s.updHome h f).arg k = s.arg k := rfl

/-! ### The updated part -/

@[simp] theorem State.setTh_th_same (s : State) (t : Nat) (v : Thread) : (s.setTh t v).th t = v := AMap.get_set_same _ _ _ _
theorem State.setTh_th_ne (s : State) (t : Nat) (v : Thread) {i : Nat} (hn : i ≠ t) : (s.setTh t v).th i = s.th i :=
  AMap.get_set_ne _ _ _ hn
@[simp] theorem State.setCore_core_same (s : State) (u : Nat) (v : Core) : (s.setCore u v).core u = v := AMap.get_set_same _ _ _ _
theorem State.setCore_core_ne (s : State) (u : Nat) (v : Core) {i : Nat} (hn : i ≠ u) : (s.setCore u v).core i = s.core i :=
  AMap.get_set_ne _ _ _ hn
@[simp] theorem State.setCluster_cluster_same (s : State) (c : Nat) (v : Cluster) : (s.setCluster c v).cluster c = v := AMap.get_set_same _ _ _ _
theorem State.setCluster_cluster_ne (s : State) (c : Nat) (v : Cluster) {i : Nat} (hn : i ≠ c) : (s.setCluster c v).cluster i = s.cluster i :=
  AMap.get_set_ne _ _ _ hn
@[simp] theorem State.setCtx_ctx_same (s : State) (c : Nat) (v : Ctx) : (s.setCtx c v).ctx c = v := AMap.get_set_same _ _ _ _
theorem State.setCtx_ctx_ne (s : State) (c : Nat) (v : Ctx) {i : Nat} (hn : i ≠ c) : (s.setCtx c v).ctx i = s.ctx i :=
  AMap.get_set_ne _ _ _ hn
@[simp] theorem State.setStream_stream_same (s : State) (j : Nat) (v : Stream) : (s.setStream j v).stream j = v := AMap.get_set_same _ _ _ _
theorem State.setStream_stream_ne (s : State) (j : Nat) (v : Stream) {i : Nat} (hn : i ≠ j) : (s.setStream j v).stream i = s.stream i :=
  AMap.get_set_ne _ _ _ hn
@[simp] theorem State.setQueue_queue_same (s : State) (q : Nat) (v : Queue) : (s.setQueue q v).queue q = v := AMap.get_set_same _ _ _ _
theorem State.setQueue_queue_ne (s : State) (q : Nat) (v : Queue) {i : Nat} (hn : i ≠ q) : (s.setQueue q v).queue i = s.queue i :=
  AMap.get_set_ne _ _ _ hn
@[simp] theorem State.setHome_home_same (s : State) (h : Nat) (v : Home) : (s.setHome h v).home h = v := AMap.get_set_same _ _ _ _
theorem State.setHome_home_ne (s : State) (h : Nat) (v : Home) {i : Nat} (hn : i ≠ h) : (s.setHome h v).home i = s.home i :=
  AMap.get_set_ne _ _ _ hn
@[simp] theorem State.setTlb_tlb_same (s : State) (b : Nat) (v : List TlbEntry) : (s.setTlb b v).tlb b = v := AMap.get_set_same _ _ _ _
theorem State.setTlb_tlb_ne (s : State) (b : Nat) (v : List TlbEntry) {i : Nat} (hn : i ≠ b) : (s.setTlb b v).tlb i = s.tlb i :=
  AMap.get_set_ne _ _ _ hn
@[simp] theorem State.setReq_req_same (s : State) (j : Nat) (r : Req) : (s.setReq j r).req j = r := AMap.get_set_same _ _ _ _
theorem State.setReq_req_ne (s : State) (j : Nat) (r : Req) {i : Nat} (hn : i ≠ j) : (s.setReq j r).req i = s.req i :=
  AMap.get_set_ne _ _ _ hn
@[simp] theorem State.updTh_th_same (s : State) (t : Nat) (f : Thread → Thread) : (s.updTh t f).th t = f (s.th t) := AMap.get_set_same _ _ _ _
theorem State.updTh_th_ne (s : State) (t : Nat) (f : Thread → Thread) {i : Nat} (hn : i ≠ t) : (s.updTh t f).th i = s.th i :=
  AMap.get_set_ne _ _ _ hn
@[simp] theorem State.updCore_core_same (s : State) (u : Nat) (f : Core → Core) : (s.updCore u f).core u = f (s.core u) := AMap.get_set_same _ _ _ _
theorem State.updCore_core_ne (s : State) (u : Nat) (f : Core → Core) {i : Nat} (hn : i ≠ u) : (s.updCore u f).core i = s.core i :=
  AMap.get_set_ne _ _ _ hn
@[simp] theorem State.updCtx_ctx_same (s : State) (c : Nat) (f : Ctx → Ctx) : (s.updCtx c f).ctx c = f (s.ctx c) := AMap.get_set_same _ _ _ _
theorem State.updCtx_ctx_ne (s : State) (c : Nat) (f : Ctx → Ctx) {i : Nat} (hn : i ≠ c) : (s.updCtx c f).ctx i = s.ctx i :=
  AMap.get_set_ne _ _ _ hn
@[simp] theorem State.updStream_stream_same (s : State) (j : Nat) (f : Stream → Stream) : (s.updStream j f).stream j = f (s.stream j) := AMap.get_set_same _ _ _ _
theorem State.updStream_stream_ne (s : State) (j : Nat) (f : Stream → Stream) {i : Nat} (hn : i ≠ j) : (s.updStream j f).stream i = s.stream i :=
  AMap.get_set_ne _ _ _ hn
@[simp] theorem State.updQueue_queue_same (s : State) (q : Nat) (f : Queue → Queue) : (s.updQueue q f).queue q = f (s.queue q) := AMap.get_set_same _ _ _ _
theorem State.updQueue_queue_ne (s : State) (q : Nat) (f : Queue → Queue) {i : Nat} (hn : i ≠ q) : (s.updQueue q f).queue i = s.queue i :=
  AMap.get_set_ne _ _ _ hn
@[simp] theorem State.updCluster_cluster_same (s : State) (c : Nat) (f : Cluster → Cluster) : (s.updCluster c f).cluster c = f (s.cluster c) := AMap.get_set_same _ _ _ _
theorem State.updCluster_cluster_ne (s : State) (c : Nat) (f : Cluster → Cluster) {i : Nat} (hn : i ≠ c) : (s.updCluster c f).cluster i = s.cluster i :=
  AMap.get_set_ne _ _ _ hn
@[simp] theorem State.updHome_home_same (s : State) (h : Nat) (f : Home → Home) : (s.updHome h f).home h = f (s.home h) := AMap.get_set_same _ _ _ _
theorem State.updHome_home_ne (s : State) (h : Nat) (f : Home → Home) {i : Nat} (hn : i ≠ h) : (s.updHome h f).home i = s.home i :=
  AMap.get_set_ne _ _ _ hn
@[simp] theorem State.setPkg_pkg (s : State) (p : Pkg) : (s.setPkg p).pkg = p := rfl
@[simp] theorem State.push_agenda (s : State) (e : Instr) (l : List Nat) : (s.push e l).agenda = s.agenda ++ [(e, l)] := rfl
@[simp] theorem State.write_mem (s : State) (l m v : Nat) : (s.write l m v).mem = writeNat s.mem l m v := rfl

end Sys2Proof.Machine
end

