-- ==== Sys2Proof/Laws/Canon.lean ====
section
/-!
SUPPORT. The shared operations keep the canonical form of memory, of the empty words and of the poisoned ones.
-/

namespace Sys2Proof.Machine

/-- What an instruction comes to holds a canonical state, if it holds one. -/
def Res.Canon : Res → Prop
  | .done s | .goto s _ | .sent s => s.Canon
  | _ => True

/-! ### The primitives -/

theorem State.canon_of_eq {s s' : State} (h : s.Canon) (h1 : s'.mem = s.mem) (h2 : s'.empties = s.empties)
    (h3 : s'.poison = s.poison) : s'.Canon := by unfold State.Canon; rw [h1, h2, h3]; exact h

theorem State.write_canon {s : State} {l n v : Nat} (h : s.Canon) : (s.write l n v).Canon :=
  ⟨writeNat_wf h.1 _ _ _, h.2⟩

theorem State.setFull_canon {s : State} {l : Nat} {f : Bool} (h : s.Canon) : (s.setFull l f).Canon := by
  refine ⟨h.1, ?_, h.2.2⟩
  unfold State.setFull; dsimp only; split
  · exact ascending_erase h.2.1
  · exact ascending_insert h.2.1 (Nat.zero_le _)

theorem State.setPoison_canon {s : State} {l : Nat} {p : Bool} (h : s.Canon) : (s.setPoison l p).Canon := by
  refine ⟨h.1, h.2.1, ?_⟩
  unfold State.setPoison; dsimp only; split
  · exact ascending_insert h.2.2 (Nat.zero_le _)
  · exact ascending_erase h.2.2

theorem State.setTh_canon {s : State} {t v} (h : s.Canon) : (s.setTh t v).Canon := h
theorem State.setCore_canon {s : State} {t v} (h : s.Canon) : (s.setCore t v).Canon := h
theorem State.setCluster_canon {s : State} {t v} (h : s.Canon) : (s.setCluster t v).Canon := h
theorem State.setCtx_canon {s : State} {t v} (h : s.Canon) : (s.setCtx t v).Canon := h
theorem State.setStream_canon {s : State} {t v} (h : s.Canon) : (s.setStream t v).Canon := h
theorem State.setQueue_canon {s : State} {t v} (h : s.Canon) : (s.setQueue t v).Canon := h
theorem State.setHome_canon {s : State} {t v} (h : s.Canon) : (s.setHome t v).Canon := h
theorem State.setTlb_canon {s : State} {t v} (h : s.Canon) : (s.setTlb t v).Canon := h
theorem State.setPkg_canon {s : State} {v} (h : s.Canon) : (s.setPkg v).Canon := h
theorem State.setReq_canon {s : State} {t v} (h : s.Canon) : (s.setReq t v).Canon := h
theorem State.dropReq_canon {s : State} {t} (h : s.Canon) : (s.dropReq t).Canon := h
theorem State.tick_canon {s : State} (h : s.Canon) : s.tick.2.Canon := h
theorem State.drawFree_canon {s : State} (h : s.Canon) : s.drawFree.2.Canon := h
theorem State.push_canon {s : State} {e a} (h : s.Canon) : (s.push e a).Canon := h
theorem State.comeAgain_canon {s : State} {e a k l} (h : s.Canon) : (s.comeAgain e a k l).Canon := h
theorem State.tryAgain_canon {s : State} {e a w} (h : s.Canon) : (s.tryAgain e a w).Canon := by
  unfold State.tryAgain; split <;> exact h
theorem State.comeLater_canon {s : State} {e a w} (h : s.Canon) : (s.comeLater e a w).Canon := by
  unfold State.comeLater; split <;> exact h
theorem State.charge_canon {s : State} {d a b e} (h : s.Canon) : (s.charge d a b e).Canon := by
  unfold State.charge; split <;> exact h
theorem State.after_canon {s : State} {d e a} (h : s.Canon) : (s.after d e a).Canon := h
theorem State.updTh_canon {s : State} {t f} (h : s.Canon) : (s.updTh t f).Canon := h
theorem State.updCore_canon {s : State} {t f} (h : s.Canon) : (s.updCore t f).Canon := h
theorem State.updCtx_canon {s : State} {t f} (h : s.Canon) : (s.updCtx t f).Canon := h
theorem State.updStream_canon {s : State} {t f} (h : s.Canon) : (s.updStream t f).Canon := h
theorem State.updQueue_canon {s : State} {t f} (h : s.Canon) : (s.updQueue t f).Canon := h
theorem State.updCluster_canon {s : State} {t f} (h : s.Canon) : (s.updCluster t f).Canon := h
theorem State.updHome_canon {s : State} {t f} (h : s.Canon) : (s.updHome t f).Canon := h

/-! ### Folds -/

theorem foldl_canon {α : Type} {f : State → α → State} {l : List α} {s : State} (h : s.Canon)
    (hf : ∀ s x, s.Canon → (f s x).Canon) : (l.foldl f s).Canon := by
  induction l generalizing s with
  | nil => exact h
  | cons x l ih => exact ih (hf _ _ h)

theorem foldl_fst_canon {α β : Type} {f : State × β → α → State × β} {l : List α} {p : State × β} (h : p.1.Canon)
    (hf : ∀ p x, p.1.Canon → (f p x).1.Canon) : (l.foldl f p).1.Canon := by
  induction l generalizing p with
  | nil => exact h
  | cons x l ih => exact ih (hf _ _ h)

/-! ### Memory -/

theorem State.write64_canon {s : State} {l v} (h : s.Canon) : (s.write64 l v).Canon := write_canon h
theorem State.putWord_canon {s : State} {l v} (h : s.Canon) : (s.putWord l v).Canon := setPoison_canon (write_canon h)

theorem State.writeBytes_canon {s : State} {l bs} (h : s.Canon) : (s.writeBytes l bs).Canon := by
  induction bs generalizing s l with
  | nil => exact h
  | cons b bs ih => exact ih (write_canon h)

theorem State.putWords_canon {s : State} {l ws} (h : s.Canon) : (s.putWords l ws).Canon := by
  induction ws generalizing s l with
  | nil => exact h
  | cons b bs ih => exact ih (putWord_canon h)

theorem State.writeMasked_canon {s : State} {l m bs} (h : s.Canon) : (s.writeMasked l m bs).Canon := by
  induction bs generalizing s l m with
  | nil => exact h
  | cons b bs ih => unfold State.writeMasked; split <;> exact ih (by first | exact write_canon h | exact h)

theorem State.rootWrite_canon {s s' : State} {a b c} (h : s.Canon) (e : s.rootWrite a b c = some s') : s'.Canon := by
  grind [State.rootWrite, State.putWord_canon, Option.map_eq_some_iff]

theorem State.rootWrites_canon {s s' : State} {a b l} (h : s.Canon) (e : s.rootWrites a b l = some s') : s'.Canon := by
  induction l generalizing s b with
  | nil => grind [State.rootWrites]
  | cons w ws ih =>
    simp only [State.rootWrites, Option.bind_eq_bind] at e
    grind [State.rootWrite_canon, Option.bind_eq_some_iff]

theorem State.ringPost_canon {s s' : State} {a b r} (h : s.Canon) (e : s.ringPost a b r = some s') : s'.Canon := by
  simp only [State.ringPost, Option.bind_eq_bind, Option.bind_eq_some_iff] at e
  obtain ⟨f, _, e⟩ := e
  by_cases c : (decide (f = 0) || decide (bits f 5 0 ≠ 0)) = true
  · rw [if_pos c] at e; exact nomatch e
  rw [if_neg c] at e
  obtain ⟨ring, _, e⟩ := Option.bind_eq_some_iff.mp e
  by_cases c : (!ring.full) = true
  · rw [if_pos c] at e
    obtain ⟨s1, h1, h2⟩ := Option.bind_eq_some_iff.mp e
    exact rootWrite_canon (rootWrites_canon h h1) h2
  · rw [if_neg c] at e
    exact rootWrite_canon h e

theorem State.ringPost_getD_canon {s d : State} {a b r} (h : s.Canon) (hd : d.Canon) : ((s.ringPost a b r).getD d).Canon := by
  cases e : s.ringPost a b r with
  | none => exact hd
  | some s' => exact ringPost_canon h e

theorem State.postFault_canon {s : State} {a b r} (h : s.Canon) : (s.postFault a b r).Canon := by
  unfold State.postFault; dsimp only; split
  · exact h
  · split
    · exact comeLater_canon h
    · exact ringPost_getD_canon h h

theorem State.postWaiting_canon {n : Nat} {s : State} (h : s.Canon) : (s.postWaiting n).Canon := by
  induction n generalizing s with
  | zero => exact h
  | succ n ih =>
    unfold State.postWaiting
    split
    · exact h
    · split
      · exact tryAgain_canon h
      · exact ih (ringPost_getD_canon h h)

/-! ### Threads, traps, parks and the frame of an instruction (Ops.lean) -/

theorem State.wst_canon {s : State} {t c} (h : s.Canon) : (s.wst t c).Canon := h
theorem State.flag_canon {s : State} {t f} (h : s.Canon) : (s.flag t f).Canon := h
theorem State.writeOne_canon {s : State} {t d v} (h : s.Canon) : (s.writeOne t d v).Canon := by
  unfold State.writeOne; dsimp only; repeat' split
  all_goals exact h
theorem State.onBoth_canon {s : State} {t f} (h : s.Canon) (hf : ∀ s t, s.Canon → (f s t : State).Canon) :
    (s.onBoth t f).Canon := by
  unfold State.onBoth; repeat' split
  all_goals first | exact hf _ _ h | exact hf _ _ (hf _ _ h)
theorem State.writeDest_canon {s : State} {t d v} (h : s.Canon) : (s.writeDest t d v).Canon := by
  unfold State.writeDest; split
  · exact onBoth_canon h fun _ _ h => writeOne_canon h
  · exact writeOne_canon h
theorem State.writeVec_canon {s : State} {t d v} (h : s.Canon) : (s.writeVec t d v).Canon := by
  unfold State.writeVec; dsimp only; repeat' split
  all_goals first | exact h | exact onBoth_canon h fun _ _ h => h
theorem State.popStream_canon {s : State} {t i k} (h : s.Canon) : (s.popStream t i k).Canon := by
  unfold State.popStream; dsimp only; split <;> exact h
theorem State.consume_canon {s : State} {t i} (h : s.Canon) : (s.consume t i).Canon := by
  unfold State.consume; split
  · exact h
  · exact foldl_canon (foldl_canon h fun _ _ h => popStream_canon h) fun _ _ h => by split <;> exact h
theorem State.fill_canon {s : State} {t th} (h : s.Canon) : (s.fill t th).Canon := h
theorem State.slotFreed_canon {s : State} {u k} (h : s.Canon) : (s.slotFreed u k).Canon := by
  unfold State.slotFreed; dsimp only; repeat' split
  all_goals exact h
theorem State.freeSlot_canon {s : State} {t} (h : s.Canon) : (s.freeSlot t).Canon := slotFreed_canon (fill_canon h)
theorem State.route_canon {s : State} {u d} (h : s.Canon) : (s.route u d).Canon := by
  unfold State.route; repeat' split
  all_goals first | exact postFault_canon h | exact h
theorem State.sendOut_canon {s : State} {u d} (h : s.Canon) : (s.sendOut u d).Canon := by
  unfold State.sendOut; dsimp only; repeat' split
  all_goals first | exact comeLater_canon h | exact route_canon h | exact h
theorem State.sendWaiting_canon {n : Nat} {s : State} {u} (h : s.Canon) : (State.sendWaiting n s u).Canon := by
  induction n generalizing s with
  | zero => exact h
  | succ n ih =>
    unfold State.sendWaiting; repeat' split
    all_goals first | exact tryAgain_canon h | exact ih (route_canon h) | exact h
theorem State.sendRecord_canon {s : State} {t r} (h : s.Canon) : (s.sendRecord t r).Canon := by
  unfold State.sendRecord; dsimp only; repeat' split
  all_goals first
    | exact freeSlot_canon (postFault_canon (postFault_canon h))
    | exact freeSlot_canon (postFault_canon h)
    | exact postFault_canon h
    | exact sendOut_canon h
    | exact h
theorem State.abandon_canon {s : State} {t} (h : s.Canon) : (s.abandon t).Canon := by
  unfold State.abandon; repeat' split
  all_goals exact h
theorem State.pairDiff_canon {s : State} {t} (h : s.Canon) : (s.pairDiff t).Canon := sendRecord_canon (updTh_canon h)
theorem State.takeTrap_canon {s : State} {t c i a d w y e x} (h : s.Canon) : (s.takeTrap t c i a d w y e x).Canon := by
  unfold State.takeTrap; dsimp only; repeat' split
  · exact h
  · exact pairDiff_canon (abandon_canon h)
  · exact sendRecord_canon (updTh_canon (updTh_canon (abandon_canon h)))
  · exact sendRecord_canon h
theorem State.resumeFrozen_canon {s : State} {t} (h : s.Canon) : (s.resumeFrozen t).Canon := by
  unfold State.resumeFrozen; dsimp only; repeat' split
  all_goals exact h
theorem State.askLimit_canon {s : State} {t a} (h : s.Canon) : (s.askLimit t a).Canon := by
  unfold State.askLimit; repeat' split
  all_goals first | exact comeLater_canon h | exact h
theorem State.parkOn_canon {s : State} {t i a o l} (h : s.Canon) : (s.parkOn t i a o l).Canon := askLimit_canon h
theorem State.mirror_canon {s : State} {t o i} (h : s.Canon) : (s.mirror t o i).Canon := by
  have k := consume_canon (t := o) (i := i) h
  unfold State.mirror State.twinReply; dsimp only; repeat' split
  all_goals first | exact k | exact h
theorem State.settled_canon {s : State} {t i} (h : s.Canon) : (s.settled t i).Canon := by
  unfold State.settled; dsimp only; repeat' split
  all_goals first
    | exact h | exact mirror_canon h | exact pairDiff_canon (mirror_canon h) | exact pairDiff_canon h
theorem State.finishAt_canon {s : State} {t i pc} (h : s.Canon) : (s.finishAt t i pc).Canon :=
  settled_canon (updTh_canon (consume_canon h))
theorem State.finish_canon {s : State} {t i} (h : s.Canon) : (s.finish t i).Canon := finishAt_canon h
theorem State.sendContext_canon {s : State} {t d w l} (h : s.Canon) : (s.sendContext t d w l).Canon := h
theorem State.returnTrap_canon {s : State} {t i} (h : s.Canon) : (s.returnTrap t i).Canon := by
  unfold State.returnTrap; split
  · exact parkOn_canon h
  · exact h
theorem applyRes_canon {s : State} {t i r} (h : s.Canon) (hr : r.Canon) : (applyRes s t i r).Canon := by
  cases r
  · exact State.finish_canon hr
  · exact State.finishAt_canon hr
  · exact State.takeTrap_canon h
  · exact State.parkOn_canon h
  · exact hr
  · exact State.returnTrap_canon h
theorem State.postHash_canon {s : State} {t o b m} (h : s.Canon) : (s.postHash t o b m).Canon := by
  unfold State.postHash; dsimp only
  split
  all_goals split <;> exact h
theorem pairGate_canon {s s' : State} {t i} (h : s.Canon) (e : pairGate s t i = some s') : s'.Canon := by
  unfold pairGate at e
  split at e
  · simp at e
  · split at e
    · simp at e
    · cases e
      exact State.postHash_canon (State.parkOn_canon h)
theorem absentClass_canon {t i r} (e : absentClass i t = some r) : r.Canon := by
  unfold absentClass at e; dsimp only at e
  (repeat' split at e) <;> simp_all [Res.Canon]
  all_goals (subst e; trivial)
theorem streamState_canon {s t i k r} (e : streamState s t i k = some r) : r.Canon := by
  unfold streamState at e; dsimp only at e
  (repeat' split at e) <;> first | (simp at e; done) | (cases e; trivial)
theorem operandState_canon {s t i r} (e : operandState s t i = some r) : r.Canon := by
  unfold operandState at e
  split at e
  · next h =>
    unfold regsState at h; dsimp only at h
    (repeat' split at h) <;> first | (simp at h; done) | (cases h; cases e; trivial)
  · split at e
    · simp at e
    · split at e
      · rcases Option.or_eq_some_iff.mp e with h | ⟨_, h⟩
        · obtain ⟨k, _, hk⟩ := List.exists_of_findSome?_eq_some h
          exact streamState_canon hk
        · unfold mailboxState at h
          split at h
          · cases h; trivial
          · simp at h
      · simp at e
theorem rcbState_canon {s t i r} (e : rcbState s t i = some r) : r.Canon := by
  unfold rcbState at e
  split at e
  · simp at e
  · obtain ⟨_, _, rfl⟩ := Option.map_eq_some_iff.mp e
    trivial
theorem precheck_canon {s t i r} (e : precheck s t i = some r) : r.Canon := by
  unfold precheck decodeState at e
  rcases Option.or_eq_some_iff.mp e with h | ⟨_, h⟩
  · rcases Option.or_eq_some_iff.mp h with h | ⟨_, h⟩
    · rcases Option.or_eq_some_iff.mp h with h | ⟨_, h⟩
      · exact absentClass_canon h
      · obtain ⟨c, _, rfl⟩ := Option.map_eq_some_iff.mp h
        trivial
    · exact operandState_canon h
  · exact rcbState_canon h
/-- What an instruction word leaves is canonical, if its own effect is. -/
theorem runWord_canon {s s' : State} {i body} (h : s.Canon) (hb : ∀ s t, s.Canon → (body s t).Canon)
    (e : runWord i s body = .next s') : s'.Canon := by
  simp only [runWord, Host.Outcome.next.injEq] at e
  subst e
  split
  · next hp => exact applyRes_canon h (precheck_canon hp)
  · split
    · next hp => exact pairGate_canon h hp
    · exact applyRes_canon h (hb _ _ h)

end Sys2Proof.Machine
end

