-- ==== Sys2Proof/Laws/CanonHome.lean ====
section
/-!
SUPPORT. Homes, accesses and requests keep the canonical form.
-/

namespace Sys2Proof.Machine

open State

/-! ### Homes (Home.lean) -/

theorem State.windowWrite_canon {s : State} {a o v} (h : s.Canon) : (s.windowWrite a o v).Canon := by
  unfold State.windowWrite; repeat' split
  all_goals exact h
theorem State.store64_canon {s : State} {l v} (h : s.Canon) : (s.store64 l v).Canon := by
  unfold State.store64; split
  · exact windowWrite_canon h
  · exact putWord_canon h
theorem State.performRaw_canon {s : State} {op k l} (h : s.Canon) : (s.performRaw op k l).1.Canon := by
  unfold State.performRaw
  cases op <;> dsimp only <;> (repeat' split) <;> first
    | with_reducible exact h
    | with_reducible exact store64_canon h
    | with_reducible exact write_canon h
    | with_reducible exact putWord_canon h
    | with_reducible exact setFull_canon h
    | with_reducible exact setFull_canon (putWord_canon h)
    | with_reducible exact writeMasked_canon h
theorem State.serveOne_canon {s s' : State} {l} (h : s.Canon) (e : s.serveOne l = some s') : s'.Canon := by
  unfold State.serveOne at e; dsimp only at e
  split at e
  · simp at e
  · cases e; exact performRaw_canon h
theorem State.serveWaiters_canon {n : Nat} {s : State} {l} (h : s.Canon) : (State.serveWaiters n s l).Canon := by
  induction n generalizing s with
  | zero => exact h
  | succ n ih =>
    unfold State.serveWaiters
    split
    · exact h
    · next e => exact ih (serveOne_canon h e)
theorem State.performPart_canon {s : State} {op k l} (h : s.Canon) : (s.performPart op k l).1.Canon := by
  have h1 := performRaw_canon (op := op) (k := k) (l := l) h
  unfold State.performPart
  cases op <;> first | exact h1 | exact serveWaiters_canon h1
theorem State.performParts_canon {s : State} {op k ls} (h : s.Canon) : (s.performParts op k ls).1.Canon := by
  induction ls generalizing s k with
  | nil => exact h
  | cons l ls ih => exact ih (performPart_canon h)
theorem State.writeVecs_canon {s : State} {t v n ws} (h : s.Canon) : (s.writeVecs t v n ws).Canon := by
  induction n generalizing s v ws with
  | zero => exact h
  | succ n ih => exact ih (writeVec_canon h)
theorem finishOp_canon {s : State} {t va op as} (h : s.Canon) : (finishOp s t va op as).Canon := by
  have hd : ∀ d v, (s.writeDest t d v).Canon := fun _ _ => writeDest_canon h
  unfold finishOp; dsimp only
  split
  · trivial
  · split
    · exact hd _ _
    · show State.Canon _
      split <;> exact hd _ _
    · show State.Canon (State.wst _ _ _)
      split
      · exact h
      · exact hd _ _
    · exact h
    · exact h
    · exact writeVecs_canon h
    · exact h
    · exact writeDest_canon (updTh_canon h)
    · exact h
    · exact h
    · exact h
theorem State.sendReq_canon {s : State} {t i r o l} (h : s.Canon) : (s.sendReq t i r o l).2.Canon := parkOn_canon h
theorem State.sendParts_canon {s : State} {t i r o} (h : s.Canon) : (s.sendParts t i r o).Canon :=
  foldl_canon (f := fun s p => s.push _ [_, p]) (sendReq_canon h) fun _ _ h => h
theorem access_canon {s : State} {t i va op ps o} (h : s.Canon) : (access s t i va op ps o).Canon := by
  unfold access; dsimp only; split
  · exact sendParts_canon h
  · split
    · exact parkOn_canon h
    · split
      · exact sendReq_canon h
      · split
        · exact sendParts_canon h
        · have k := finishOp_canon (t := t) (va := va) (op := op) (as := (s.performParts op 0 ps).2)
            (performParts_canon (op := op) (k := 0) (ls := ps) h)
          split
          · trivial
          · exact k
theorem State.postOne_canon {s : State} {t va op d m r ps} (h : s.Canon) : (s.postOne t va op d m r ps).Canon := by
  unfold State.postOne; dsimp only
  repeat' split
  all_goals exact foldl_canon (f := fun s p => s.push _ _) h fun _ _ h => h
theorem postAll_canon {s : State} {t es} (h : s.Canon) : (postAll s t es).Canon := by
  unfold postAll; split
  · trivial
  · exact foldl_canon h fun _ _ h => postOne_canon h
theorem rlxLoad_canon {s : State} {t va op ds ps} (h : s.Canon) : (rlxLoad s t va op ds ps).Canon := by
  unfold rlxLoad; dsimp only; split
  · trivial
  · exact updTh_canon (foldl_canon (f := fun s p => s.push _ [_, p]) h fun _ _ h => h)
theorem drainThen_canon {s : State} {t k} (h : s.Canon) (hk : ∀ s, s.Canon → (k s).Canon) : (drainThen s t k).Canon := by
  unfold drainThen; split
  · exact hk _ h
  · trivial
theorem leaveFor_canon {s : State} {t d l} (h : s.Canon) : (leaveFor s t d l).Canon := by
  unfold leaveFor; split
  · trivial
  · exact h
theorem gMove_canon {s : State} {t g l r} (h : s.Canon) (e : gMove s t g l = some r) : r.Canon := by
  unfold gMove at e
  split at e
  · simp at e
  · split at e
    · cases e; trivial
    · cases e; exact leaveFor_canon h
theorem addrOf_canon {s t va n need w r} (e : addrOf s t va n need w = .error r) : r.Canon := by
  unfold addrOf at e
  (repeat' split at e) <;> cases e <;> trivial
theorem addrAtDevice_canon {s t va n need w r} (e : addrAtDevice s t va n need w = .error r) : r.Canon := by
  unfold addrAtDevice at e
  split at e
  · next h => cases e; exact addrOf_canon h
  · split at e <;> cases e; trivial

/-! ### Requests (Requests.lean) -/

theorem State.endReq_canon {s : State} {k} (h : s.Canon) : (s.endReq k).Canon := h
theorem State.endLoad_canon {s : State} {k} (h : s.Canon) : (s.endLoad k).Canon := h
theorem State.updEntry_canon {s : State} {u e f} (h : s.Canon) : (s.updEntry u e f).Canon := h
theorem State.freeJournal_canon {s : State} {u e} (h : s.Canon) : (s.freeJournal u e).Canon := h
theorem State.updMoving_canon {s : State} {t f} (h : s.Canon) : (s.updMoving t f).Canon := by
  unfold State.updMoving; dsimp only; split <;> exact h
theorem State.hold_canon {s : State} {t x} (h : s.Canon) : (s.hold t x).Canon := updMoving_canon h
theorem State.startLimit_canon {s : State} {t k} (h : s.Canon) : (s.startLimit t k).Canon := by
  unfold State.startLimit; dsimp only; repeat' split
  all_goals first | exact h | exact askLimit_canon (updTh_canon h)
theorem State.answered_canon {s : State} {k r} (h : s.Canon) : (s.answered k r).Canon := by
  unfold State.answered; repeat' split
  all_goals exact h
theorem State.arrive_canon {s : State} {k p a} (h : s.Canon) : (s.arrive k p a).Canon := by
  unfold State.arrive; dsimp only; repeat' split
  all_goals first
    | exact h | exact startLimit_canon h | exact answered_canon (setReq_canon (performPart_canon h))
theorem State.takeReply_canon {s : State} {k} (h : s.Canon) : (s.takeReply k).Canon := by
  unfold State.takeReply; dsimp only; repeat' split
  · exact h
  · exact h
  · next e =>
    have k := finishOp_canon (t := (s.req k).thread) (va := (s.req k).va) (op := (s.req k).op) (as := (s.req k).answers)
      (endReq_canon (k := k) h)
    rw [e] at k
    exact k
  · exact applyRes_canon (endReq_canon h) (finishOp_canon (endReq_canon h))
  · exact h
theorem State.landAt_canon {s : State} {t k r} (h : s.Canon) : (s.landAt t k r).Canon := by
  unfold State.landAt; dsimp only; split <;> exact updMoving_canon (f := fun th => th.land k r) h
theorem State.refuse_canon {s : State} {u e r} (h : s.Canon) : (s.refuse u e r).Canon := by
  unfold State.refuse; dsimp only; split
  · exact hold_canon (updEntry_canon h)
  · exact h
theorem State.wake_canon {s : State} {t} (h : s.Canon) : (s.wake t).Canon := h
theorem State.cancelReq_canon {s : State} {k} (h : s.Canon) : (s.cancelReq k).Canon := h
theorem State.unpark_canon {s s' : State} {t} (h : s.Canon) (e : s.unpark t = some s') : s'.Canon := by
  unfold State.unpark at e
  split at e
  · simp at e
  · split at e
    · cases e; exact h
    · cases e; exact abandon_canon h

end Sys2Proof.Machine
end

