-- ==== Sys2Proof/Laws/CanonTasks.lean ====
section
/-!
SUPPORT. Queues, tasks, delegation and migration keep the canonical form.
-/

namespace Sys2Proof.Machine

open State

/-! ### Queues (Queues.lean) -/

theorem State.alert_canon {s : State} {q} (h : s.Canon) : (s.alert q).Canon := by
  unfold State.alert; dsimp only; split
  · exact h
  · exact foldl_canon (f := fun s c => s.push _ [_, c]) (setQueue_canon h) fun _ _ h => h
theorem State.stir_canon {s : State} {q} (h : s.Canon) : (s.stir q).Canon := by
  unfold State.stir; split <;> exact h
theorem State.pushTask_canon {s s' : State} {q ws n} (h : s.Canon) (e : s.pushTask q ws = some (n, s')) : s'.Canon := by
  unfold State.pushTask at e; dsimp only at e; split at e
  · simp at e
  · cases e; exact stir_canon (alert_canon (setQueue_canon h))
theorem State.takeTask_canon {s : State} {q} (h : s.Canon) : (s.takeTask q).2.2.Canon := by
  unfold State.takeTask; dsimp only; repeat' split
  all_goals first | with_reducible exact h | exact stir_canon (setQueue_canon h)
theorem State.stealTask_canon {s : State} {q b} (h : s.Canon) : (s.stealTask q b).2.2.Canon := by
  unfold State.stealTask; dsimp only
  split
  · exact h
  · split
    · exact h
    · split
      · exact h
      · split
        · exact h
        · exact stir_canon (setQueue_canon h)
theorem State.retireTask_canon {s : State} {q n} (h : s.Canon) : (s.retireTask q n).Canon :=
  stir_canon (foldl_canon (f := fun (s : State) (r : TaskRec) => s.push _ [_, r.seq]) (setQueue_canon h) fun _ _ h => h)
theorem State.replayTask_canon {s : State} {q n} (h : s.Canon) : (s.replayTask q n).Canon := by
  unfold State.replayTask; split
  · exact h
  · exact stir_canon (setQueue_canon h)
theorem State.fillBody_canon {s : State} {t b l pc q r} (h : s.Canon) : (s.fillBody t b l pc q r).Canon := h
theorem State.reserve_canon {s : State} {t b r c} (h : s.Canon) : (s.reserve t b r c).Canon := h
theorem State.unreserve_canon {s : State} {t} (h : s.Canon) : (s.unreserve t).Canon := slotFreed_canon h
theorem State.fillFar_canon {s : State} {t q r} (h : s.Canon) : (s.fillFar t q r).Canon := by
  unfold State.fillFar; dsimp only; split <;> exact h
theorem State.storeNotified_canon {s : State} {n l d} (h : s.Canon) : (s.storeNotified n l d).Canon := by
  unfold State.storeNotified; repeat' split
  · exact tryAgain_canon h
  · exact h
  · exact putWord_canon h
theorem State.postNotify_canon {s : State} {a k l d} (h : s.Canon) : (s.postNotify a k l d).Canon :=
  storeNotified_canon (s := { s.updHome a _ with ev := [], fresh := s.fresh + 1 }) h
theorem State.deferNotify_canon {s : State} {a d r c} (h : s.Canon) : (s.deferNotify a d r c).Canon := by
  unfold State.deferNotify; dsimp only; split <;> exact h
theorem State.notify_canon {s : State} {m a b} (h : s.Canon) : (s.notify m a b).Canon := by
  unfold State.notify; dsimp only; repeat' split
  · exact tryAgain_canon h
  · exact deferNotify_canon h
  · exact postNotify_canon h
  · exact h
theorem State.windowEnd_canon {s : State} {m a b} (h : s.Canon) : (s.windowEnd m a b).Canon := by
  unfold State.windowEnd; dsimp only
  split
  · exact h
  · split
    · exact tryAgain_canon h
    · split
      all_goals split
      all_goals first | exact h | (split <;> first | exact postNotify_canon h | exact h)
theorem State.notifyJoin_canon {s : State} {m a n} (h : s.Canon) : (s.notifyJoin m a n).Canon := by
  unfold State.notifyJoin; repeat' split
  · exact tryAgain_canon h
  · exact notify_canon (s := { s with ev := [] }) h
  · exact h
theorem State.retireOrReplay_canon {s : State} {q n b k} (h : s.Canon) : (s.retireOrReplay q n b k).Canon := by
  unfold State.retireOrReplay
  split
  · exact h
  · split
    · exact replayTask_canon h
    · exact retireTask_canon h
theorem State.replyAlert_canon {s : State} {q c} (h : s.Canon) : (s.replyAlert q c).Canon := by
  unfold State.replyAlert; dsimp only; split <;> exact h
theorem State.joinDec_canon {s s' : State} {a l n w} (h : s.Canon) (e : s.joinDec a l n = some (w, s')) : s'.Canon := by
  unfold State.joinDec at e; dsimp only at e; split at e
  · simp at e
  · have k : (s.write64 l (s.read64 l - 1)).Canon := write64_canon h
    obtain ⟨-, rfl⟩ := Prod.mk.inj (Option.some.inj e)
    clear e
    generalize s.write64 l _ = q at k ⊢
    repeat' split
    all_goals first
      | with_reducible exact k
      | exact notifyJoin_canon (s := { q with ev := [] }) k

/-! ### Tasks (Tasks.lean) -/

theorem atHomes_canon {s : State} {t ws q k} (h : s.Canon) (hk : ∀ s, s.Canon → (k s).Canon) :
    (atHomes s t ws q k).Canon := by
  unfold atHomes; split
  · trivial
  · split
    · trivial
    · exact hk _ h
theorem pushCheckAt_canon {s b a x r e} (h : pushCheckAt s b a x r = some e) : e.Canon := by
  unfold pushCheckAt at h; dsimp only at h
  (repeat' split at h) <;> first | (simp at h; done) | (cases h; trivial)
theorem pushCheck_canon {s t x r e} (h : pushCheck s t x r = some e) : e.Canon := pushCheckAt_canon h
theorem withWords_canon {s : State} {t i va l n k} (h : s.Canon) (hk : ∀ ws, (k ws).Canon) :
    (withWords s t i va l n k).Canon := by
  unfold withWords; dsimp only
  split
  · exact hk _
  · split
    · exact hk _
    · exact updTh_canon (sendParts_canon h)
    · trivial
theorem fetchTask_canon {s : State} {t i d w x va l r} (h : s.Canon) : (fetchTask s t i d w x va l r).Canon := by
  unfold fetchTask; dsimp only; split
  · exact finishOp_canon (performParts_canon h)
  · exact foldl_canon (f := fun s p => s.push _ [_, p]) (sendReq_canon h) fun _ _ h => h
theorem State.doneJoin_canon {s : State} {t j l} (h : s.Canon) : (s.doneJoin t j l).Canon := by
  unfold State.doneJoin; dsimp only; split
  · exact postFault_canon h
  · split
    · exact postFault_canon h
    · split
      · next e => exact joinDec_canon h e
      · exact postFault_canon h
theorem State.endThread_canon {s : State} {t} (h : s.Canon) : (s.endThread t).Canon := by
  unfold State.endThread; split
  · exact freeSlot_canon (freeSlot_canon h)
  · exact freeSlot_canon h
theorem joinAddr_canon {s t va n r} (e : joinAddr s t va n = .error r) : r.Canon := by
  unfold joinAddr at e; split at e
  · next h => cases e; exact addrOf_canon h
  · split at e <;> cases e; trivial
theorem waitFor_canon {s : State} {t i b a te} (h : s.Canon) : (waitFor s t i b a te).Canon := by
  unfold waitFor; split
  · exact h
  · exact parkOn_canon h

/-! ### Delegation (Delegate.lean) -/

theorem dlgAddr_canon {s t va r} (e : dlgAddr s t va = .error r) : r.Canon := by
  unfold dlgAddr at e; dsimp only at e
  (repeat' split at e) <;> cases e <;> trivial
theorem dlgSend_canon {s : State} {t va far go} (h : s.Canon) (hf : ∀ s, s.Canon → (far s).Canon)
    (hg : ∀ s u, s.Canon → (go s u).Canon) : (dlgSend s t va far go).Canon := by
  unfold dlgSend; split
  · trivial
  · split
    · next e => exact dlgAddr_canon e
    · refine drainThen_canon h fun s h => ?_
      split
      · exact hf _ h
      · split
        · trivial
        · exact hg _ _ h
theorem State.endCall_canon {s : State} {c r} (h : s.Canon) : (s.endCall c r).Canon := by
  unfold State.endCall; repeat' split
  all_goals first | with_reducible exact h | exact freeJournal_canon h | exact finish_canon (writeDest_canon h)
theorem State.routineEnd_canon {s : State} {u} (h : s.Canon) : (s.routineEnd u).Canon := by
  unfold State.routineEnd; dsimp only; split
  · exact h
  · exact endCall_canon (freeSlot_canon (updCore_canon h))

/-! ### Migration (Migrate.lean) -/

theorem migAddr_canon {s t va r} (e : migAddr s t va = .error r) : r.Canon := by
  unfold migAddr at e; dsimp only at e
  (repeat' split at e) <;> cases e <;> trivial
theorem State.vacate_canon {s : State} {t} (h : s.Canon) : (s.vacate t).Canon := freeSlot_canon (updCore_canon h)

/-! ### Lists of accesses -/

theorem mapM_error_canon {α : Type} {f : α → Except Res Nat} {l : List α} {r : Res} (hf : ∀ a r, f a = .error r → r.Canon)
    (e : l.mapM f = .error r) : r.Canon := by
  induction l with
  | nil => simp [List.mapM_nil, pure, Except.pure] at e
  | cons a l ih =>
    simp only [List.mapM_cons, bind, Except.bind] at e
    split at e
    · next h => cases e; exact hf _ _ h
    · split at e
      · next h => cases e; exact ih h
      · simp [pure, Except.pure] at e

end Sys2Proof.Machine
end

