-- ==== Sys2Proof/Laws/CanonEngine.lean ====
section
/-!
SUPPORT. Engines and their commands keep the canonical form.
-/

namespace Sys2Proof.Machine

open State

/-! ### Contexts (Engine.lean) -/

/-- What a piece of a command comes to holds a canonical state, if it holds one. -/
inductive Piece.Canon : Piece → Prop
  | more {s : State} : s.Canon → Canon (.more s)
  | last {s : State} : s.Canon → Canon (.last s)
  | idle {s : State} : s.Canon → Canon (.idle s)
  | wait : Canon .wait
  | err {e : EngErr} : Canon (.err e)

theorem State.setCmd_canon {s : State} {k x} (h : s.Canon) : (s.setCmd k x).Canon := h
theorem State.kick_canon {s : State} {k} (h : s.Canon) : (s.kick k).Canon := foldl_canon h fun _ _ h => h
theorem State.kickAll_canon {s : State} {k} (h : s.Canon) : (s.kickAll k).Canon := by
  unfold State.kickAll; split
  · exact foldl_canon h fun _ _ h => kick_canon h
  · exact kick_canon h
theorem State.completeCmd_canon {s : State} {k n} (h : s.Canon) : (s.completeCmd k n).Canon := by
  unfold State.completeCmd; split
  · exact h
  · exact kickAll_canon h
theorem State.refuseWaits_canon {s : State} {k} (h : s.Canon) : (s.refuseWaits k).Canon := by
  refine foldl_canon h fun _ _ h => ?_
  split
  · exact finish_canon (wst_canon h)
  · exact h
theorem State.loseTile_canon {s : State} {k x} (h : s.Canon) : (s.loseTile k x).Canon := by
  unfold State.loseTile; split <;> exact h
theorem State.freeArray_canon {s : State} {k} (h : s.Canon) : (s.freeArray k).Canon := by
  unfold State.freeArray; split <;> exact h
theorem State.holdSaved_canon {s : State} {u c x} (h : s.Canon) : (s.holdSaved u c x).Canon := by
  unfold State.holdSaved; dsimp only; split
  · exact postFault_canon h
  · exact putWord_canon (foldl_canon (updCore_canon h) fun _ _ h => putWord_canon h)
theorem State.tellThread_canon {s : State} {x k} (h : s.Canon) : (s.tellThread x k).Canon := by
  unfold State.tellThread; dsimp only; split
  · exact hold_canon h
  · split
    · exact h
    · split
      · split
        · split
          · exact h
          · split <;> exact h
        · exact holdSaved_canon h
      · exact postFault_canon h
theorem State.reportEng_canon {s : State} {k x c a} (h : s.Canon) : (s.reportEng k x c a).Canon := tellThread_canon h
theorem State.faultCtx_canon {s : State} {k n c a} (h : s.Canon) : (s.faultCtx k n c a).Canon := by
  unfold State.faultCtx; split
  · exact h
  · exact kickAll_canon (reportEng_canon (refuseWaits_canon (freeArray_canon (updCtx_canon (loseTile_canon h)))))
theorem State.sendPageRequest_canon {s : State} {k n c a} (h : s.Canon) : (s.sendPageRequest k n c a).Canon := by
  unfold State.sendPageRequest; dsimp only; repeat' split
  all_goals first | exact postFault_canon h | exact sendOut_canon (setCmd_canon h) | exact h
theorem State.retryCmd_canon {s : State} {k n} (h : s.Canon) : (s.retryCmd k n).Canon := by
  unfold State.retryCmd; repeat' split
  all_goals exact h
theorem State.discard_canon {s : State} {k} (h : s.Canon) : (s.discard k).Canon := by
  have h1 := foldl_canon (l := (s.ctx k).cmds.filter (fun x => x.state ≠ .done)) h fun s x h => loseTile_canon (k := k) (x := x) h
  unfold State.discard; dsimp only
  refine kickAll_canon (refuseWaits_canon (freeArray_canon ?_))
  split <;> exact h1
theorem claimAt_canon {s : State} {t k} (h : s.Canon) : (claimAt s t k).Canon := by
  unfold claimAt; dsimp only; split <;> exact h
theorem releaseAt_canon {s : State} {t k} (h : s.Canon) : (releaseAt s t k).Canon := by
  unfold releaseAt; dsimp only; repeat' split
  all_goals first | exact h | trivial
theorem clearAt_canon {s : State} {t k} (h : s.Canon) : (clearAt s t k).Canon := by
  unfold clearAt; dsimp only; repeat' split
  all_goals first | exact h | trivial | exact discard_canon h
theorem ewrAt_canon {s : State} {t k r v} (h : s.Canon) : (ewrAt s t k r v).Canon := by
  unfold ewrAt; dsimp only; split <;> exact h
theorem erdAt_canon {s : State} {t k r d} (h : s.Canon) : (erdAt s t k r d).Canon := by
  unfold erdAt; split
  · exact writeDest_canon h
  · exact writeDest_canon h
theorem acceptAt_canon {s : State} {t k o a b g x y z} (h : s.Canon) : (acceptAt s t k o a b g x y z).Canon := by
  unfold acceptAt; dsimp only; repeat' split
  all_goals first | exact h | trivial
theorem engWrite_canon {s s' : State} {k x ok va bs} (h : s.Canon) (e : engWrite s k x ok va bs = .ok s') : s'.Canon := by
  unfold engWrite at e
  (repeat' split at e) <;> cases e <;> first | exact putWord_canon h | exact writeBytes_canon h
theorem State.dropDenied_canon {s : State} {b r v n u} (h : s.Canon) : (s.dropDenied b r v n u).Canon := by
  unfold State.dropDenied; repeat' split
  all_goals exact h
theorem State.engSweep_canon {s : State} {k x n l} (h : s.Canon) : (s.engSweep k x n l).Canon :=
  foldl_canon h fun _ _ h => dropDenied_canon h
theorem engTake_canon {s : State} {k x ok rs p} (h : s.Canon) (e : engTake s k x ok rs = .ok p) : p.1.Canon := by
  unfold engTake at e; dsimp only at e
  obtain ⟨q, _, rfl⟩ : ∃ q, engRead _ k x ok rs = .ok q ∧ _ = p := by
    cases e1 : engRead (s.engSweep k x .r ((rs.filter (fun r => !AMap.has x.got r.1)).map (·.2))) k x ok rs with
    | error => rw [e1] at e; exact nomatch e
    | ok q => rw [e1] at e; exact ⟨q, e1, Except.ok.inj e⟩
  exact charge_canon (engSweep_canon h)
theorem readAhead_canon {s : State} {k x ok rs} (h : s.Canon) : (readAhead s k x ok rs).Canon := by
  unfold readAhead; dsimp only; split
  · next e => exact setCmd_canon (engTake_canon h e)
  · exact h
/-- A write of a command keeps the canonical form, if its reading and its writing do. -/
theorem writePiece_canon {s : State} {k x dst hits n i rd wr p} (h : s.Canon)
    (hr : ∀ (s : State) is q, s.Canon → rd s is = .ok q → q.1.Canon)
    (hw : ∀ (s s' : State) va bs, s.Canon → wr s va bs = .ok s' → s'.Canon)
    (e : writePiece s k x dst hits n i rd wr = .ok p) : p.1.Canon := by
  unfold writePiece at e; dsimp only at e
  split at e
  · cases e; exact h
  · split at e
    · cases e; split <;> exact h
    · generalize hq : (if (writeAt dst hits i).several = true then _ else _ : Nat × State) = q at e
      have c : q.2.Canon := by subst hq; split <;> exact h
      split at e
      · exact nomatch e
      · next e1 =>
        split at e
        · exact nomatch e
        · next e2 => cases e; exact setCtx_canon (hw _ _ _ _ (hr _ _ _ c e1) e2)
theorem copyPiece_canon {s : State} {k x a b hits n i okR okW p} (h : s.Canon)
    (e : copyPiece s k x a b hits n i okR okW = .ok p) : p.1.Canon :=
  writePiece_canon h (fun _ _ _ h e => engTake_canon h e) (fun _ _ _ _ h e => engWrite_canon (engSweep_canon h) e) e
theorem pieceOf_canon {s : State} {k x n} (h : s.Canon) : (pieceOf x k n s).Canon := by
  unfold pieceOf; repeat' split
  · exact .last h
  · exact .more h
  · exact .last h

/-! ### Copies, streams and buoys (Copy.lean) -/

theorem matrixSend_canon {s : State} {t i c r} (h : s.Canon) : (matrixSend s t i c r).Canon := by
  unfold matrixSend; split
  · next e =>
    unfold State.matrixCause at e; dsimp only at e
    (repeat' split at e) <;> cases e <;> trivial
  · exact push_canon (parkOn_canon h)
theorem State.countBytes_canon {s : State} {x n} (h : s.Canon) : (s.countBytes x n).Canon := by
  unfold State.countBytes; dsimp only; split
  · exact foldl_canon h fun _ _ h => h
  · exact h
theorem movePiece_canon {s : State} {k x i} (h : s.Canon) : (movePiece s k x i).Canon := by
  unfold movePiece; dsimp only
  split
  · exact .err
  · next e => exact pieceOf_canon (countBytes_canon (copyPiece_canon h e))
theorem moveAhead_canon {s : State} {k x i} (h : s.Canon) : (moveAhead s k x i).Canon := readAhead_canon h
theorem bopenPiece_canon {s : State} {k x} (h : s.Canon) : (bopenPiece s k x).Canon := by
  unfold bopenPiece; dsimp only; repeat' split
  all_goals first | exact .err | exact .more h | exact .last h | exact .idle h
theorem State.closeBank_canon {s : State} {k} (h : s.Canon) : (s.closeBank k).Canon := by
  unfold State.closeBank; split <;> exact h
theorem csrAhead_canon {s : State} {k x i} (h : s.Canon) : (csrAhead s k x i).Canon := by
  unfold csrAhead; dsimp only; split
  · exact h
  · exact readAhead_canon h
theorem csrPiece_canon {s : State} {k x} (h : s.Canon) : (csrPiece s k x).Canon := by
  unfold csrPiece; dsimp only
  split
  · exact .err
  · next e1 =>
    split
    · exact .err
    · split
      · exact .err
      · next e2 =>
        have c := engTake_canon (engTake_canon h e1) e2
        repeat' split
        all_goals first | exact .err | exact .wait | exact .last c | exact .more c
theorem streamStore_canon {s : State} {k x y e b} (h : s.Canon) : (streamStore s k x y e b).Canon := by
  unfold streamStore; dsimp only
  split
  · split
    · exact .last h
    · exact .more h
  · split
    · exact .err
    · next hw =>
      have c := countBytes_canon (x := x) (n := [y.esz]) (engWrite_canon (engSweep_canon h) hw)
      split
      · exact .more (setCmd_canon c)
      · split
        · exact .last (setStream_canon c)
        · exact .more (setStream_canon c)
theorem streamFetch_canon {s : State} {k x y} (h : s.Canon) : (streamFetch s k x y).Canon := by
  unfold streamFetch; dsimp only
  split
  · exact .err
  · next e =>
    split
    · exact .last (setStream_canon (engTake_canon h e))
    · exact .more (setStream_canon (engTake_canon h e))
theorem streamAhead_canon {s : State} {k x i} (h : s.Canon) : (streamAhead s k x i).Canon := by
  unfold streamAhead; dsimp only; split
  · exact h
  · exact readAhead_canon h
theorem ite_pieceCanon {c : Prop} [Decidable c] {a b : Piece} (ha : a.Canon) (hb : b.Canon) : (if c then a else b).Canon := by
  split <;> assumption
theorem streamPiece_canon {s : State} {k x o} (h : s.Canon) : (streamPiece s k x o).Canon :=
  ite_pieceCanon (.last h) (ite_pieceCanon (.idle h) (ite_pieceCanon (.idle h) (ite_pieceCanon .err
    (ite_pieceCanon (streamStore_canon h) (streamFetch_canon h)))))
theorem bindStream_canon {s : State} {t i c p} (h : s.Canon) : (bindStream s t i c p).Canon := by
  unfold bindStream; dsimp only; repeat' split
  all_goals first | trivial | exact h
theorem State.unbind_canon {s : State} {k} (h : s.Canon) : (s.unbind k).Canon := by
  unfold State.unbind; dsimp only; split <;> exact h
theorem State.gsForget_canon {s : State} {k x} (h : s.Canon) : (s.gsForget k x).Canon := h
theorem gsIndex_canon {s : State} {k x i p} (h : s.Canon) (e : gsIndex s k x i = .ok p) : p.1.Canon := by
  unfold gsIndex at e; dsimp only at e
  cases e1 : engTake s k x (s.gsNear k) (namedBytes (2 ^ 64 + 8 * i) (x.a + BitVec.ofNat 64 (i * gsIw (x.reg 8)))
      (gsIw (x.reg 8))) with
  | error => rw [e1] at e; exact nomatch e
  | ok q => rw [e1] at e; cases e; exact engTake_canon h e1
theorem gsFill_canon {s : State} {k x is p} (h : s.Canon) (e : gsFill s k x is = .ok p) : p.1.Canon := by
  induction is generalizing s x with
  | nil => cases e; exact h
  | cons i is ih =>
    unfold gsFill at e
    split at e
    · exact ih h e
    · split at e
      · exact nomatch e
      · next e1 => exact ih (gsIndex_canon h e1) e
theorem gsPiece_canon {s : State} {k x i} (h : s.Canon) : (gsPiece s k x i).Canon := by
  unfold gsPiece; dsimp only
  split
  · exact .err
  · next e =>
    have h1 := gsFill_canon h e
    split
    · exact .err
    · next e =>
      refine pieceOf_canon (gsForget_canon ?_)
      split at e
      · exact copyPiece_canon h1 e
      · exact copyPiece_canon h1 e
theorem gsAhead_canon {s : State} {k x i} (h : s.Canon) : (gsAhead s k x i).Canon := by
  unfold gsAhead; dsimp only
  split
  · exact h
  · next e =>
    have h1 := gsFill_canon h e
    repeat' split
    · exact h1
    · exact readAhead_canon h1
    · exact readAhead_canon h1

/-! ### The matrix unit (Matrix.lean) -/

theorem matrixBody_canon {s : State} {t k i} (h : s.Canon) : (matrixBody s t k i).Canon := by
  unfold matrixBody; dsimp only; split
  all_goals first
    | exact claimAt_canon h
    | exact releaseAt_canon h
    | exact clearAt_canon h
    | exact ewrAt_canon h
    | exact erdAt_canon h
    | exact acceptAt_canon h
    | exact h
theorem State.startArray_canon {s : State} {c} (h : s.Canon) : (s.startArray c).Canon := by
  unfold State.startArray; dsimp only; repeat' split
  all_goals exact h
theorem scratchWrite_canon {s s' : State} {k off bs} (h : s.Canon) (e : scratchWrite s k off bs = .ok s') :
    s'.Canon := by
  unfold scratchWrite at e
  (repeat' split at e) <;> cases e <;> first | exact putWord_canon h | exact writeBytes_canon h
theorem takePort_canon {s : State} {k w bs n p} (h : s.Canon) (e : takePort s k w bs n = .ok p) : p.1.Canon := by
  unfold takePort at e; dsimp only at e
  (repeat' split at e) <;> cases e <;> exact h
theorem State.setTileRow_canon {s : State} {c t i vs} (h : s.Canon) : (s.setTileRow c t i vs).Canon := h
theorem stepAcc_canon {s : State} {k x n d} (h : s.Canon) : (stepAcc s k x n d).1.Canon :=
  foldl_fst_canon h fun _ _ h => h
theorem State.chargeMatrix_canon {s : State} {k x e} (h : s.Canon) : (s.chargeMatrix k x e).Canon := charge_canon h
theorem State.stallArray_canon {s : State} {k x} (h : s.Canon) : (s.stallArray k x).Canon := by
  unfold State.stallArray; dsimp only; split <;> exact h
theorem mmaPiece_canon {s : State} {k x} (h : s.Canon) : (mmaPiece s k x).Canon := by
  have h1 : (if x.opn = 4 && (s.ctx k).entry.isNone then
        (match (s.ctx k).mq with
         | [] => s
         | e :: es => s.setCtx k { s.ctx k with entry := some e, mq := es }) else s).Canon := by
    repeat' split
    all_goals exact h
  unfold mmaPiece; dsimp only
  split
  · exact .err
  · split
    · exact .err
    · next ea =>
      split
      · exact .err
      · next eb =>
        have h2 := takePort_canon (takePort_canon h1 ea) eb
        split
        · exact .idle (stallArray_canon (updCtx_canon h2))
        · split
          · exact .err
          · split
            · exact .last (updCtx_canon (stepAcc_canon (chargeMatrix_canon (updCtx_canon h2))))
            · exact .more (updCtx_canon (stepAcc_canon (chargeMatrix_canon (updCtx_canon h2))))
theorem acopyInPiece_canon {s : State} {k x} (h : s.Canon) : (acopyInPiece s k x).Canon := by
  unfold acopyInPiece; dsimp only
  split
  · exact .err
  · split
    · exact .last (updCtx_canon (setTileRow_canon (chargeMatrix_canon h)))
    · exact .more (updCtx_canon (setTileRow_canon (chargeMatrix_canon h)))
theorem scratchAhead_canon {s : State} {k x n} (h : s.Canon) : (scratchAhead s k x n).Canon := by
  unfold scratchAhead; dsimp only; split <;> exact h
theorem acopyOutPiece_canon {s : State} {k x i} (h : s.Canon) : (acopyOutPiece s k x i).Canon := by
  unfold acopyOutPiece; dsimp only
  split
  · exact .err
  · split
    · exact .err
    · next e =>
      have c := writePiece_canon h (fun s is q h e => by cases e; exact h) (fun s s' va bs h e => scratchWrite_canon h e) e
      have d := pieceOf_canon (x := x) (k := k) (n := 64 * outLen x.fmtD) c
      split
      · next e => rw [e] at d; cases d with | last d => exact .last (updCtx_canon d)
      · exact d
theorem tsetPiece_canon {s : State} {k x} (h : s.Canon) : (tsetPiece s k x).Canon := by
  unfold tsetPiece; dsimp only; repeat' split
  all_goals first | exact .err | exact .more h | exact .last h | exact .idle h
theorem matrixPiece_canon {s : State} {k x o} (h : s.Canon) : (matrixPiece s k x o).Canon := by
  unfold matrixPiece; split
  · exact acopyOutPiece_canon h
  · exact .idle h
  · exact mmaPiece_canon h
  · exact mmaPiece_canon h
  · exact .last h
  · exact acopyInPiece_canon h
  · exact tsetPiece_canon h
  · exact .last h
theorem State.endMatrix_canon {s : State} {k} (h : s.Canon) : (s.endMatrix k).Canon := freeArray_canon (updCtx_canon h)
theorem State.tellIssuers_canon {s : State} {c k n l xs} (h : s.Canon) : (s.tellIssuers c k n l xs).Canon := by
  induction xs generalizing s l with
  | nil => exact h
  | cons x xs ih => unfold State.tellIssuers; split <;> exact ih (by first | exact h | exact reportEng_canon h)
theorem State.failCtx_canon {s : State} {c k} (h : s.Canon) : (s.failCtx c k).Canon :=
  refuseWaits_canon (tellIssuers_canon (updCtx_canon (foldl_canon h fun _ _ h => loseTile_canon h)))
theorem State.failUnit_canon {s : State} {cl c} (h : s.Canon) : (s.failUnit cl c).Canon :=
  foldl_canon h fun _ _ h => failCtx_canon h

/-! ### The bank MAC (Bmac.lean) -/

theorem bmacCmd_canon {s : State} {t o a b} (h : s.Canon) : (bmacCmd s t o a b).Canon := acceptAt_canon h
theorem State.openBanks_canon {s : State} {k} (h : s.Canon) : (s.openBanks k).Canon := by
  unfold State.openBanks; split <;> exact h
theorem State.closeBanks_canon {s : State} {k} (h : s.Canon) : (s.closeBanks k).Canon := h
theorem bcastAhead_canon {s : State} {k x n} (h : s.Canon) : (bcastAhead s k x n).Canon := by
  unfold bcastAhead; dsimp only; split
  · exact h
  · exact readAhead_canon h
theorem bcastPiece_canon {s : State} {k x o} (h : s.Canon) : (bcastPiece s k x o).Canon := by
  unfold bcastPiece; dsimp only
  split
  · exact ite_pieceCanon (.idle h) (.last h)
  · refine ite_pieceCanon (ite_pieceCanon (.last ?_) (.more ?_)) ?_
    · split <;> exact h
    · split <;> exact h
    · split
      · exact .err
      · next e =>
        have c := engTake_canon h e
        split
        · exact .last (setCmd_canon (updCore_canon c))
        · exact .more (setCmd_canon (updCore_canon c))
theorem macBlock_canon {s : State} {k x c p} (h : s.Canon) (e : macBlock s k x c = .ok p) : p.1.Canon := by
  unfold macBlock at e; dsimp only at e
  (repeat' split at e) <;> cases e
  exact engSweep_canon h
theorem macTake_canon {s : State} {k x c ws p} (h : s.Canon) (e : macTake s k x c ws = .ok p) : p.1.Canon := by
  unfold macTake at e; dsimp only at e
  split at e
  · cases e; exact h
  · split at e
    · exact nomatch e
    · next e1 =>
      split at e
      · exact nomatch e
      · cases e; exact charge_canon (macBlock_canon h e1)
theorem macAhead_canon {s : State} {k x n} (h : s.Canon) : (macAhead s k x n).Canon := by
  unfold macAhead; dsimp only; split
  · exact h
  · split
    · next e => exact setCmd_canon (macTake_canon h e)
    · exact h
theorem macPiece_canon {s : State} {k x} (h : s.Canon) : (macPiece s k x).Canon := by
  have h1 : (if x.progress = 0 then s.updCtx k (fun c => { c with flags := 0 }) else s).Canon := by split <;> exact h
  unfold macPiece; dsimp only
  generalize (if x.progress = 0 then s.updCtx k (fun c => { c with flags := 0 }) else s) = s1 at h1
  split
  · exact .err
  · split
    · exact .err
    · next e =>
      have h2 := macTake_canon h1 e
      split
      · exact .last (foldl_fst_canon h2 fun _ _ h => h)
      · exact .more (foldl_fst_canon h2 fun _ _ h => h)
theorem rdPiece_canon {s : State} {k x i} (h : s.Canon) : (rdPiece s k x i).Canon := by
  unfold rdPiece; dsimp only
  split
  · exact .err
  · next e =>
    refine pieceOf_canon (writePiece_canon h (fun s is q h e => ?_)
      (fun s s' va bs h e => engWrite_canon (engSweep_canon h) e) e)
    cases e; exact h
theorem bmacPiece_canon {s : State} {k x o} (h : s.Canon) : (bmacPiece s k x o).Canon := by
  unfold bmacPiece; split
  · exact bcastPiece_canon h
  · exact rdPiece_canon h
  · exact .idle h
  · exact .last (openBanks_canon h)
  · exact macPiece_canon h
  · exact .last h
  · exact .last h

/-! ### Page migration (Pmig.lean) -/

theorem startMove_canon {s : State} {k x} (h : s.Canon) : (startMove s k x).Canon := by
  unfold startMove; repeat' split
  all_goals first | exact .err | exact .more h | exact .last h | exact .idle h
theorem copyMove_canon {s : State} {k x f} (h : s.Canon) : (copyMove s k x f).Canon := by
  unfold copyMove; dsimp only; repeat' split
  all_goals first
    | exact .err
    | exact .last (updCtx_canon (setPoison_canon (putWord_canon (charge_canon h))))
    | exact .more (setCmd_canon (setPoison_canon (putWord_canon (charge_canon h))))
theorem movePagePiece_canon {s : State} {k x} (h : s.Canon) : (movePagePiece s k x).Canon := by
  unfold movePagePiece; split
  · exact startMove_canon h
  · exact copyMove_canon h
  · exact .last h
theorem State.retryFails_canon {s : State} {k r l c v} (h : s.Canon) : (s.retryFails k r l c v).Canon := by
  unfold State.retryFails; dsimp only; repeat' split
  all_goals first | exact h | exact takeTrap_canon (endReq_canon h)
theorem State.retrySends_canon {s : State} {f k r l ps} (h : s.Canon) : (s.retrySends f k r l ps).Canon := by
  unfold State.retrySends; dsimp only
  repeat' split
  all_goals first | exact h | exact foldl_canon (by exact h) fun _ _ h => h
theorem State.retryReq_canon {s : State} {f k} (h : s.Canon) : (s.retryReq f k).Canon := by
  unfold State.retryReq; dsimp only
  split
  · exact h
  · split
    · exact h
    · split
      · exact retryFails_canon (updHome_canon h)
      · exact retrySends_canon (updHome_canon h)
theorem State.retryWaits_canon {s : State} {f} (h : s.Canon) : (s.retryWaits f).Canon := h
theorem commitPiece_canon {s : State} {k} (h : s.Canon) : (commitPiece s k).Canon := by
  unfold commitPiece; split
  · exact .last h
  · exact .last (foldl_canon (s := State.rewalkSaved _ _) h fun _ _ h => retryReq_canon h)
theorem pmigPiece_canon {s : State} {k x o} (h : s.Canon) : (pmigPiece s k x o).Canon := by
  unfold pmigPiece; repeat' split
  · exact .idle h
  · exact movePagePiece_canon h
  · exact commitPiece_canon h

/-! ### The events of commands (EngineRun.lean) -/

theorem enginePiece_canon {s : State} {k x o} (h : s.Canon) : (enginePiece s k x o).Canon := by
  unfold enginePiece
  generalize ctxEng k = e, x.opn = n
  split
  · split
    · exact movePiece_canon h
    · exact movePiece_canon h
    · exact streamPiece_canon h
    · exact .idle h
    · exact bopenPiece_canon h
    · exact .last (closeBank_canon h)
    · exact csrPiece_canon h
  · exact matrixPiece_canon h
  · exact gsPiece_canon h
  · exact bmacPiece_canon h
  · exact pmigPiece_canon h
theorem engineAhead_canon {s : State} {k x n} (h : s.Canon) : (engineAhead s k x n).Canon := by
  unfold engineAhead; split
  all_goals first
    | exact moveAhead_canon h | exact csrAhead_canon h | exact streamAhead_canon h | exact scratchAhead_canon h
    | exact gsAhead_canon h | exact bcastAhead_canon h | exact macAhead_canon h | exact h
theorem State.arrivedAt_canon {s : State} {k n a} (h : s.Canon) : (s.arrivedAt k n a).Canon := h
theorem State.holdCmd_canon {s : State} {k x l} (h : s.Canon) : (s.holdCmd k x l).Canon := by
  exact arrivedAt_canon (s := { s with fresh := s.fresh + 1 }) h
theorem State.engFailed_canon {s : State} {k x e} (h : s.Canon) : (s.engFailed k x e).Canon := by
  cases e
  · exact push_canon (setCmd_canon (engSweep_canon h))
  · exact push_canon (engSweep_canon h)
  · exact holdCmd_canon h
theorem State.stepFails_canon {s : State} {k n} (h : s.Canon) : (s.stepFails k n).Canon := by
  unfold State.stepFails
  cases (s.ctx k).cmd n with
  | none => exact h
  | some x =>
    dsimp only
    split
    · exact h
    split
    · exact h
    split
    · exact failUnit_canon h
    · exact faultCtx_canon h

end Sys2Proof.Machine
end

