-- ==== Sys2Proof/Laws/CanonRest.lean ====
section
/-!
SUPPORT. Traps, saved threads, containment, launches, the expansion unit and the host's registers
keep the canonical form.
-/

namespace Sys2Proof.Machine

open State

/-! ### State registers and translation buffers (Sys.lean) -/

theorem State.choose_canon {α : Type} {s s' : State} {l : List α} {x} (h : s.Canon) (e : s.choose l = some (x, s')) :
    s'.Canon := by
  match l with
  | [] => exact nomatch e
  | [a] => exact (Prod.mk.inj (Option.some.inj e)).2 ▸ h
  | a :: b :: r => exact (Prod.mk.inj (Option.some.inj e)).2 ▸ drawFree_canon h
theorem writeReg_canon {s : State} {t n v} (h : s.Canon) : (writeReg s t n v).Canon := by
  unfold writeReg unlessSealing; dsimp only; repeat' split
  all_goals first | trivial | exact h
theorem dropTlbs_canon {s : State} {t i d c} (h : s.Canon) : (dropTlbs s t i d c).Canon := by
  unfold dropTlbs; refine drainThen_canon h fun s h => ?_
  dsimp only; split
  · exact h
  · exact parkOn_canon h

/-! ### Traps (Traps.lean) -/

theorem State.takeHeld_canon {s : State} {t} (h : s.Canon) : (s.takeHeld t).Canon := by
  unfold State.takeHeld; split
  · exact h
  · exact takeTrap_canon (updTh_canon h)
theorem State.offer_canon {s : State} {u x} (h : s.Canon) : (s.offer u x).Canon := by
  unfold State.offer; split <;> exact h
theorem State.deliver_canon {s : State} {u} (h : s.Canon) : (s.deliver u).Canon :=
  foldl_canon (updCore_canon h) fun _ _ h => offer_canon h
theorem State.dropCall_canon {s : State} {c} (h : s.Canon) : (s.dropCall c).Canon := endCall_canon (drawFree_canon h)
theorem State.scrub_canon {s : State} {t} (h : s.Canon) : (s.scrub t).Canon := by
  have h1 : ((s.posted t).foldl (fun s p => s.freeJournal (unitOfThread t) p.1) s).Canon :=
    foldl_canon h fun _ _ h => freeJournal_canon h
  unfold State.scrub; dsimp only
  generalize (s.posted t).foldl (fun s p => s.freeJournal (unitOfThread t) p.1) s = s1 at h1
  repeat' split
  all_goals first | exact dropCall_canon (freeSlot_canon (updCore_canon h1)) | exact freeSlot_canon h1
theorem State.endTask_canon {s : State} {th b} (h : s.Canon) : (s.endTask th b).1.Canon := by
  unfold State.endTask; dsimp only; repeat' split
  all_goals first | exact h | exact retireOrReplay_canon h
theorem State.kill_canon {s : State} {t b r} (h : s.Canon) : (s.kill t b r).Canon := by
  unfold State.kill; dsimp only
  exact postFault_canon (endTask_canon (foldl_canon h fun _ _ h => scrub_canon h))
theorem State.tellSaved_canon {s : State} (h : s.Canon) : s.tellSaved.Canon :=
  foldl_canon (setPkg_canon h) fun _ _ h => tellThread_canon h
theorem State.resumeHandled_canon {s : State} {t} (h : s.Canon) : (s.resumeHandled t).Canon := by
  have h1 : ∀ s1 : State, s1.Canon → (match (s.th t).pageReq with
      | some (k, n) => s1.retryCmd k n
      | none => s1).Canon := by
    intro s1 h1; split
    · exact retryCmd_canon h1
    · exact h1
  refine h1 _ ?_
  repeat' split
  all_goals first | exact h | exact resumeFrozen_canon (freeJournal_canon h) | exact resumeFrozen_canon h

/-! ### Saving and restoring (Preempt.lean) -/

theorem State.save_canon {s : State} {u th va leaf lvl tid o m} (h : s.Canon) :
    (s.save u th va leaf lvl tid o m).Canon := by
  unfold State.save
  extract_lets c hrec s1 s2
  have h1 : s1.Canon := putWord_canon h
  clear_value s1
  have h2 : s2.Canon := foldl_canon h1 fun _ _ h => putWord_canon h
  exact updCore_canon h2
theorem State.restore_canon {s s' : State} {u a b} (h : s.Canon) {k} (e : s.restore k u a b = .ok s') : s'.Canon := by
  unfold State.restore at e
  split at e
  · exact nomatch e
  split at e
  · exact nomatch e
  extract_lets at_ m th waits drop at e
  split at e
  · exact nomatch e
  split at e
  · exact nomatch e
  split at e
  · exact nomatch e
  split at e
  · exact nomatch e
  extract_lets t s1 s2 s3 at e
  have h1 : s1.Canon := fill_canon h
  clear_value s1
  have h2 : s2.Canon := putWord_canon h1
  clear_value s2
  have h3 : s3.Canon := h2
  clear_value s3
  rw [← Restored.ok.inj e]
  split <;> exact h3
theorem preEnd_canon {s : State} {t d a b} (h : s.Canon) : (preEnd s t d a b).Canon := by
  unfold preEnd; split
  · exact writeDest_canon h
  · split
    · next e => exact writeDest_canon (restore_canon h e)
    · exact writeDest_canon h
    · split
      · trivial
      · exact writeDest_canon h
theorem State.letGo_canon {s : State} {t} (h : s.Canon) : (s.letGo t).Canon := h
theorem preSave_canon {s : State} {t u i d r} (h : s.Canon) : (preSave s t u i d r).Canon := by
  unfold preSave; dsimp only; repeat' split
  all_goals first
    | exact writeDest_canon (letGo_canon h)
    | exact parkOn_canon h
    | exact preEnd_canon (freeSlot_canon (foldl_canon (save_canon h) fun _ _ h => freeJournal_canon h))
theorem State.reportSpill_canon {s : State} {u th} (h : s.Canon) : (s.reportSpill u th).Canon :=
  postFault_canon (drawFree_canon h)
theorem State.spillOne_canon {s : State} {u k m} (h : s.Canon) : (s.spillOne u k m).Canon := by
  unfold State.spillOne; dsimp only; repeat' split
  all_goals first
    | exact h
    | exact reportSpill_canon h
    | exact tryAgain_canon h
    | exact foldl_canon (f := fun s x => State.tellThread s _ _) (save_canon h) fun _ _ h => tellThread_canon h

/-! ### Containment (Preempt.lean) -/

theorem abandonOr_canon {s s' : State} {t} {b : Bool} (h : s.Canon)
    (e : (if b then some (s.abandon t) else s.unpark t) = some s') : s'.Canon := by
  cases b with
  | true => cases e; exact abandon_canon h
  | false => exact unpark_canon h e
theorem takeBack_canon {s : State} {a : Status} {b : Option Nat} (h : s.Canon) : (match a, b with
      | .migrating, some k => { s with msgs := AMap.del s.msgs k }
      | _, _ => s : State).Canon := by split <;> exact h
theorem State.stopContained_canon {s : State} {t} (h : s.Canon) : (s.stopContained t).Canon := by
  unfold State.stopContained; dsimp only
  split
  · exact h
  · split
    · exact h
    · next e1 => exact updTh_canon (drawFree_canon (takeBack_canon (abandonOr_canon h e1)))
theorem State.containThread_canon {s : State} {t} (h : s.Canon) : (s.containThread t).Canon := by
  have h1 : (if (s.th t).status = .free then s else (s.slotsOfPair t).foldl State.stopContained s).Canon := by
    split
    · exact h
    · exact foldl_canon h fun _ _ h => stopContained_canon h
  unfold State.containThread
  dsimp only
  generalize (if (s.th t).status = .free then s else (s.slotsOfPair t).foldl State.stopContained s) = s1 at h1
  split
  · exact h1
  · exact foldl_canon (f := fun s (x : Word × Word × TrapRec) => s.postFault x.1 x.2.1 x.2.2) (kill_canon h1)
      fun _ _ h => postFault_canon h
theorem State.containCtx_canon {s : State} {k} (h : s.Canon) : (s.containCtx k).Canon := by
  unfold State.containCtx; dsimp only
  refine updCtx_canon (discard_canon ?_)
  split <;> exact closeBank_canon h
theorem State.containRound_canon {s : State} {w} (h : s.Canon) : (s.containRound w).1.Canon := by
  unfold State.containRound; dsimp only
  refine foldl_canon (f := State.containCtx) (foldl_canon (f := State.unbind) (foldl_canon
    (foldl_canon (f := State.containThread) (foldl_canon (f := State.dropCall) h ?_) ?_) ?_) ?_) ?_
  · exact fun _ _ h => dropCall_canon h
  · exact fun _ _ h => containThread_canon h
  · intro s x h
    split
    · split
      · exact spillOne_canon h
      · exact h
    · exact h
  · exact fun _ _ h => unbind_canon h
  · exact fun _ _ h => containCtx_canon h

/-! ### Launches (Launch.lean) -/

theorem State.endLaunch_canon {s : State} {e} (h : s.Canon) : (s.endLaunch e).Canon := by
  unfold State.endLaunch; dsimp only; split <;> exact h
theorem launchFill_canon {s s' : State} {a b x} (h : s.Canon) (e : launchFill s a b x = some s') : s'.Canon := by
  unfold launchFill at e
  split at e
  · exact nomatch e
  · exact nomatch e
  · next p ps _ _ _ =>
    rw [← Option.some.inj e]
    have h1 : (if ps.isEmpty = true then (0, s) else s.drawFree).2.Canon := by split <;> exact h
    exact h1
theorem fillThreads_canon {n : Nat} {s : State} {x} (h : s.Canon) : (fillThreads n s x).1.Canon := by
  induction n generalizing s x with
  | zero => exact h
  | succ n ih =>
    unfold fillThreads; repeat' split
    · exact h
    · next e => exact ih (launchFill_canon h e)
    · exact h
theorem State.keepLaunch_canon {s : State} {x} (h : s.Canon) : (s.keepLaunch x).Canon := h
theorem State.goOnLaunch_canon {s : State} {x} (h : s.Canon) : (s.goOnLaunch x).Canon := by
  have h1 := fillThreads_canon (n := x.threads.length + 1) (x := x) h
  unfold State.goOnLaunch; dsimp only
  split
  · exact tryAgain_canon (keepLaunch_canon h)
  · split
    · next e => rw [e] at h1; exact endLaunch_canon h1
    · next e => rw [e] at h1; exact h1
theorem launchPush_canon {s s' : State} {a b c ws} (h : s.Canon) (e : launchPush s a b c ws = some s') : s'.Canon := by
  unfold launchPush at e
  split at e
  · exact nomatch e
  · split at e
    · exact nomatch e
    · split at e
      · exact nomatch e
      · obtain ⟨p, e1, rfl⟩ := Option.map_eq_some_iff.mp e
        exact pushTask_canon h e1
theorem State.readSome_canon {s s' : State} {g g' os l k} (h : s.Canon) (e : s.readSome g os l k = .ok (s', g')) :
    s'.Canon := by
  unfold State.readSome at e; dsimp only at e
  split at e
  · split at e
    · next e1 => cases e; exact choose_canon h e1
    · exact nomatch e
    · cases e; exact h
  · split at e
    · exact nomatch e
    · cases e; exact h
theorem State.pushLaunch_canon {n : Nat} {s : State} {x} (h : s.Canon) : (s.pushLaunch n x).Canon := by
  induction n generalizing s x with
  | zero => exact goOnLaunch_canon h
  | succ n ih =>
    unfold State.pushLaunch; dsimp only
    split
    · exact goOnLaunch_canon h
    · split
      · exact endLaunch_canon h
      · split
        · exact tryAgain_canon (keepLaunch_canon h)
        · next e =>
          have h1 := readSome_canon h e
          split
          · exact h1
          · split
            · exact tryAgain_canon (keepLaunch_canon h1)
            · split
              · exact endLaunch_canon h1
              · next e =>
                have h2 := launchPush_canon h1 e
                split
                · exact h2
                · exact ih h2
theorem State.takeRecord_canon {s s' : State} {l g} (h : s.Canon) (e : s.takeRecord l = .ok (s', g)) : s'.Canon := by
  unfold State.takeRecord at e; dsimp only at e
  split at e
  · exact nomatch e
  · next e1 =>
    have h1 := readSome_canon h e1
    split at e
    · cases e; exact h1
    · exact readSome_canon h1 e
theorem State.startEnergy_canon {s : State} {a b} (h : s.Canon) : (s.startEnergy a b).Canon := by
  unfold State.startEnergy; dsimp only; split <;> exact h

/-! ### The host's registers (Outside.lean) -/

theorem hostWrite_canon {s : State} {f} (h : s.Canon) : (hostWrite s f).Canon := by
  unfold hostWrite; split <;> exact h
theorem State.hostPut_canon {ws : List Word} {s : State} {l} (h : s.Canon) : (s.hostPut l ws).Canon := by
  induction ws generalizing s l with
  | nil => exact h
  | cons w ws ih =>
    unfold State.hostPut; refine ih ?_
    split
    · exact h
    · exact putWord_canon h
theorem State.hostPutBytes_canon {bs : List Byte} {s : State} {l} (h : s.Canon) : (s.hostPutBytes l bs).Canon := by
  induction bs generalizing s l with
  | nil => exact h
  | cons w ws ih =>
    unfold State.hostPutBytes; refine ih ?_
    split
    · exact h
    · exact writeBytes_canon h
theorem State.writeRecord_canon {s : State} {ws} (h : s.Canon) : (s.writeRecord ws).Canon := by
  unfold State.writeRecord; dsimp only; split
  · exact h
  · exact setPkg_canon (hostPut_canon h)
theorem State.writeRecords_canon {s : State} (h : s.Canon) : s.writeRecords.Canon := by
  unfold State.writeRecords; repeat' split
  · exact h
  · exact h
  · exact foldl_canon (f := State.writeRecord) (setPkg_canon h) fun _ _ h => writeRecord_canon h
theorem State.putTelemetry_canon {s : State} {a b c} (h : s.Canon) : (s.putTelemetry a b c).Canon := by
  unfold State.putTelemetry; dsimp only; split
  · exact h
  · exact writeRecords_canon (setPkg_canon h)
theorem State.setLinks_canon {s : State} {v} (h : s.Canon) : (s.setLinks v).Canon := putTelemetry_canon (setPkg_canon h)
theorem State.failUnreachable_canon {s : State} (h : s.Canon) : s.failUnreachable.Canon := by
  unfold State.failUnreachable; dsimp only
  exact foldl_canon (foldl_canon (foldl_canon h fun _ _ h => h) fun _ _ h => takeTrap_canon h) fun _ _ h => h
theorem State.drawFiller_canon {s : State} (h : s.Canon) : s.drawFiller.Canon := foldl_canon h fun _ _ h => h
theorem State.swapDevices_canon {s : State} {a b} (h : s.Canon) : (s.swapDevices a b).Canon := by
  unfold State.swapDevices; split
  · exact h
  · have m : ∀ (l m : Memory), Memory.wf m = true →
        Memory.wf (l.foldl (fun m c => writeByte m (swapDev a b c.1) c.2) m) = true := by
      intro l; induction l with
      | nil => exact fun _ h => h
      | cons c l ih => exact fun _ h => ih _ (writeByte_wf h _ _)
    have w : ∀ (l m : List Nat), Ascending 0 m →
        Ascending 0 (l.foldl (fun m w => setInsert m (swapDev a b (8 * w) / 8)) m) := by
      intro l; induction l with
      | nil => exact fun _ h => h
      | cons c l ih => exact fun _ h => ih _ (ascending_insert h (Nat.zero_le _))
    exact ⟨m _ [] rfl, w _ [] trivial, w _ [] trivial⟩
theorem State.packageReset_canon {s : State} (h : s.Canon) : s.packageReset.Canon :=
  swapDevices_canon (s := { s with
    mem := s.mem.filter (fun c => s.elsewhere c.1)
    empties := s.empties.filter (fun w => s.elsewhere (8 * w))
    poison := s.poison.filter (fun w => s.elsewhere (8 * w)) })
    ⟨filter_wf h.1 _, ascending_filter h.2.1, ascending_filter h.2.2⟩
theorem State.retrain_canon {s : State} {p} (h : s.Canon) : (s.retrain p).Canon := putTelemetry_canon (setPkg_canon h)
theorem State.chargeDie_canon {x : Nat × State} {d} (h : x.2.Canon) : (State.chargeDie x d).2.Canon := by
  unfold State.chargeDie; dsimp only; split <;> exact h
theorem State.setTlCtl_canon {s : State} {v} (h : s.Canon) : (s.setTlCtl v).Canon := by
  unfold State.setTlCtl; dsimp only; repeat' split
  all_goals exact h

/-! ### The expansion unit (Xp.lean) -/

/-- What the accesses of a request, and its service, come to holds a canonical state, if it holds one. -/
def XpMem.Canon : XpMem → Prop
  | .words _ s | .wait s => s.Canon
  | _ => True
def XpOut.Canon : XpOut → Prop
  | .res r | .denied r _ _ => r.Canon
  | .wait s => s.Canon

theorem State.xpWait_canon {s : State} {q l} (h : s.Canon) : (s.xpWait q l).Canon := by
  unfold State.xpWait; dsimp only; repeat' split
  all_goals exact h
theorem xpWord_canon {o ls k j p} (h : p.2.Canon) : (xpWord o ls k j p).2.Canon := by
  unfold xpWord; dsimp only; split
  · exact charge_canon h
  · exact putWord_canon h
theorem xpGate_canon {s s' : State} {q va n o} (h : s.Canon) (e : s.xpGate q va n o = some s') : s'.Canon := by
  unfold State.xpGate at e; dsimp only at e
  split at e
  · exact nomatch e
  · split at e
    · exact nomatch e
    · cases e
      repeat' split
      all_goals first | exact h | exact after_canon (postHash_canon h)
theorem xpReply_canon {s : State} {q} (h : s.Canon) : (s.xpReply q).Canon := by
  unfold State.xpReply; split <;> exact h
theorem xpGiven_canon {s : State} {q k n} (h : s.Canon) : (s.xpGiven q k n).Canon := by
  unfold State.xpGiven; split <;> exact h
theorem xpPerform_canon {s : State} {q k va n o} (h : s.Canon) : (xpPerform s q k va n o).Canon := by
  unfold xpPerform; dsimp only
  split
  · trivial
  · next ls _ =>
    generalize hp : (if s.split = true then _ else _ : List Nat × State) = p
    have c : p.2.Canon := by
      subst hp; repeat' split
      · next e => exact choose_canon h e
      · exact h
      · exact h
    split
    · trivial
    · have f : ∀ (l : List Nat) (x : XpReq × State), x.2.Canon → (l.foldl (fun p j => xpWord o ls k j p) x).2.Canon := by
        intro l; induction l with
        | nil => exact fun _ h => h
        | cons j l ih => exact fun _ h => ih _ (xpWord_canon h)
      have c2 := xpReply_canon (q := ((p.1.foldl (fun p j => xpWord o ls k j p) (q, p.2)).1)) (f p.1 (q, p.2) c)
      split
      · exact c2
      · exact xpWait_canon c2
theorem xpMem_canon {s : State} {q k va n o} (h : s.Canon) : (xpMem s q k va n o).Canon := by
  unfold xpMem; split
  · next e => exact xpGate_canon h e
  · split
    · exact xpGiven_canon h
    · exact xpPerform_canon h
theorem xpThen_canon {m : XpMem} {k} (h : m.Canon) (hk : ∀ ws s, s.Canon → (k ws s).Canon) : (xpThen m k).Canon := by
  cases m with
  | words ws s => exact hk _ _ h
  | trap c i a n => cases n <;> trivial
  | wait s => exact h
theorem State.putX_canon {s : State} {t k r} (h : s.Canon) : (s.putX t k r).Canon := h
theorem xpTwo_canon {s : State} {t i d a f} (h : s.Canon) : (xpTwo s t i d a f).Canon := by
  unfold xpTwo; dsimp only; split
  · exact h
  · trivial
theorem xpServe_canon {s : State} {q} (h : s.Canon) : (xpServe s q).Canon := by
  have w : ∀ {k va n o f}, (∀ ws s, s.Canon → (f ws s).Canon) → (xpThen (xpMem s q k va n o) f).Canon :=
    fun hk => xpThen_canon (xpMem_canon h) hk
  unfold xpServe; dsimp only; split
  · exact w fun _ _ h => h
  · exact w fun _ _ h => h
  · exact h
  · refine w fun ws s h => ?_
    split
    · trivial
    · exact xpThen_canon (xpMem_canon h) fun _ _ h => h
  · exact w fun _ _ h => h
  · exact xpTwo_canon h
  · split
    · exact h
    · split
      · trivial
      · exact w fun _ _ h => h
  · exact xpTwo_canon h
  · exact xpTwo_canon h
  · exact xpTwo_canon h
  · exact w fun _ _ h => writeDest_canon h
  · exact w fun _ _ h => writeVec_canon h
  · refine w fun ws s h => ?_
    split
    · exact h
    · split
      · trivial
      · exact xpThen_canon (xpMem_canon h) fun _ _ h => writeDest_canon h
  · exact writeDest_canon h
  · exact h
theorem State.xpEnd_canon {s : State} {u q r} (h : s.Canon) (hr : r.Canon) : (s.xpEnd u q r).Canon := by
  unfold State.xpEnd; dsimp only; repeat' split
  all_goals first
    | exact push_canon (finish_canon (updCore_canon hr))
    | exact finish_canon (updCore_canon hr)
    | exact push_canon (applyRes_canon (updCore_canon h) hr)
    | exact applyRes_canon (updCore_canon h) hr
theorem State.xpFails_canon {s : State} {u n} (h : s.Canon) : (s.xpFails u n).Canon := by
  unfold State.xpFails; repeat' split
  · exact h
  · exact xpEnd_canon h trivial
  · exact h
  · exact h
theorem xpSend_canon {s : State} {t i} (h : s.Canon) : (xpSend s t i).Canon := by
  unfold xpSend; dsimp only; split
  · trivial
  · split
    · exact push_canon (parkOn_canon (updCore_canon h))
    · exact parkOn_canon (updCore_canon h)

end Sys2Proof.Machine
end

