-- ==== Sys2Proof/Laws/Exec.lean ====
section
/-!
SUPPORT. The arm of every constructor of `Instr`, and an instruction word that reaches its own effect.
-/

namespace Sys2Proof.Machine

/-! ### The arms -/

theorem exec_aluAdd (d a b s) : exec (.aluAdd d a b) s = execAluAdd d a b s := rfl
theorem exec_aluSub (d a b s) : exec (.aluSub d a b) s = execAluSub d a b s := rfl
theorem exec_aluMul (d a b s) : exec (.aluMul d a b) s = execAluMul d a b s := rfl
theorem exec_aluMulh (d a b s) : exec (.aluMulh d a b) s = execAluMulh d a b s := rfl
theorem exec_aluMulhu (d a b s) : exec (.aluMulhu d a b) s = execAluMulhu d a b s := rfl
theorem exec_aluDiv (d a b s) : exec (.aluDiv d a b) s = execAluDiv d a b s := rfl
theorem exec_aluDivu (d a b s) : exec (.aluDivu d a b) s = execAluDivu d a b s := rfl
theorem exec_aluRem (d a b s) : exec (.aluRem d a b) s = execAluRem d a b s := rfl
theorem exec_aluRemu (d a b s) : exec (.aluRemu d a b) s = execAluRemu d a b s := rfl
theorem exec_aluAnd (d a b s) : exec (.aluAnd d a b) s = execAluAnd d a b s := rfl
theorem exec_aluOr (d a b s) : exec (.aluOr d a b) s = execAluOr d a b s := rfl
theorem exec_aluXor (d a b s) : exec (.aluXor d a b) s = execAluXor d a b s := rfl
theorem exec_aluAndn (d a b s) : exec (.aluAndn d a b) s = execAluAndn d a b s := rfl
theorem exec_aluSll (d a b s) : exec (.aluSll d a b) s = execAluSll d a b s := rfl
theorem exec_aluSrl (d a b s) : exec (.aluSrl d a b) s = execAluSrl d a b s := rfl
theorem exec_aluSra (d a b s) : exec (.aluSra d a b) s = execAluSra d a b s := rfl
theorem exec_aluRol (d a b s) : exec (.aluRol d a b) s = execAluRol d a b s := rfl
theorem exec_aluSlt (d a b s) : exec (.aluSlt d a b) s = execAluSlt d a b s := rfl
theorem exec_aluSltu (d a b s) : exec (.aluSltu d a b) s = execAluSltu d a b s := rfl
theorem exec_aluMin (d a b s) : exec (.aluMin d a b) s = execAluMin d a b s := rfl
theorem exec_aluMax (d a b s) : exec (.aluMax d a b) s = execAluMax d a b s := rfl
theorem exec_aluMinu (d a b s) : exec (.aluMinu d a b) s = execAluMinu d a b s := rfl
theorem exec_aluMaxu (d a b s) : exec (.aluMaxu d a b) s = execAluMaxu d a b s := rfl
theorem exec_aluClz (d a s) : exec (.aluClz d a) s = execAluClz d a s := rfl
theorem exec_aluCtz (d a s) : exec (.aluCtz d a) s = execAluCtz d a s := rfl
theorem exec_aluPopc (d a s) : exec (.aluPopc d a) s = execAluPopc d a s := rfl
theorem exec_addi (d a imm s) : exec (.addi d a imm) s = execAddi d a imm s := rfl
theorem exec_andi (d a imm s) : exec (.andi d a imm) s = execAndi d a imm s := rfl
theorem exec_ori (d a imm s) : exec (.ori d a imm) s = execOri d a imm s := rfl
theorem exec_xori (d a imm s) : exec (.xori d a imm) s = execXori d a imm s := rfl
theorem exec_shiSlli (d a n s) : exec (.shiSlli d a n) s = execShiSlli d a n s := rfl
theorem exec_shiSrli (d a n s) : exec (.shiSrli d a n) s = execShiSrli d a n s := rfl
theorem exec_shiSrai (d a n s) : exec (.shiSrai d a n) s = execShiSrai d a n s := rfl
theorem exec_shiRoli (d a n s) : exec (.shiRoli d a n) s = execShiRoli d a n s := rfl
theorem exec_lui (d imm s) : exec (.lui d imm) s = execLui d imm s := rfl
theorem exec_auipc (d imm s) : exec (.auipc d imm) s = execAuipc d imm s := rfl
theorem exec_csk (c sel a b s) : exec (.csk c sel a b) s = execCsk c sel a b s := rfl
theorem exec_cski (c sel a imm s) : exec (.cski c sel a imm) s = execCski c sel a imm s := rfl
theorem exec_br (c a o s) : exec (.br c a o) s = execBr c a o s := rfl
theorem exec_j (o s) : exec (.j o) s = execJ o s := rfl
theorem exec_jl (o s) : exec (.jl o) s = execJl o s := rfl
theorem exec_jr (d a imm s) : exec (.jr d a imm) s = execJr d a imm s := rfl
theorem exec_ld (d a w x g imm s) : exec (.ld d a w x g imm) s = execLd d a w x g imm s := rfl
theorem exec_st (b a w g imm s) : exec (.st b a w g imm) s = execSt b a w g imm s := rfl
theorem exec_felWfe (d a t o s) : exec (.felWfe d a t o) s = execFelWfe d a t o s := rfl
theorem exec_felWfs (d a t o s) : exec (.felWfs d a t o) s = execFelWfs d a t o s := rfl
theorem exec_felAny (d a o s) : exec (.felAny d a o) s = execFelAny d a o s := rfl
theorem exec_fesWes (b a t o s) : exec (.fesWes b a t o) s = execFesWes b a t o s := rfl
theorem exec_fesSetf (b a o s) : exec (.fesSetf b a o) s = execFesSetf b a o s := rfl
theorem exec_fesSete (b a o s) : exec (.fesSete b a o) s = execFesSete b a o s := rfl
theorem exec_amoAdd (d a b s) : exec (.amoAdd d a b) s = execAmoAdd d a b s := rfl
theorem exec_amoAnd (d a b s) : exec (.amoAnd d a b) s = execAmoAnd d a b s := rfl
theorem exec_amoOr (d a b s) : exec (.amoOr d a b) s = execAmoOr d a b s := rfl
theorem exec_amoXor (d a b s) : exec (.amoXor d a b) s = execAmoXor d a b s := rfl
theorem exec_amoMin (d a b s) : exec (.amoMin d a b) s = execAmoMin d a b s := rfl
theorem exec_amoMax (d a b s) : exec (.amoMax d a b) s = execAmoMax d a b s := rfl
theorem exec_amoMinu (d a b s) : exec (.amoMinu d a b) s = execAmoMinu d a b s := rfl
theorem exec_amoMaxu (d a b s) : exec (.amoMaxu d a b) s = execAmoMaxu d a b s := rfl
theorem exec_amoSwap (d a b s) : exec (.amoSwap d a b) s = execAmoSwap d a b s := rfl
theorem exec_amoCas (d a b s) : exec (.amoCas d a b) s = execAmoCas d a b s := rfl
theorem exec_amoIncw (d a b s) : exec (.amoIncw d a b) s = execAmoIncw d a b s := rfl
theorem exec_amoFaddb (d a b s) : exec (.amoFaddb d a b) s = execAmoFaddb d a b s := rfl
theorem exec_amoFaddF32 (d a b s) : exec (.amoFaddF32 d a b) s = execAmoFaddF32 d a b s := rfl
theorem exec_rupdAdd (a b s) : exec (.rupdAdd a b) s = execRupdAdd a b s := rfl
theorem exec_rupdAnd (a b s) : exec (.rupdAnd a b) s = execRupdAnd a b s := rfl
theorem exec_rupdOr (a b s) : exec (.rupdOr a b) s = execRupdOr a b s := rfl
theorem exec_rupdXor (a b s) : exec (.rupdXor a b) s = execRupdXor a b s := rfl
theorem exec_rupdMin (a b s) : exec (.rupdMin a b) s = execRupdMin a b s := rfl
theorem exec_rupdMax (a b s) : exec (.rupdMax a b) s = execRupdMax a b s := rfl
theorem exec_rupdMinu (a b s) : exec (.rupdMinu a b) s = execRupdMinu a b s := rfl
theorem exec_rupdMaxu (a b s) : exec (.rupdMaxu a b) s = execRupdMaxu a b s := rfl
theorem exec_rupdSwap (a b s) : exec (.rupdSwap a b) s = execRupdSwap a b s := rfl
theorem exec_rupdIncw (a b s) : exec (.rupdIncw a b) s = execRupdIncw a b s := rfl
theorem exec_rupdFaddF32 (a b s) : exec (.rupdFaddF32 a b) s = execRupdFaddF32 a b s := rfl
theorem exec_mig (a l s) : exec (.mig a l) s = execMig a l s := rfl
theorem exec_dlgCall (d a b s) : exec (.dlgCall d a b) s = execDlgCall d a b s := rfl
theorem exec_dlgPost (a b s) : exec (.dlgPost a b) s = execDlgPost a b s := rfl
theorem exec_tqPush (d a b s) : exec (.tqPush d a b) s = execTqPush d a b s := rfl
theorem exec_tqTake (d a b s) : exec (.tqTake d a b) s = execTqTake d a b s := rfl
theorem exec_tqSteal (d a b s) : exec (.tqSteal d a b) s = execTqSteal d a b s := rfl
theorem exec_tqDone (s) : exec .tqDone s = execTqDone s := rfl
theorem exec_tqDepth (d a s) : exec (.tqDepth d a) s = execTqDepth d a s := rfl
theorem exec_tqCfg (a b s) : exec (.tqCfg a b) s = execTqCfg a b s := rfl
theorem exec_tqSub (a b s) : exec (.tqSub a b) s = execTqSub a b s := rfl
theorem exec_jcInit (a b s) : exec (.jcInit a b) s = execJcInit a b s := rfl
theorem exec_jcAdd (d a b s) : exec (.jcAdd d a b) s = execJcAdd d a b s := rfl
theorem exec_jcDec (d a s) : exec (.jcDec d a) s = execJcDec d a s := rfl
theorem exec_waitJz (a t s) : exec (.waitJz a t) s = execWaitJz a t s := rfl
theorem exec_waitMbox (d a t s) : exec (.waitMbox d a t) s = execWaitMbox d a t s := rfl
theorem exec_waitSleep (d t s) : exec (.waitSleep d t) s = execWaitSleep d t s := rfl
theorem exec_waitFe (d a t s) : exec (.waitFe d a t) s = execWaitFe d a t s := rfl
theorem exec_waitTl (d a t s) : exec (.waitTl d a t) s = execWaitTl d a t s := rfl
theorem exec_waitBuoy (d a t s) : exec (.waitBuoy d a t) s = execWaitBuoy d a t s := rfl
theorem exec_waitGate (t s) : exec (.waitGate t) s = execWaitGate t s := rfl
theorem exec_thrSpawn (d a b s) : exec (.thrSpawn d a b) s = execThrSpawn d a b s := rfl
theorem exec_thrExit (s) : exec .thrExit s = execThrExit s := rfl
theorem exec_thrYield (s) : exec .thrYield s = execThrYield s := rfl
theorem exec_thrNwr (d a s) : exec (.thrNwr d a) s = execThrNwr d a s := rfl
theorem exec_thrStw (a b s) : exec (.thrStw a b) s = execThrStw a b s := rfl
theorem exec_sysSrd (d a s) : exec (.sysSrd d a) s = execSysSrd d a s := rfl
theorem exec_sysSwr (d a s) : exec (.sysSwr d a) s = execSysSwr d a s := rfl
theorem exec_sysTrap (a s) : exec (.sysTrap a) s = execSysTrap a s := rfl
theorem exec_sysBreak (s) : exec .sysBreak s = execSysBreak s := rfl
theorem exec_sysIfence (s) : exec .sysIfence s = execSysIfence s := rfl
theorem exec_sysFenceDev (s) : exec .sysFenceDev s = execSysFenceDev s := rfl
theorem exec_sysFenceDom (s) : exec .sysFenceDom s = execSysFenceDom s := rfl
theorem exec_sysFenceSys (s) : exec .sysFenceSys s = execSysFenceSys s := rfl
theorem exec_sysCapget (d a b s) : exec (.sysCapget d a b) s = execSysCapget d a b s := rfl
theorem exec_sysTres (s) : exec .sysTres s = execSysTres s := rfl
theorem exec_sysTkill (a s) : exec (.sysTkill a) s = execSysTkill a s := rfl
theorem exec_sysPre (d a b s) : exec (.sysPre d a b) s = execSysPre d a b s := rfl
theorem exec_sysTlbInv (a s) : exec (.sysTlbInv a) s = execSysTlbInv a s := rfl
theorem exec_sysTlbAll (a s) : exec (.sysTlbAll a) s = execSysTlbAll a s := rfl
theorem exec_pfxFmt (a d sel r s) : exec (.pfxFmt a d sel r) s = execPfxFmt a d sel r s := rfl
theorem exec_pfxRlx (s) : exec .pfxRlx s = execPfxRlx s := rfl
theorem exec_fpAdd (d a b s) : exec (.fpAdd d a b) s = execFpAdd d a b s := rfl
theorem exec_fpSub (d a b s) : exec (.fpSub d a b) s = execFpSub d a b s := rfl
theorem exec_fpMul (d a b s) : exec (.fpMul d a b) s = execFpMul d a b s := rfl
theorem exec_fpDiv (d a b s) : exec (.fpDiv d a b) s = execFpDiv d a b s := rfl
theorem exec_fpSqrt (d a s) : exec (.fpSqrt d a) s = execFpSqrt d a s := rfl
theorem exec_fpFma (d a b s) : exec (.fpFma d a b) s = execFpFma d a b s := rfl
theorem exec_fpMin (d a b s) : exec (.fpMin d a b) s = execFpMin d a b s := rfl
theorem exec_fpMax (d a b s) : exec (.fpMax d a b) s = execFpMax d a b s := rfl
theorem exec_fpCvt (d a s) : exec (.fpCvt d a) s = execFpCvt d a s := rfl
theorem exec_fpFtoi (d a s) : exec (.fpFtoi d a) s = execFpFtoi d a s := rfl
theorem exec_fpItof (d a s) : exec (.fpItof d a) s = execFpItof d a s := rfl
theorem exec_tblWr (a b s) : exec (.tblWr a b) s = execTblWr a b s := rfl
theorem exec_tblRd (d a s) : exec (.tblRd d a) s = execTblRd d a s := rfl
theorem exec_tblSeal (s) : exec .tblSeal s = execTblSeal s := rfl
theorem exec_tblNansub (a s) : exec (.tblNansub a) s = execTblNansub a s := rfl
theorem exec_tblEnc (d a s) : exec (.tblEnc d a) s = execTblEnc d a s := rfl
theorem exec_tblDec (d a s) : exec (.tblDec d a) s = execTblDec d a s := rfl
theorem exec_vopAdd (v a b l s) : exec (.vopAdd v a b l) s = execVopAdd v a b l s := rfl
theorem exec_vopSub (v a b l s) : exec (.vopSub v a b l) s = execVopSub v a b l s := rfl
theorem exec_vopMul (v a b l s) : exec (.vopMul v a b l) s = execVopMul v a b l s := rfl
theorem exec_vopMin (v a b l s) : exec (.vopMin v a b l) s = execVopMin v a b l s := rfl
theorem exec_vopMax (v a b l s) : exec (.vopMax v a b l) s = execVopMax v a b l s := rfl
theorem exec_vopMinu (v a b l s) : exec (.vopMinu v a b l) s = execVopMinu v a b l s := rfl
theorem exec_vopMaxu (v a b l s) : exec (.vopMaxu v a b l) s = execVopMaxu v a b l s := rfl
theorem exec_vopAnd (v a b l s) : exec (.vopAnd v a b l) s = execVopAnd v a b l s := rfl
theorem exec_vopOr (v a b l s) : exec (.vopOr v a b l) s = execVopOr v a b l s := rfl
theorem exec_vopXor (v a b l s) : exec (.vopXor v a b l) s = execVopXor v a b l s := rfl
theorem exec_vopSll (v a b l s) : exec (.vopSll v a b l) s = execVopSll v a b l s := rfl
theorem exec_vopSrl (v a b l s) : exec (.vopSrl v a b l) s = execVopSrl v a b l s := rfl
theorem exec_vopSra (v a b l s) : exec (.vopSra v a b l) s = execVopSra v a b l s := rfl
theorem exec_vopAdds (v a b l s) : exec (.vopAdds v a b l) s = execVopAdds v a b l s := rfl
theorem exec_vopSubs (v a b l s) : exec (.vopSubs v a b l) s = execVopSubs v a b l s := rfl
theorem exec_vopCeq (v a b l s) : exec (.vopCeq v a b l) s = execVopCeq v a b l s := rfl
theorem exec_vopClt (v a b l s) : exec (.vopClt v a b l) s = execVopClt v a b l s := rfl
theorem exec_vopCltu (v a b l s) : exec (.vopCltu v a b l) s = execVopCltu v a b l s := rfl
theorem exec_vopSel (v a b l s) : exec (.vopSel v a b l) s = execVopSel v a b l s := rfl
theorem exec_vopShuf (v a b l s) : exec (.vopShuf v a b l) s = execVopShuf v a b l s := rfl
theorem exec_vopFadd (v a b l s) : exec (.vopFadd v a b l) s = execVopFadd v a b l s := rfl
theorem exec_vopFsub (v a b l s) : exec (.vopFsub v a b l) s = execVopFsub v a b l s := rfl
theorem exec_vopFmul (v a b l s) : exec (.vopFmul v a b l) s = execVopFmul v a b l s := rfl
theorem exec_vopFfma (v a b l s) : exec (.vopFfma v a b l) s = execVopFfma v a b l s := rfl
theorem exec_vopFmin (v a b l s) : exec (.vopFmin v a b l) s = execVopFmin v a b l s := rfl
theorem exec_vopFmax (v a b l s) : exec (.vopFmax v a b l) s = execVopFmax v a b l s := rfl
theorem exec_vopFceq (v a b l s) : exec (.vopFceq v a b l) s = execVopFceq v a b l s := rfl
theorem exec_vopFclt (v a b l s) : exec (.vopFclt v a b l) s = execVopFclt v a b l s := rfl
theorem exec_vopFcle (v a b l s) : exec (.vopFcle v a b l) s = execVopFcle v a b l s := rfl
theorem exec_vopFcvt (v a l s) : exec (.vopFcvt v a l) s = execVopFcvt v a l s := rfl
theorem exec_vopWlo (v a s) : exec (.vopWlo v a) s = execVopWlo v a s := rfl
theorem exec_vopWhi (v a s) : exec (.vopWhi v a) s = execVopWhi v a s := rfl
theorem exec_vopNar (v a b s) : exec (.vopNar v a b) s = execVopNar v a b s := rfl
theorem exec_vopEnc (v a l s) : exec (.vopEnc v a l) s = execVopEnc v a l s := rfl
theorem exec_vopDec (v a l s) : exec (.vopDec v a l) s = execVopDec v a l s := rfl
theorem exec_vscBcast (v sel l s) : exec (.vscBcast v sel l) s = execVscBcast v sel l s := rfl
theorem exec_vscAdd (v a sel l s) : exec (.vscAdd v a sel l) s = execVscAdd v a sel l s := rfl
theorem exec_vscSub (v a sel l s) : exec (.vscSub v a sel l) s = execVscSub v a sel l s := rfl
theorem exec_vscMul (v a sel l s) : exec (.vscMul v a sel l) s = execVscMul v a sel l s := rfl
theorem exec_vscFadd (v a sel l s) : exec (.vscFadd v a sel l) s = execVscFadd v a sel l s := rfl
theorem exec_vscFmul (v a sel l s) : exec (.vscFmul v a sel l) s = execVscFmul v a sel l s := rfl
theorem exec_vscFfma (v a sel l s) : exec (.vscFfma v a sel l) s = execVscFfma v a sel l s := rfl
theorem exec_vscRedadd (a sel l s) : exec (.vscRedadd a sel l) s = execVscRedadd a sel l s := rfl
theorem exec_vscRedmin (a sel l s) : exec (.vscRedmin a sel l) s = execVscRedmin a sel l s := rfl
theorem exec_vscRedmax (a sel l s) : exec (.vscRedmax a sel l) s = execVscRedmax a sel l s := rfl
theorem exec_vscRedminu (a sel l s) : exec (.vscRedminu a sel l) s = execVscRedminu a sel l s := rfl
theorem exec_vscRedmaxu (a sel l s) : exec (.vscRedmaxu a sel l) s = execVscRedmaxu a sel l s := rfl
theorem exec_vscFredadd (a sel l s) : exec (.vscFredadd a sel l) s = execVscFredadd a sel l s := rfl
theorem exec_vscFredmin (a sel l s) : exec (.vscFredmin a sel l) s = execVscFredmin a sel l s := rfl
theorem exec_vscFredmax (a sel l s) : exec (.vscFredmax a sel l) s = execVscFredmax a sel l s := rfl
theorem exec_vscMask (a sel l s) : exec (.vscMask a sel l) s = execVscMask a sel l s := rfl
theorem exec_vmemLd (v a g n imm s) : exec (.vmemLd v a g n imm) s = execVmemLd v a g n imm s := rfl
theorem exec_vmemSt (v a g n imm s) : exec (.vmemSt v a g n imm) s = execVmemSt v a g n imm s := rfl
theorem exec_engClaim (e c s) : exec (.engClaim e c) s = execEngClaim e c s := rfl
theorem exec_engRelease (e c s) : exec (.engRelease e c) s = execEngRelease e c s := rfl
theorem exec_engClear (e c s) : exec (.engClear e c) s = execEngClear e c s := rfl
theorem exec_copyXfer (c a b s) : exec (.copyXfer c a b) s = execCopyXfer c a b s := rfl
theorem exec_copyDist (c a b s) : exec (.copyDist c a b) s = execCopyDist c a b s := rfl
theorem exec_copyBopen (c a s) : exec (.copyBopen c a) s = execCopyBopen c a s := rfl
theorem exec_copyBclose (c s) : exec (.copyBclose c) s = execCopyBclose c s := rfl
theorem exec_copyCsr (c a b s) : exec (.copyCsr c a b) s = execCopyCsr c a b s := rfl
theorem exec_streamBind (c a b s) : exec (.streamBind c a b) s = execStreamBind c a b s := rfl
theorem exec_streamUnbind (c s) : exec (.streamUnbind c) s = execStreamUnbind c s := rfl
theorem exec_streamPort (c a b s) : exec (.streamPort c a b) s = execStreamPort c a b s := rfl
theorem exec_buoySet (a b s) : exec (.buoySet a b) s = execBuoySet a b s := rfl
theorem exec_mtxMma (c a b s) : exec (.mtxMma c a b) s = execMtxMma c a b s := rfl
theorem exec_mtxMmas (c a b s) : exec (.mtxMmas c a b) s = execMtxMmas c a b s := rfl
theorem exec_mtxAclr (c s) : exec (.mtxAclr c) s = execMtxAclr c s := rfl
theorem exec_mtxAcopyIn (c a b s) : exec (.mtxAcopyIn c a b) s = execMtxAcopyIn c a b s := rfl
theorem exec_mtxAcopyOut (c a b s) : exec (.mtxAcopyOut c a b) s = execMtxAcopyOut c a b s := rfl
theorem exec_mtxTset (c a b s) : exec (.mtxTset c a b) s = execMtxTset c a b s := rfl
theorem exec_mtxTseal (c s) : exec (.mtxTseal c) s = execMtxTseal c s := rfl
theorem exec_gsGather (c a b s) : exec (.gsGather c a b) s = execGsGather c a b s := rfl
theorem exec_gsScatter (c a b s) : exec (.gsScatter c a b) s = execGsScatter c a b s := rfl
theorem exec_bmacOpen (s) : exec .bmacOpen s = execBmacOpen s := rfl
theorem exec_bmacBcast (a b s) : exec (.bmacBcast a b) s = execBmacBcast a b s := rfl
theorem exec_bmacMac (a b s) : exec (.bmacMac a b) s = execBmacMac a b s := rfl
theorem exec_bmacRd (a b s) : exec (.bmacRd a b) s = execBmacRd a b s := rfl
theorem exec_bmacAclr (b s) : exec (.bmacAclr b) s = execBmacAclr b s := rfl
theorem exec_bmacClose (s) : exec .bmacClose s = execBmacClose s := rfl
theorem exec_pmigMove (c a b s) : exec (.pmigMove c a b) s = execPmigMove c a b s := rfl
theorem exec_pmigCommit (c s) : exec (.pmigCommit c) s = execPmigCommit c s := rfl
theorem exec_ewr (e c r a s) : exec (.ewr e c r a) s = execEwr e c r a s := rfl
theorem exec_erd (e c r a s) : exec (.erd e c r a) s = execErd e c r a s := rfl
theorem exec_xpCtrm (x a s) : exec (.xpCtrm x a) s = execXpCtrm x a s := rfl
theorem exec_xpCtrl (x a s) : exec (.xpCtrl x a) s = execXpCtrl x a s := rfl
theorem exec_xpClr (x s) : exec (.xpClr x) s = execXpClr x s := rfl
theorem exec_xpLd (x a s) : exec (.xpLd x a) s = execXpLd x a s := rfl
theorem exec_xpSt (y a s) : exec (.xpSt y a) s = execXpSt y a s := rfl
theorem exec_xpAdd (x y s) : exec (.xpAdd x y) s = execXpAdd x y s := rfl
theorem exec_xpForm (x a b s) : exec (.xpForm x a b) s = execXpForm x a b s := rfl
theorem exec_xpM2m (x y s) : exec (.xpM2m x y) s = execXpM2m x y s := rfl
theorem exec_xpM2l (x y s) : exec (.xpM2l x y) s = execXpM2l x y s := rfl
theorem exec_xpL2l (x y s) : exec (.xpL2l x y) s = execXpL2l x y s := rfl
theorem exec_xpEval (y a b s) : exec (.xpEval y a b) s = execXpEval y a b s := rfl
theorem exec_xpGrad (y a b s) : exec (.xpGrad y a b) s = execXpGrad y a b s := rfl
theorem exec_xpNear (a b s) : exec (.xpNear a b) s = execXpNear a b s := rfl
theorem exec_xpAdm (x y b s) : exec (.xpAdm x y b) s = execXpAdm x y b s := rfl
theorem exec_dividerResult (s) : exec .dividerResult s = execDividerResult s := rfl
theorem exec_feDeadline (s) : exec .feDeadline s = execFeDeadline s := rfl
theorem exec_feCancel (s) : exec .feCancel s = execFeCancel s := rfl
theorem exec_delegationServe (s) : exec .delegationServe s = execDelegationServe s := rfl
theorem exec_delegationRoutineEnd (s) : exec .delegationRoutineEnd s = execDelegationRoutineEnd s := rfl
theorem exec_retire (s) : exec .retire s = execRetire s := rfl
theorem exec_nearDispatch (s) : exec .nearDispatch s = execNearDispatch s := rfl
theorem exec_gateToken (s) : exec .gateToken s = execGateToken s := rfl
theorem exec_depthAlert (s) : exec .depthAlert s = execDepthAlert s := rfl
theorem exec_stealReply (s) : exec .stealReply s = execStealReply s := rfl
theorem exec_nwinExpiry (s) : exec .nwinExpiry s = execNwinExpiry s := rfl
theorem exec_awaitedEvent (s) : exec .awaitedEvent s = execAwaitedEvent s := rfl
theorem exec_waitTimeout (s) : exec .waitTimeout s = execWaitTimeout s := rfl
theorem exec_waitlimitExpiry (s) : exec .waitlimitExpiry s = execWaitlimitExpiry s := rfl
theorem exec_rebalance (s) : exec .rebalance s = execRebalance s := rfl
theorem exec_coreSharedCommit (s) : exec .coreSharedCommit s = execCoreSharedCommit s := rfl
theorem exec_tableCommit (s) : exec .tableCommit s = execTableCommit s := rfl
theorem exec_sealComplete (s) : exec .sealComplete s = execSealComplete s := rfl
theorem exec_buoyCount (s) : exec .buoyCount s = execBuoyCount s := rfl
theorem exec_matrixRequestReply (s) : exec .matrixRequestReply s = execMatrixRequestReply s := rfl
theorem exec_matrixSuspend (s) : exec .matrixSuspend s = execMatrixSuspend s := rfl
theorem exec_matrixResume (s) : exec .matrixResume s = execMatrixResume s := rfl
theorem exec_matrixUnitFailed (s) : exec .matrixUnitFailed s = execMatrixUnitFailed s := rfl
theorem exec_engineCommandStart (s) : exec .engineCommandStart s = execEngineCommandStart s := rfl
theorem exec_engineCommandComplete (s) : exec .engineCommandComplete s = execEngineCommandComplete s := rfl
theorem exec_engineFault (s) : exec .engineFault s = execEngineFault s := rfl
theorem exec_pageRequest (s) : exec .pageRequest s = execPageRequest s := rfl
theorem exec_xpRequestComplete (s) : exec .xpRequestComplete s = execXpRequestComplete s := rfl
theorem exec_memoryReply (s) : exec .memoryReply s = execMemoryReply s := rfl
theorem exec_rlxLoadReply (s) : exec .rlxLoadReply s = execRlxLoadReply s := rfl
theorem exec_homeRequest (s) : exec .homeRequest s = execHomeRequest s := rfl
theorem exec_postedAck (s) : exec .postedAck s = execPostedAck s := rfl
theorem exec_postedRefusal (s) : exec .postedRefusal s = execPostedRefusal s := rfl
theorem exec_egressAcceptance (s) : exec .egressAcceptance s = execEgressAcceptance s := rfl
theorem exec_drainComplete (s) : exec .drainComplete s = execDrainComplete s := rfl
theorem exec_asyncCauseTaken (s) : exec .asyncCauseTaken s = execAsyncCauseTaken s := rfl
theorem exec_trap (s) : exec .trap s = execTrap s := rfl
theorem exec_trapRecordResend (s) : exec .trapRecordResend s = execTrapRecordResend s := rfl
theorem exec_handlerFill (s) : exec .handlerFill s = execHandlerFill s := rfl
theorem exec_slotWindowAccess (s) : exec .slotWindowAccess s = execSlotWindowAccess s := rfl
theorem exec_returnTrap (s) : exec .returnTrap s = execReturnTrap s := rfl
theorem exec_contextMessageArrival (s) : exec .contextMessageArrival s = execContextMessageArrival s := rfl
theorem exec_migrationResend (s) : exec .migrationResend s = execMigrationResend s := rfl
theorem exec_bufferedContextFill (s) : exec .bufferedContextFill s = execBufferedContextFill s := rfl
theorem exec_inboundSpill (s) : exec .inboundSpill s = execInboundSpill s := rfl
theorem exec_spillRestore (s) : exec .spillRestore s = execSpillRestore s := rfl
theorem exec_replyForward (s) : exec .replyForward s = execReplyForward s := rfl
theorem exec_pairMessageMatch (s) : exec .pairMessageMatch s = execPairMessageMatch s := rfl
theorem exec_pairSilence (s) : exec .pairSilence s = execPairSilence s := rfl
theorem exec_translationRefill (s) : exec .translationRefill s = execTranslationRefill s := rfl
theorem exec_containment (s) : exec .containment s = execContainment s := rfl
theorem exec_contWrite (s) : exec .contWrite s = execContWrite s := rfl
theorem exec_ldoorWrite (s) : exec .ldoorWrite s = execLdoorWrite s := rfl
theorem exec_launch (s) : exec .launch s = execLaunch s := rfl
theorem exec_launchFillTimeout (s) : exec .launchFillTimeout s = execLaunchFillTimeout s := rfl
theorem exec_hfenceRead (s) : exec .hfenceRead s = execHfenceRead s := rfl
theorem exec_hostMemRead (s) : exec .hostMemRead s = execHostMemRead s := rfl
theorem exec_hostMemWrite (s) : exec .hostMemWrite s = execHostMemWrite s := rfl
theorem exec_hostAcceptance (s) : exec .hostAcceptance s = execHostAcceptance s := rfl
theorem exec_bctlWrite (s) : exec .bctlWrite s = execBctlWrite s := rfl
theorem exec_asymWrite (s) : exec .asymWrite s = execAsymWrite s := rfl
theorem exec_beaconLock (s) : exec .beaconLock s = execBeaconLock s := rfl
theorem exec_beaconMasterLoss (s) : exec .beaconMasterLoss s = execBeaconMasterLoss s := rfl
theorem exec_holdoverExpiry (s) : exec .holdoverExpiry s = execHoldoverExpiry s := rfl
theorem exec_beaconDiscipline (s) : exec .beaconDiscipline s = execBeaconDiscipline s := rfl
theorem exec_heartbeat (s) : exec .heartbeat s = execHeartbeat s := rfl
theorem exec_heartbeatMiss (s) : exec .heartbeatMiss s = execHeartbeatMiss s := rfl
theorem exec_linkUp (s) : exec .linkUp s = execLinkUp s := rfl
theorem exec_fabctlWrite (s) : exec .fabctlWrite s = execFabctlWrite s := rfl
theorem exec_pwrctlWrite (s) : exec .pwrctlWrite s = execPwrctlWrite s := rfl
theorem exec_powerSample (s) : exec .powerSample s = execPowerSample s := rfl
theorem exec_telemetryRecord (s) : exec .telemetryRecord s = execTelemetryRecord s := rfl
theorem exec_energyUpdate (s) : exec .energyUpdate s = execEnergyUpdate s := rfl
theorem exec_registerWrite (s) : exec .registerWrite s = execRegisterWrite s := rfl
theorem exec_adoorWrite (s) : exec .adoorWrite s = execAdoorWrite s := rfl
theorem exec_attestationComplete (s) : exec .attestationComplete s = execAttestationComplete s := rfl
theorem exec_rstctlWrite (s) : exec .rstctlWrite s = execRstctlWrite s := rfl
theorem exec_powerOn (s) : exec .powerOn s = execPowerOn s := rfl
theorem exec_bootVerify (s) : exec .bootVerify s = execBootVerify s := rfl
theorem exec_ieee1588Message (s) : exec .ieee1588Message s = execIeee1588Message s := rfl
theorem exec_trapRecordDelivery (s) : exec .trapRecordDelivery s = execTrapRecordDelivery s := rfl

/-! ### Words -/

/-- A word that reaches its own effect is decided by it. -/
theorem runWord_ready {i : Instr} {s : State} (body : State → Nat → Res) (h : Ready i s) :
    runWord i s body = .next (applyRes s s.focus i (body s s.focus)) := by
  obtain ⟨a, b⟩ := h
  simp only [Option.isNone_iff_eq_none] at a b
  simp [runWord, a, b]

/-- A word always answers a next state. -/
theorem runWord_next (i : Instr) (s : State) (body : State → Nat → Res) : ∃ t, runWord i s body = .next t := ⟨_, rfl⟩

end Sys2Proof.Machine
end

