-- ==== Sys2Proof/Laws/Frame.lean ====
section
/-!
SUPPORT. What the shared operations can do, said once: what completion changes, an access that its home performs at once,
and results that are functions of the sources.
-/

namespace Sys2Proof.Machine

/-! ### Completion -/

/-- What the consumption of sources can change: streams, a mailbox of the unit, and events added to the agenda. -/
structure SourcesGone (t : Nat) (s s' : State) : Prop where
  frame : ∃ st un l, s' = { s with streams := st, units := un, agenda := s.agenda ++ l }
  other : ∀ u, u ≠ unitOfThread t → s'.core u = s.core u
  same : ∃ mb, s'.core (unitOfThread t) = { s.core (unitOfThread t) with mbox := mb }

theorem SourcesGone.refl (t : Nat) (s : State) : SourcesGone t s s :=
  ⟨⟨s.streams, s.units, [], by simp⟩, fun _ _ => rfl, ⟨_, rfl⟩⟩

theorem SourcesGone.trans {t : Nat} {s s' s'' : State} (a : SourcesGone t s s') (b : SourcesGone t s' s'') :
    SourcesGone t s s'' := by
  obtain ⟨⟨st, un, l, rfl⟩, o, ⟨mb, m⟩⟩ := a
  obtain ⟨⟨st', un', l', rfl⟩, o', ⟨mb', m'⟩⟩ := b
  exact ⟨⟨st', un', l ++ l', by simp⟩, fun u h => (o' u h).trans (o u h), ⟨mb', by rw [m', m]⟩⟩

theorem popStream_gone (s : State) (t : Nat) (i : Instr) (k : Nat) : SourcesGone t s (s.popStream t i k) := by
  simp only [State.popStream]
  split
  · exact .refl t s
  · exact ⟨⟨_, _, _, rfl⟩, fun _ _ => rfl, ⟨_, rfl⟩⟩

theorem empty_gone (s : State) (t k : Nat) :
    SourcesGone t s (s.updCore (unitOfThread t) (fun c => { c with mbox := AMap.set c.mbox k none })) := by
  refine ⟨⟨s.streams, _, [], by simp [State.updCore, State.setCore]; rfl⟩, fun u h => ?_,
    ⟨AMap.set (s.core (unitOfThread t)).mbox k none, ?_⟩⟩
  · simp [State.updCore, State.setCore, State.core, AMap.get_set_ne _ _ _ h]
  · simp [State.updCore, State.setCore, State.core]

theorem foldl_gone {α : Type} {t : Nat} {f : State → α → State} (h : ∀ s a, SourcesGone t s (f s a)) (l : List α) (s : State) :
    SourcesGone t s (l.foldl f s) := by
  induction l generalizing s with
  | nil => exact .refl t s
  | cons a l ih => exact (h s a).trans (ih _)

theorem consume_gone (s : State) (t : Nat) (i : Instr) : SourcesGone t s (s.consume t i) := by
  simp only [State.consume]
  split
  · exact .refl t s
  · refine (foldl_gone (fun s k => popStream_gone s t i k) _ s).trans (foldl_gone (fun s r => ?_) _ _)
    split
    · exact empty_gone s t _
    · exact .refl t s

/-- What is left of a thread that has completed. -/
def Thread.completed (th : Thread) (i : Instr) (pc : Word) : Thread :=
  { th with status := .run, park := none, pc := pc, retried := false,
            st := if isPrefix i then th.st else th.st.noPfx }

/-- Completion before a twin is looked at. -/
theorem completed_before (s : State) (t : Nat) (i : Instr) (pc : Word) :
    ∃ s1 l, SourcesGone t s s1 ∧
      let q := { s1.setTh t ((s.th t).completed i pc) with agenda := s1.agenda ++ l }
      s.finishAt t i pc = match (s.th t).twin with
        | some (o, false) =>
          let q' := if (s.th t).matched then q.mirror t o i else q
          if (s.th t).freezing then q'.pairDiff t else q'
        | _ => q := by
  obtain ⟨⟨st, un, ag, e⟩, -, -⟩ := consume_gone s t i
  have et : (s.consume t i).th t = s.th t := by rw [e]; rfl
  have hu : ((s.consume t i).updTh t (fun th => { th with
      status := .run, park := none, pc := pc, retried := false, st := if isPrefix i then th.st else th.st.noPfx })) =
      (s.consume t i).setTh t ((s.th t).completed i pc) := by
    simp only [State.updTh, et, Thread.completed]
  unfold State.finishAt State.settled
  simp only [hu, State.setTh_th_same, show ((s.th t).completed i pc).pc = pc from rfl]
  by_cases h : (decide (pc = 0) && isSkerry (unitOfThread t) && decide (slotOfThread t = 31)) = true
  · refine ⟨s.consume t i, [(.delegationRoutineEnd, [unitOfThread t])], consume_gone s t i, ?_⟩
    rw [if_pos h]; rfl
  · refine ⟨s.consume t i, [], consume_gone s t i, ?_⟩
    rw [if_neg h]; simp only [List.append_nil]; rfl

/-- Completion of a thread without a twin: the thread as above, its sources gone, perhaps the end of a delegation
routine on the agenda, and nothing else. -/
theorem finishAt_frame (s : State) (t : Nat) (i : Instr) (pc : Word) (h : (s.th t).twin = none) :
    ∃ s1 l, SourcesGone t s s1 ∧
      s.finishAt t i pc = { s1.setTh t ((s.th t).completed i pc) with agenda := s1.agenda ++ l } := by
  obtain ⟨s1, l, g, e⟩ := completed_before s t i pc
  refine ⟨s1, l, g, ?_⟩
  rw [e]; simp only [h]

/-- What completion leaves alone, twins or not, but for a twin that was waited for to be FROZEN. -/
theorem finishAt_keeps (s : State) (t : Nat) (i : Instr) (pc : Word) (hf : (s.th t).freezing = false) :
    ∃ th un st l pr, s.finishAt t i pc =
      { s with threads := th, units := un, streams := st, agenda := s.agenda ++ l, pairs := pr } := by
  obtain ⟨s1, l, ⟨⟨st, un, ag, rfl⟩, -, -⟩, e⟩ := completed_before s t i pc
  rw [e]
  generalize hq : State.mk _ _ _ _ _ _ _ _ _ _ _ _ _ _ _ _ _ _ _ _ _ _ _ _ _ _ _ = q
  have k : ∃ th un st l pr, q =
      { s with threads := th, units := un, streams := st, agenda := s.agenda ++ l, pairs := pr } := by
    subst hq; exact ⟨_, _, _, ag ++ l, _, by rw [← List.append_assoc]; rfl⟩
  have m : ∀ o, ∃ th un st l pr, q.mirror t o i =
      { s with threads := th, units := un, streams := st, agenda := s.agenda ++ l, pairs := pr } := by
    intro o
    obtain ⟨th, un, st, l, pr, rfl⟩ := k
    obtain ⟨⟨st', un', l', e⟩, -, -⟩ := consume_gone
      ({ s with threads := th, units := un, streams := st, agenda := s.agenda ++ l, pairs := pr } : State) o i
    unfold State.mirror
    split
    · unfold State.twinReply
      simp only [e]
      split <;> exact ⟨_, _, _, l ++ l', _, by rw [← List.append_assoc]; rfl⟩
    · exact ⟨_, _, _, l, _, rfl⟩
  split
  · dsimp only
    rw [if_neg (by simp [hf])]
    split
    · exact m _
    · exact k
  · exact k

/-- The fields that completion leaves alone. -/
theorem finishAt_fields (s : State) (t : Nat) (i : Instr) (pc : Word) (hf : (s.th t).freezing = false) :
    let q := s.finishAt t i pc
    q.mem = s.mem ∧ q.empties = s.empties ∧ q.poison = s.poison ∧ q.reqs = s.reqs ∧ q.msgs = s.msgs ∧ q.queues = s.queues ∧
    q.homes = s.homes ∧ q.tlbs = s.tlbs ∧ q.pkg = s.pkg ∧ q.clusters = s.clusters ∧ q.ctxs = s.ctxs ∧ q.steals = s.steals ∧
    q.timers = s.timers ∧ q.plan = s.plan ∧ q.ev = s.ev ∧ q.focus = s.focus ∧ q.resume = s.resume ∧ q.split = s.split ∧
    q.now = s.now ∧ q.skew = s.skew ∧ q.fresh = s.fresh ∧ q.free = s.free ∧ ∃ l, q.agenda = s.agenda ++ l := by
  obtain ⟨th, un, st, l, pr, e⟩ := finishAt_keeps s t i pc hf
  simp only [e, true_and]
  exact ⟨l, rfl⟩

/-- The thread that completes, if it has no twin. -/
theorem finishAt_th (s : State) (t : Nat) (i : Instr) (pc : Word) (h : (s.th t).twin = none) :
    (s.finishAt t i pc).th t = (s.th t).completed i pc := by
  obtain ⟨s1, l, -, e⟩ := finishAt_frame s t i pc h
  rw [e]; simp [State.th, State.setTh]

/-- The other threads, if it has no twin. -/
theorem finishAt_th_ne (s : State) (t : Nat) (i : Instr) (pc : Word) (h : (s.th t).twin = none) {k : Nat} (hk : k ≠ t) :
    (s.finishAt t i pc).th k = s.th k := by
  obtain ⟨s1, l, ⟨⟨_, _, _, rfl⟩, -, -⟩, e⟩ := finishAt_frame s t i pc h
  rw [e]; simp [State.th, State.setTh, AMap.get_set_ne _ _ _ hk]

/-- Units but for a mailbox of the thread's own, if it has no twin. -/
theorem finishAt_core (s : State) (t : Nat) (i : Instr) (pc : Word) (h : (s.th t).twin = none) (u : Nat) :
    ∃ mb, (s.finishAt t i pc).core u = { s.core u with mbox := mb } ∧
      (u ≠ unitOfThread t → (s.finishAt t i pc).core u = s.core u) := by
  obtain ⟨s1, l, g, e⟩ := finishAt_frame s t i pc h
  have c : (s.finishAt t i pc).core u = s1.core u := by rw [e]; rfl
  rw [c]
  by_cases hu : u = unitOfThread t
  · subst hu
    obtain ⟨mb, m⟩ := g.same
    exact ⟨mb, m, fun h => absurd rfl h⟩
  · rw [g.other u hu]
    exact ⟨_, rfl, fun _ => rfl⟩

/-! ### Results that are functions of the sources -/

theorem writes_ready {i : Instr} {d : BitVec 7} {f : State → Nat → Word} {s : State} (h : Ready i s) :
    writes i d f s = .next ((s.writeDest s.focus d (f s s.focus)).finish s.focus i) := by
  rw [writes, runWord_ready _ h]; rfl

theorem Result2.of {mk : BitVec 7 → BitVec 7 → BitVec 7 → Instr} {f g : Word → Word → Word}
    (hx : ∀ s d a b, exec (mk d a b) s = writes2 (mk d a b) d f s) (hf : ∀ x y, f x y = g x y) : Result2 mk g := by
  intro s d a b h
  rw [Completes, hx, writes2, writes_ready h, hf]; rfl

theorem Result1.of {mk : BitVec 7 → BitVec 7 → Instr} {f : Word → Word} {P : Word → Word → Prop}
    (hx : ∀ s d a, exec (mk d a) s = writes1 (mk d a) d f s) (hf : ∀ x, P x (f x)) : Result1 mk P := by
  intro s d a h
  exact ⟨_, hf _, by rw [Completes, hx, writes1, writes_ready h]; rfl⟩

theorem ResultImm.of {n : Nat} {mk : BitVec 7 → BitVec 7 → BitVec n → Instr} {f g : Word → BitVec n → Word}
    (hx : ∀ s d a k, exec (mk d a k) s = writes1 (mk d a k) d (fun x => f x k) s) (hf : ∀ x k, f x k = g x k) :
    ResultImm mk g := by
  intro s d a k h
  rw [Completes, hx, writes1, writes_ready h, hf]; rfl

/-! ### Accesses -/

/-- An access that nothing holds up is not held up in part. -/
theorem not_partlyHeld {s : State} {t : Nat} {ls : List Nat} (h : s.heldUp t ls = none) : s.partlyHeld t ls = false := by
  unfold State.heldUp at h
  split at h
  · simp at h
  · next e =>
    rw [List.findSome?_eq_none_iff] at e
    unfold State.partlyHeld
    rw [show ls.any (fun l => (s.shutFor (s.arrivalOf t l) l none).isSome) = false by
      rw [List.any_eq_false]; intro x hx; simp [e x hx]]
    simp

/-- An access that its homes perform at once comes to what their answers say. -/
theorem access_served {s : State} {op : MemOp} {ls : List Nat} (h : Served s op ls) (i : Instr) (va : Word)
    (w : Option Nat := none) :
    access s s.focus i va op ls w =
      (match finishOp (s.performParts op 0 ls).1 s.focus va op (s.performParts op 0 ls).2 with
        | .trap c info addr data => .trap c info addr data
        | r => r) := by
  obtain ⟨a, b, c, d⟩ := h
  unfold access
  rw [not_partlyHeld a, a]
  simp only [c, d, b]
  rfl

theorem gMove_stays {s : State} {g : BitVec 1} {l : Nat} (h : Stays s g l) : gMove s s.focus g l = none := by
  unfold gMove
  rcases h with h | h
  · simp [h]
  · rw [if_pos]; simp [h.2, here]

theorem notServer {s : State} {g : BitVec 1} {l : Nat} (h : Stays s g l) : (g = 1 && inServer s.focus) = false := by
  rcases h with h | h
  · subst h; rfl
  · rw [h.1, Bool.and_false]

/-- The words of a vector load read at sound words that can be reached. -/
theorem performParts_vload (s : State) (v : BitVec 5) (n k : Nat) (ls : List Nat)
    (h : ∀ l ∈ ls, Sound s l ∧ s.outOfReach l = false) :
    s.performParts (.vload v n) k ls = (s, ls.map (fun l => { val := s.read64 l })) := by
  induction ls generalizing k with
  | nil => rfl
  | cons l ls ih =>
    have ⟨⟨a, b, c⟩, d⟩ := h l (by simp)
    simp [State.performParts, State.performPart, State.performRaw, a, b, c, d, ih _ (fun l hl => h l (by simp [hl]))]

/-- The words of a vector store written one after another. -/
theorem performParts_vstore (s : State) (ws : List Word) (k : Nat) (ls : List Nat) (hl : ls.length + k = ws.length)
    (h : ∀ l ∈ ls, s.hostAborts l = false ∧ s.outOfReach l = false) :
    s.performParts (.vstore ws) k ls =
      ((ls.zip (ws.drop k)).foldl (fun s p => s.putWord p.1 p.2) s, ls.map (fun _ => {})) := by
  induction ls generalizing k s with
  | nil => rfl
  | cons l ls ih =>
    have ⟨a, b⟩ := h l (by simp)
    have hk : k < ws.length := by simp at hl; omega
    rw [List.drop_eq_getElem_cons hk, List.zip_cons_cons, List.foldl_cons]
    have := ih (s.putWord l ws[k]) (k + 1) (by simp at hl; omega) (fun l hl => h l (by simp [hl]))
    simp [State.performParts, State.performPart, State.performRaw, a, b, List.getD_eq_getElem?_getD,
      List.getElem?_eq_getElem hk, this]

/-- No answer of a list is poisoned. -/
theorem takeWhile_sound {α : Type} (l : List α) (f : α → Reply) (h : ∀ x ∈ l, (f x).poison = false) :
    ((l.map f).takeWhile (fun a => !a.poison)).length = l.length := by
  induction l with
  | nil => rfl
  | cons a l ih => simp [h a (by simp), ih (fun x hx => h x (by simp [hx]))]

end Sys2Proof.Machine
end

