-- ==== Sys2Proof/Tests/Slice0.lean ====
section
/-!
SUPPORT. Tests: decoding by words written out from the spec's encodings, terms and words that are refused, states that
meet the hypotheses of each statement, and single steps with results worked out from the spec.
-/

open Sys2Proof Sys2Proof.Machine

namespace Sys2Proof.Tests

set_option Elab.async false

/-! ### Decoding -/

/-- Words of the spec's own examples (R131, R156, R157, R158, R308, R31). -/
theorem test_decode_examples : [
    0x6C48A160, 0x6C085003, 0x6C0050C4, 0x6048C140, 0x6048A161, 0x6048A162, 0x6048A004, 0x6000A165, 0x6000A166,
    0x6400A160, 0x6448A161, 0x6448A002, 0x68009F80, 0x6848AF84, 0x68480F88, 0x7000900C, 0x7000900D,
    0x1C292345].map decode = [
    some (.thrSpawn 9 10 11), some (.thrNwr 1 5), some (.thrStw 5 6), some (.tqPush 9 12 10), some (.tqTake 9 10 11),
    some (.tqSteal 9 10 11), some (.tqDepth 9 10), some (.tqCfg 10 11), some (.tqSub 10 11), some (.jcInit 10 11),
    some (.jcAdd 9 10 11), some (.jcDec 9 10), some (.waitJz 9 31), some (.waitMbox 9 10 31), some (.waitSleep 9 31),
    some (.sysTlbInv 9), some (.sysTlbAll 9), some (.lui 5 0x12345)] := by decide +kernel

/-- One illegal term, or one word with a bit of an unused field set, for each check (R17, R30, R32, R33, R39, R40, R135,
R159, R169, R215, R219, R265): none has an instruction of its own. -/
theorem test_ill_formed_terms_are_refused : [
    Instr.retire, .engClaim 3 0, .engClaim 1 0, .engClaim 7 2, .ewr 0 8 0 5, .ewr 2 1 0 5,
    .erd 0 0 6 5, .mtxMma 4 1 2, .pmigCommit 2, .csk 13 1 3 4, .csk 0 0 3 4, .cski 8 1 3 4, .cski 0 0 3 4, .cski 6 1 3 64,
    .br 7 3 1, .br 6 3 1, .ld 5 3 3 1 0 0, .thrNwr 4 3, .vmemLd 25 3 0 2 0, .vmemSt 27 3 0 1 0, .xpGrad 0 3 27, .ewr 0 0 13 5,
    .vopAdd 1 2 3 3, .vopFadd 1 2 3 1, .vscFmul 1 2 3 3, .sysSrd 5 17, .sysSwr 1 5, .aluAdd 124 3 4, .ld 127 3 3 0 0 0,
    .vscMask 1 125 0, .xpEval 0 3 126, .erd 0 0 8 124].all (fun i => !wellFormed i) = true := by decide +kernel

/-- A word of a legal instruction with a bit set that its description does not use (R30), an unused function or qualifier
(R32, R37, R48), and majors that are free (R45). -/
theorem test_ill_formed_words_are_refused : [
    0x06AA5DD8, 0x0400001A, 0x24100001, 0x28000001, 0x40000E00, 0x44000200, 0x48000600, 0x6800001C, 0x70001009,
    0x6C085023, 0, 0x3C000000, 0x7C000000, 0xFFFFFFFF].all (fun w => (decode w).isNone) = true := by decide +kernel

theorem test_decode_alu : [
    0x06AA5DC0, 0x044D54A1, 0x05A34AA2, 0x052EE683, 0x06AA5DC4, 0x044D54A5, 0x05A34AA6, 0x052EE687, 0x06AA5DC8,
    0x044D54A9, 0x05A34AAA, 0x052EE68B, 0x06AA5DCC, 0x044D54AD, 0x05A34AAE, 0x052EE68F, 0x06AA5DD0, 0x044D54B1,
    0x05A34AB2, 0x052EE693, 0x06AA5DD4, 0x044D54B5, 0x05A34AB6, 0x052EE017, 0x06AA5018, 0x044D5019].map decode = [
    some (.aluAdd 85 37 110), some (.aluSub 9 85 37), some (.aluMul 52 52 85), some (.aluMulh 37 110 52),
    some (.aluMulhu 85 37 110), some (.aluDiv 9 85 37), some (.aluDivu 52 52 85), some (.aluRem 37 110 52),
    some (.aluRemu 85 37 110), some (.aluAnd 9 85 37), some (.aluOr 52 52 85), some (.aluXor 37 110 52),
    some (.aluAndn 85 37 110), some (.aluSll 9 85 37), some (.aluSrl 52 52 85), some (.aluSra 37 110 52),
    some (.aluRol 85 37 110), some (.aluSlt 9 85 37), some (.aluSltu 52 52 85), some (.aluMin 37 110 52),
    some (.aluMax 85 37 110), some (.aluMinu 9 85 37), some (.aluMaxu 52 52 85), some (.aluClz 37 110),
    some (.aluCtz 85 37), some (.aluPopc 9 85)] := by decide +kernel

theorem test_decode_addi : [
    0x09A345B3, 0x0D2EE5B3, 0x12AA55B3, 0x144D55B3].map decode = [
    some (.addi 52 52 1459), some (.andi 37 110 1459), some (.ori 85 37 1459), some (.xori 9 85 1459)] := by decide +kernel

theorem test_decode_shi : [
    0x19A3402D, 0x192EE06D, 0x1AAA50AD, 0x184D50ED].map decode = [
    some (.shiSlli 52 52 45), some (.shiSrli 37 110 45), some (.shiSrai 85 37 45), some (.shiRoli 9 85 45)] := by decide +kernel

theorem test_decode_lui : [
    0x1DA1A5B3, 0x2129A5B3].map decode = [
    some (.lui 52 107955), some (.auipc 37 107955)] := by decide +kernel

theorem test_decode_csk : [
    0x2734BB80, 0x295AA5B3].map decode = [
    some (.csk 12 3 37 110), some (.cski 5 1 85 1459)] := by decide +kernel

theorem test_decode_br : [
    0x2D1A268F, 0x32C3A694, 0x36C3A699, 0x384D55B3].map decode = [
    some (.br 4 52 9871), some (.j 46376596), some (.jl 46376601), some (.jr 9 85 1459)] := by decide +kernel

theorem test_decode_ld : [
    0x41A34BB3, 0x45A6E9B3].map decode = [
    some (.ld 52 52 2 1 1 179), some (.st 52 110 2 1 179)] := by decide +kernel

theorem test_decode_fel : [
    0x4AAA511D, 0x484D5362, 0x49A345F7].map decode = [
    some (.felWfe 85 37 17 13), some (.felWfs 9 85 22 2), some (.felAny 52 52 7)] := by decide +kernel

theorem test_decode_fes : [
    0x4DA6E00C, 0x4F7253F1, 0x4D2D55F6].map decode = [
    some (.fesWes 52 110 0 12), some (.fesSetf 110 37 1), some (.fesSete 37 85 6)] := by decide +kernel

theorem test_decode_amo : [
    0x51A34AA0, 0x512EE681, 0x52AA5DC2, 0x504D54A3, 0x51A34AA4, 0x512EE685, 0x52AA5DC6, 0x504D54A7, 0x51A34AA8,
    0x512EE689, 0x52AA5DCA, 0x504D54AB, 0x51A34AAC].map decode = [
    some (.amoAdd 52 52 85), some (.amoAnd 37 110 52), some (.amoOr 85 37 110), some (.amoXor 9 85 37),
    some (.amoMin 52 52 85), some (.amoMax 37 110 52), some (.amoMinu 85 37 110), some (.amoMaxu 9 85 37),
    some (.amoSwap 52 52 85), some (.amoCas 37 110 52), some (.amoIncw 85 37 110), some (.amoFaddb 9 85 37),
    some (.amoFaddF32 52 52 85)] := by decide +kernel

theorem test_decode_rupd : [
    0x5406E680, 0x54025DC1, 0x540554A2, 0x54034AA3, 0x5406E684, 0x54025DC5, 0x540554A6, 0x54034AA7, 0x5406E688,
    0x54025DCA, 0x540554AC].map decode = [
    some (.rupdAdd 110 52), some (.rupdAnd 37 110), some (.rupdOr 85 37), some (.rupdXor 52 85),
    some (.rupdMin 110 52), some (.rupdMax 37 110), some (.rupdMinu 85 37), some (.rupdMaxu 52 85),
    some (.rupdSwap 110 52), some (.rupdIncw 37 110), some (.rupdFaddF32 85 37)] := by decide +kernel

theorem test_decode_mig : [
    0x59A5A3B0].map decode = [
    some (.mig 52 23099)] := by decide +kernel

theorem test_decode_dlg : [
    0x5D2EE680, 0x5C025DC1].map decode = [
    some (.dlgCall 37 110 52), some (.dlgPost 37 110)] := by decide +kernel

theorem test_decode_tq : [
    0x604D54A0, 0x61A34AA1, 0x612EE682, 0x60000003, 0x604D5004, 0x60034AA5, 0x6006E686].map decode = [
    some (.tqPush 9 85 37), some (.tqTake 52 52 85), some (.tqSteal 37 110 52), some .tqDone, some (.tqDepth 9 85),
    some (.tqCfg 52 85), some (.tqSub 110 52)] := by decide +kernel

theorem test_decode_jc : [
    0x64025DC0, 0x644D54A1, 0x65A34002].map decode = [
    some (.jcInit 37 110), some (.jcAdd 9 85 37), some (.jcDec 52 52)] := by decide +kernel

theorem test_decode_wait : [
    0x6806E400, 0x6AAA5684, 0x68480908, 0x69A34B8C, 0x692EEE10, 0x6AAA5094, 0x68000318].map decode = [
    some (.waitJz 110 8), some (.waitMbox 85 37 13), some (.waitSleep 9 18), some (.waitFe 52 52 23),
    some (.waitTl 37 110 28), some (.waitBuoy 85 37 1), some (.waitGate 6)] := by decide +kernel

theorem test_decode_thr : [
    0x6DA34AA0, 0x6C000001, 0x6C000002, 0x6C1D5003, 0x6C034AA4].map decode = [
    some (.thrSpawn 52 52 85), some .thrExit, some .thrYield, some (.thrNwr 3 85), some (.thrStw 52 85)] := by decide +kernel

theorem test_decode_sys : [
    0x71290000, 0x70725001, 0x70055002, 0x70000003, 0x70000004, 0x70000005, 0x70000006, 0x70000007, 0x712EE688,
    0x70000009, 0x7005500A, 0x71A34AAB, 0x7006E00C, 0x7002500D].map decode = [
    some (.sysSrd 37 16), some (.sysSwr 14 37), some (.sysTrap 85), some .sysBreak, some .sysIfence,
    some .sysFenceDev, some .sysFenceDom, some .sysFenceSys, some (.sysCapget 37 110 52), some .sysTres,
    some (.sysTkill 85), some (.sysPre 52 52 85), some (.sysTlbInv 110), some (.sysTlbAll 37)] := by decide +kernel

theorem test_decode_pfx : [
    0x741AD800, 0x74800000].map decode = [
    some (.pfxFmt 3 5 2 3), some .pfxRlx] := by decide +kernel

theorem test_decode_fp : [
    0x812EE680, 0x82AA5DC1, 0x804D54A2, 0x81A34AA3, 0x812EE004, 0x82AA5DC5, 0x804D54A6, 0x81A34AA7, 0x812EE008,
    0x82AA5009, 0x804D500A].map decode = [
    some (.fpAdd 37 110 52), some (.fpSub 85 37 110), some (.fpMul 9 85 37), some (.fpDiv 52 52 85),
    some (.fpSqrt 37 110), some (.fpFma 85 37 110), some (.fpMin 9 85 37), some (.fpMax 52 52 85),
    some (.fpCvt 37 110), some (.fpFtoi 85 37), some (.fpItof 9 85)] := by decide +kernel

theorem test_decode_tbl : [
    0x88034AA0, 0x892EE001, 0x88000002, 0x88055003, 0x89A34004, 0x892EE005].map decode = [
    some (.tblWr 52 85), some (.tblRd 37 110), some .tblSeal, some (.tblNansub 85), some (.tblEnc 52 52),
    some (.tblDec 37 110)] := by decide +kernel

theorem test_decode_vop : [
    0x90F37400, 0x91937401, 0x92337402, 0x92D37403, 0x93737404, 0x90137405, 0x90B37406, 0x91537407, 0x91F37408,
    0x92937409, 0x9333740A, 0x93D3740B, 0x9073740C, 0x9113740D, 0x91B3740E, 0x92537410, 0x92F37411, 0x93937412,
    0x90337414, 0x90D37415, 0x91737420, 0x92137421, 0x92B37422, 0x93537423, 0x93F37424, 0x90937425, 0x91337426,
    0x91D37427, 0x92737428, 0x93130429, 0x93B3002A, 0x9053002B, 0x90F3742C, 0x91930430, 0x92330431].map decode = [
    some (.vopAdd 7 19 14 2), some (.vopSub 12 19 14 2), some (.vopMul 17 19 14 2), some (.vopMin 22 19 14 2),
    some (.vopMax 27 19 14 2), some (.vopMinu 0 19 14 2), some (.vopMaxu 5 19 14 2), some (.vopAnd 10 19 14 2),
    some (.vopOr 15 19 14 2), some (.vopXor 20 19 14 2), some (.vopSll 25 19 14 2), some (.vopSrl 30 19 14 2),
    some (.vopSra 3 19 14 2), some (.vopAdds 8 19 14 2), some (.vopSubs 13 19 14 2), some (.vopCeq 18 19 14 2),
    some (.vopClt 23 19 14 2), some (.vopCltu 28 19 14 2), some (.vopSel 1 19 14 2), some (.vopShuf 6 19 14 2),
    some (.vopFadd 11 19 14 2), some (.vopFsub 16 19 14 2), some (.vopFmul 21 19 14 2), some (.vopFfma 26 19 14 2),
    some (.vopFmin 31 19 14 2), some (.vopFmax 4 19 14 2), some (.vopFceq 9 19 14 2), some (.vopFclt 14 19 14 2),
    some (.vopFcle 19 19 14 2), some (.vopFcvt 24 19 2), some (.vopWlo 29 19), some (.vopWhi 2 19),
    some (.vopNar 7 19 14), some (.vopEnc 12 19 2), some (.vopDec 17 19 2)] := by decide +kernel

theorem test_decode_vsc : [
    0x9AC00500, 0x9B730501, 0x98130502, 0x98B30503, 0x99530504, 0x99F30505, 0x9A930506, 0x98130510, 0x98130511,
    0x98130512, 0x98130513, 0x98130514, 0x98130515, 0x98130516, 0x98130517, 0x98130518].map decode = [
    some (.vscBcast 22 2 2), some (.vscAdd 27 19 2 2), some (.vscSub 0 19 2 2), some (.vscMul 5 19 2 2),
    some (.vscFadd 10 19 2 2), some (.vscFmul 15 19 2 2), some (.vscFfma 20 19 2 2), some (.vscRedadd 19 2 2),
    some (.vscRedmin 19 2 2), some (.vscRedmax 19 2 2), some (.vscRedminu 19 2 2), some (.vscRedmaxu 19 2 2),
    some (.vscFredadd 19 2 2), some (.vscFredmin 19 2 2), some (.vscFredmax 19 2 2), some (.vscMask 19 2 2)] := by decide +kernel

theorem test_decode_vmem : [
    0x96BB9DB3, 0x97A971B3].map decode = [
    some (.vmemLd 21 110 1 3 435), some (.vmemSt 29 37 1 0 435)] := by decide +kernel

theorem test_decode_eng : [
    0xC1C80000, 0xC1184000, 0xC1788000, 0xC008D2EE, 0xC0092AA5, 0xC0095A00, 0xC0098000, 0xC009D2EE, 0xC0482AA5,
    0xC0484000, 0xC048B734, 0xC08012EE, 0xC118EAA5, 0xC1191A55, 0xC1194000, 0xC11992EE, 0xC119EAA5, 0xC11A1A55,
    0xC11A4000, 0xC148D2EE, 0xC1492AA5, 0xC180C000, 0xC1813734, 0xC18152EE, 0xC181AAA5, 0xC181C055, 0xC1820000,
    0xC1C8D2EE, 0xC1C90000].map decode = [
    some (.engClaim 7 1), some (.engRelease 4 3), some (.engClear 5 7), some (.copyXfer 1 37 110),
    some (.copyDist 1 85 37), some (.copyBopen 1 52), some (.copyBclose 1), some (.copyCsr 1 37 110),
    some (.streamBind 1 85 37), some (.streamUnbind 1), some (.streamPort 1 110 52), some (.buoySet 37 110),
    some (.mtxMma 3 85 37), some (.mtxMmas 3 52 85), some (.mtxAclr 3), some (.mtxAcopyIn 3 37 110),
    some (.mtxAcopyOut 3 85 37), some (.mtxTset 3 52 85), some (.mtxTseal 3), some (.gsGather 1 37 110),
    some (.gsScatter 1 85 37), some .bmacOpen, some (.bmacBcast 110 52), some (.bmacMac 37 110),
    some (.bmacRd 85 37), some (.bmacAclr 85), some .bmacClose, some (.pmigMove 1 37 110), some (.pmigCommit 1)] := by decide +kernel

theorem test_decode_ewr : [
    0xC43ADA00, 0xC9727700].map decode = [
    some (.ewr 0 7 11 52), some (.erd 5 6 9 110)] := by decide +kernel

theorem test_decode_xp : [
    0xD184A000, 0xD18AA001, 0xD1800002, 0xD18DC003, 0xD034A004, 0xD1B00005, 0xD1869546, 0xD1B00007, 0xD1B00008,
    0xD1B00009, 0xD036954A, 0xD03DC68B, 0xD004BB8C, 0xD1B0094D].map decode = [
    some (.xpCtrm 3 37), some (.xpCtrl 3 85), some (.xpClr 3), some (.xpLd 3 110), some (.xpSt 3 37),
    some (.xpAdd 3 3), some (.xpForm 3 52 85), some (.xpM2m 3 3), some (.xpM2l 3 3), some (.xpL2l 3 3),
    some (.xpEval 3 52 85), some (.xpGrad 3 110 26), some (.xpNear 37 110), some (.xpAdm 3 3 37)] := by decide +kernel
/-! ### States to test on -/

/-- The probe state: thread 0 RUN in user mode with 112 registers, memory of die 0 mapped at its own addresses. -/
def base : State := State.reset.placeWord 0

/-- The location of an address in the page that the probe maps, on die 0 with IL 0. -/
def dram (va : Nat) : Nat := placeDram 0 0 0 va

/-- Doublewords put at addresses of that page. -/
def poke (s : State) (ps : List (Nat × Word)) : State := ps.foldl (fun s p => s.putWord (dram p.1) p.2) s

/-- The state with a region: its control block at 0x40000, every cluster in its budget, a handler, no wait limit, a save
area of eight records at 0x100000, all grants. Of the three pages above the probe's, one has no R, one no U, and the third
is not mapped. Thread 0 is of the region, with numbers in s3 to s9. -/
def region : State :=
  let s := poke base [(0x20008, 0x75), (0x20010, 0x3D), (0x40008, probePointer 0 1), (0x40010, 0x3F6100FF),
    (0x40018, 0x100070000), (0x40028, 0x30000), (0x40038, 0x100000), (0x40040, 0x2000), (0x40048, 0xFF0F)]
  s.updTh 0 (fun th => { th with rcb := 0x40000, uid := 1, regs := [(3, 0x50000), (4, 0x50040), (5, 7), (6, 2), (7, 0x60000), (9, 1)] })

/-- Registers of a thread set. -/
def setRegs (s : State) (t : Nat) (ps : List (Nat × Word)) : State :=
  s.updTh t (fun th => ps.foldl (fun th p => th.setReg p.1 p.2) th)

/-- The thread of that region in a slot of a unit, in a mode, as the focus. -/
def placed (u slot : Nat) (mode : Bool) : State :=
  let th := region.th 0
  ({ region with focus := u * 64 + slot }).setTh (u * 64 + slot) { th with st := { th.st with mode := mode } }

def user : State := placed 0 0 false
def super : State := placed 0 0 true
def skerry : State := placed (mkSkerry 0 0) 0 false
def holm : State := placed (mkSkerry 8 0) 0 true
def server : State := placed (mkSkerry 0 0) 31 false
def handler : State := placed 0 63 true

/-- The same state with registers of the focus thread. -/
def withRegs (s : State) (ps : List (Nat × Word)) : State := setRegs s s.focus ps

/-! ### Ways to look at a result -/

/-- The instruction reaches its own effect: `Ready`, as a Bool. -/
def rdy (i : Instr) (s : State) : Bool := (precheck s s.focus i).isNone && (pairGate s s.focus i).isNone

/-- An address is resolved to a location. -/
def found (r : Except Res Nat) (l : Nat) : Bool := match r with | .ok x => x = l | _ => false

/-- Requests are served at once: `Served`, as a Bool. -/
def served (s : State) (op : MemOp) (ls : List Nat) : Bool :=
  s.heldUp s.focus ls = none && !s.split && !s.outOfReach (ls.headD 0) && s.feReady op (ls.headD 0)

/-- A sound word: `Sound`, as a Bool. -/
def sound (s : State) (l : Nat) : Bool := !s.isPoison l 1 && !s.hostAborts l && !isSlotWin l

/-- The next state of an instruction. -/
def next (i : Instr) (s : State) : State := match exec i s with | .next t => t | _ => s

/-- The next state of an event with arguments. -/
def event (i : Instr) (args : List Nat) (s : State) : State := next i { s with ev := args }

/-- A register of the focus thread, and its WST, flags, PC, status and cause, after an instruction. -/
def reg (i : Instr) (s : State) (n : Nat) : Word := ((next i s).th s.focus).reg n
def wstOf (i : Instr) (s : State) : BitVec 3 := ((next i s).th s.focus).st.wst
def fpf (i : Instr) (s : State) : BitVec 5 := ((next i s).th s.focus).st.fpf
def pcOf (i : Instr) (s : State) : Word := ((next i s).th s.focus).pc
def status (i : Instr) (s : State) : Status := ((next i s).th s.focus).status
def trapOf (i : Instr) (s : State) : Nat × Nat × Word :=
  let r := ((next i s).th s.focus).record
  (r.cause, r.info, r.addr)
def awaits (i : Instr) (s : State) : Option Await := ((next i s).th s.focus).park.map (·.await)

/-- Several facts together. -/
def all (l : List Bool) : Bool := l.all id

/-! ### Every hypothesis of every statement is met somewhere

`rdy`, `served`, `sound` and `found` stand for `Ready`, `Served`, `Sound` and an address that resolves. -/

/-- ImmediatesWriteTheirResults, BranchesTestAgainstZero, ScalarFunctionsWriteTheirResults. -/
theorem witness_scalar : [
    Instr.addi 9 3 0xFFF, .andi 9 3 1, .ori 9 3 1, .xori 9 3 1, .br 0 5 1, .br 6 0 1, .aluAdd 9 3 5, .aluSub 9 3 5,
    .aluMul 9 3 5, .aluMulh 9 3 5, .aluMulhu 9 3 5, .aluAnd 9 3 5, .aluOr 9 3 5, .aluXor 9 3 5, .aluAndn 9 3 5,
    .aluSll 9 3 5, .aluSrl 9 3 5, .aluSra 9 3 5, .aluRol 9 3 5, .aluSlt 9 3 5, .aluSltu 9 3 5, .aluMin 9 3 5,
    .aluMax 9 3 5, .aluMinu 9 3 5, .aluMaxu 9 3 5, .aluClz 9 8, .aluCtz 9 5, .aluPopc 9 3, .shiSlli 9 3 63,
    .shiSrli 9 3 63, .shiSrai 9 3 0, .shiRoli 9 3 0, .lui 9 0x7FFFF, .auipc 9 0x40000, .aluDiv 9 3 5, .aluRem 9 3 5,
    .aluDivu 9 3 5, .aluRemu 9 3 5].all (fun i => rdy i user) = true ∧
    (let s := next (.aluDiv 9 3 5) user
     ((s.core 0).div.map (·.thread) = [0] ∧ (s.th 0).park.map (·.await) = some .divider)) := by decide +kernel

/-- ControlTransfersAct, each range of conditions, a target of whole and of no whole words. -/
theorem witness_control : [
    Instr.csk 0 3 3 5, .csk 7 1 3 5, .csk 8 1 3 5, .csk 12 1 3 5, .cski 0 1 3 0, .cski 7 1 3 63, .j 1, .jl 1, .jr 1 3 0,
    .jr 1 3 2, .pfxFmt 0 3 1 2, .pfxRlx].all (fun i => rdy i user) = true ∧
    (src (.jr 1 3 0) user 0).toNat % 4 = 0 ∧ (src (.jr 1 3 2) user 0 + 2).toNat % 4 ≠ 0 := by decide +kernel

/-- AccessesReachTheirHome, the accesses that complete: each operation, plain and with `.g` at the home. -/
theorem witness_accesses :
    (rdy (.ld 9 3 3 0 0 0) user && found (addrOf user 0 0x50000 8 .r true) (dram 0x50000) && sound user (dram 0x50000) &&
      served user (.load 8 false 9) [dram 0x50000]) = true ∧
    (rdy (.ld 9 3 0 1 1 0xFF) skerry && found (addrOf skerry skerry.focus 0x4FFFF 1 .r true) (dram 0x4FFFF)) = true ∧
    skerry.homeUnit (dram 0x50000) = some (here skerry) ∧ inServer skerry.focus = false ∧
    (rdy (.st 5 3 3 0 1) user && found (addrOf user 0 0x50008 8 .w true) (dram 0x50008) &&
      !user.hostAborts (dram 0x50008) && served user (.store 8 7) [dram 0x50008]) = true ∧
    (rdy (.st 5 3 0 0 1) user && found (addrOf user 0 0x50001 1 .w true) (dram 0x50001) && sound user (dram 0x50001)) = true ∧
    (rdy (.vmemLd 2 3 0 3 0) user && rdy (.vmemSt 2 3 0 3 0) user) = true ∧
    (match blockLocs user 0 0x50000 3 .w, blockLocs user 0 0x50000 3 .r with
      | .ok ls, .ok ms => ls = ms && served user (.vload 2 3) (wordsOf ls) && served user (.vstore []) (wordsOf ls) &&
        (wordsOf ls).all (fun l => sound user l && !user.outOfReach l)
      | _, _ => false) = true := by decide +kernel

/-- AccessesReachTheirHome, each trap of a load and the alignment of a vector one. -/
theorem witness_access_traps :
    (let i := Instr.ld 9 3 3 0 0 0
     let s (va : Word) : State := withRegs user [(3, va)]
     let leaf (va : Word) : Option (Word × Nat) := leafOf (s va) 0 (me user).root va
     (rdy i (s 4) && slotWindow 0 4 = none && isCanonical 4) = true ∧
     (rdy i (s 0x80000000000000) && !isWindow 0x80000000000000 && !isCanonical 0x80000000000000) = true ∧
     (isWindow 0xFE00000000006000 && !windowOk user (me user).root 0x40000 0xFE00000000006000 &&
       slotWindow 0 0xFE00000000006000 = none) = true ∧
     leaf 0x60000000 = none ∧ leaf 0x20000000 = some (0x75, 2) ∧ leaf 0x40000000 = some (0x3D, 2) ∧
     walk user (me user).root 0x20000000 = some (0x75, 2) ∧ walk user (me user).root 0x40000000 = some (0x3D, 2) ∧
     (let p := user.setPoison (dram 0x50000) true
      rdy i p && found (addrOf p 0 0x50000 8 .r true) (dram 0x50000) && p.isPoison (dram 0x50000) 1 &&
        served p (.load 8 false 9) [dram 0x50000]) = true) ∧
    rdy (.vmemLd 2 3 0 0 0) (withRegs user [(3, 8)]) = true := by decide +kernel

/-- StoresLeaveTheRestAlone: a byte store that completes. -/
theorem witness_store_frame :
    (let i := Instr.st 5 3 0 0 1
     rdy i user = true ∧ (me user).twin = none ∧ (me user).st.ppRlx = false ∧ status i user = .run ∧
       (served user (.store 1 7) [dram 0x50001] && found (addrOf user 0 0x50001 1 .w true) (dram 0x50001)) = true) := by decide +kernel

/-- A state with an RLX prefix pending. -/
def relaxed : State := next .pfxRlx user

/-- RelaxedAccessesAndUpdatesPost: a load with room and with four outstanding, a store with room and with none, an update. -/
theorem witness_relaxed :
    (rdy (.ld 9 3 3 0 0 0) relaxed && rdy (.st 5 3 3 0 0) relaxed && (me relaxed).st.ppRlx &&
      found (addrOf relaxed 0 0x50000 8 .r true) (dram 0x50000) && !isSlotWin (dram 0x50000)) = true ∧
    (me relaxed).outstanding.length < 4 ∧ relaxed.freeEntries 0 ≠ 0 ∧ (relaxed.freeEntry 0).isSome = true ∧
    (let s := relaxed.updTh 0 (fun th => { th with pending := [(20, 90), (21, 91), (22, 92), (23, 93)] })
     rdy (.ld 9 3 3 0 0 0) s = true ∧ 4 ≤ (me s).outstanding.length) ∧
    (let s := relaxed.updCore 0 (fun c => { c with journal := (upTo 64).map (fun k => (k, {})) })
     rdy (.st 5 3 3 0 0) s = true ∧ s.freeEntries 0 = 0) ∧
    (([Instr.rupdAdd 3 5, .rupdAnd 3 5, .rupdOr 3 5, .rupdXor 3 5, .rupdMin 3 5, .rupdMax 3 5, .rupdMinu 3 5, .rupdMaxu 3 5,
      .rupdSwap 3 5, .rupdIncw 3 5, .rupdFaddF32 3 5].all (fun i => rdy i user)) &&
      found (addrAtDevice user 0 0x50000 8 .rw false) (dram 0x50000) &&
      found (addrAtDevice user 0 0x50000 4 .rw false) (dram 0x50000)) = true := by decide +kernel

/-- FullEmptyWordsActOrWait: each mode at a full and at an empty word. -/
theorem witness_full_empty :
    (let l := dram 0x50000
     let e := user.setFull l false
     (found (addrAtDevice user 0 0x50000 8 .r false) l && found (addrAtDevice user 0 0x50000 8 .w false) l && sound user l &&
       served user (.fel 0 9) [l] && served user (.fel 1 9) [l] && served e (.fel 2 9) [l] && served e (.fes 0 7) [l] &&
       served user (.fes 1 7) [l] && served user (.fes 2 7) [l] && served user (.feBit true) [l] && user.full l && !e.full l) = true ∧
     user.posted 0 = [] ∧ user.heldUp 0 [l] = none ∧ e.heldUp 0 [l] = none ∧ e.outOfReach l = false ∧ (me user).park = none ∧
     [Instr.felWfe 9 3 4 0, .felWfs 9 3 4 0, .felAny 9 3 0, .fesWes 5 3 4 0, .fesSetf 5 3 0, .fesSete 5 3 0,
       .waitFe 9 3 4].all (fun i => rdy i user && rdy i e) = true ∧
     (src (.waitFe 9 3 4) user 0).getLsbD 0 = true ∧ src (.waitFe 9 3 4) user 1 = 0x50000) := by decide +kernel

/-- AtomicsReadModifyWrite, on the words that s3 names; `cas` and `faddb` take their operand from s[d] too. -/
theorem witness_atomics :
    (let l := dram 0x50000
     [Instr.amoAdd 9 3 5, .amoAnd 9 3 5, .amoOr 9 3 5, .amoXor 9 3 5, .amoMin 9 3 5, .amoMax 9 3 5, .amoMinu 9 3 5,
       .amoMaxu 9 3 5, .amoSwap 9 3 5, .amoCas 9 3 5, .amoIncw 9 3 5, .amoFaddb 9 3 5,
       .amoFaddF32 9 3 5].all (fun i => rdy i user) = true ∧
     (found (addrAtDevice user 0 0x50000 8 .rw true) l && found (addrAtDevice user 0 0x50000 4 .rw true) l &&
       served user (.amo 0 7 0 9) [l] && served user (.amo 12 7 0 9) [l] && sound user l) = true) := by decide +kernel

/-- FloatingFunctionsDeliverTheirResults and RoundingFollowsItsMode: each function, each kind of value, a result in range and
one that overflows. -/
theorem witness_floating :
    [Instr.fpAdd 9 3 5, .fpSub 9 3 5, .fpMul 9 3 5, .fpFma 9 3 5, .fpMin 9 3 5, .fpMax 9 3 5, .fpDiv 9 3 5, .fpSqrt 9 3,
      .fpItof 9 3, .fpFtoi 9 3, .fpCvt 9 3].all (fun i => rdy i user) = true ∧
    ((Fmt.fp32.value 0x7F800001).isSnan && (Fmt.fp32.value 0x7FC00000).isNan && (Fmt.fp32.value 0xFF800000).isInf &&
      (Fmt.fp32.value 0xFF800000).neg && (Fmt.fp32.value 0x80000000).isZero) = true ∧
    Fmt.fp32.value 0x3F800000 = .fin false (2 ^ 23) (-23) ∧ (mulExact (.fin false 1 0) (.fin false 3 0)).isSome = true ∧
    (Fmt.fp32.round .rne false 1 0).2.getLsbD 2 = false ∧ (Fmt.fp32.round .rne false 1 200).2.getLsbD 2 = true ∧
    (Fmt.fp32.round .rup false 1 (-200)).2.getLsbD 0 = true := by decide +kernel

/-- The state with the code table of core 0. -/
def withTable (t : CodeTable) : State := user.updCore 0 (fun c => { c with table := t })
/-- A sealed table of width 2 with the elements 0 and 1.0. -/
def twoValues : CodeTable := { ({ ent := [(1, 0x1FC00)], snapEnt := [(1, 0x1FC00)], snapWidth := 2, state := .sealing } : CodeTable).endSeal with width := 2 }

/-- TableChangesCommitLaterAndConvert, SealsSortAndEncodingPicksTheNearest: each state of the table,
each commit, and the end of a seal. -/
theorem witness_tables :
    (let busy := withTable { state := .sealing }
     let ready := withTable twoValues
     let due (c : Commit) : State := user.updCore 0 (fun k => { k with cycle := 100, commits := [(100, c)] })
     let started := next .tblSeal user
     ([Instr.tblWr 3 5, .tblRd 9 3, .tblNansub 5, .tblSeal, .tblEnc 9 8, .tblDec 9 8].all (fun i =>
       rdy i user && rdy i busy && rdy i ready)) = true ∧
     ([Commit.entry 3 5, .nansub 5, .width 2, .xo 3, .startSeal 7].all (fun c => ((due c).core 0).commits = [(100, c)])) = true ∧
     (src (.tblNansub 5) user 0).toNat % 256 < entriesOf (user.core 0).table.width ∧
     ¬ (src (.tblNansub 3) (withRegs ready [(3, 16)]) 0).toNat % 256 < entriesOf (ready.core 0).table.width ∧
     twoValues.state = .sealed ∧ twoValues.ord = [(0, 0), (0x1FC00, 1)] ∧ (user.core 0).table.state = .unsealed ∧
     Fmt.e8m10.value 0x1FC00 = .fin false (2 ^ 10) (-10) ∧ Fmt.e8m10.orderKey 0 < Fmt.e8m10.orderKey 0x1FC00 ∧
     ((started.core 0).commits.map (·.2) = [.startSeal user.fresh]) ∧
     (started.th 0).park.map (·.await) = some (.sealOwn user.fresh) ∧ (started.th 0).status = .park ∧
     (me (next (.pfxFmt 0 6 0 0) ready)).st.ppFmt = true ∧ rdy (.tblEnc 9 8) (next (.pfxFmt 0 6 0 0) ready) = true ∧
     rdy (.tblDec 9 8) (next (.pfxFmt 6 3 0 0) ready) = true ∧ rdy (.tblDec 9 8) (next (.pfxFmt 4 3 0 0) ready) = true) := by
  decide +kernel

/-- IntegerAndScalarLanesCompute and FloatingLanesCompute: every function at a lane width it has, the conversions by a sealed
table of width 2, and an FMT prefix that it takes. -/
theorem witness_lanes :
    (let ready := withTable twoValues
     ([Instr.vopAdd 1 2 3 0, .vopSub 1 2 3 1, .vopMul 1 2 3 2, .vopMin 1 2 3 0, .vopMax 1 2 3 1, .vopMinu 1 2 3 2, .vopMaxu 1 2 3 0,
       .vopAnd 1 2 3 0, .vopOr 1 2 3 0, .vopXor 1 2 3 0, .vopSll 1 2 3 1, .vopSrl 1 2 3 2, .vopSra 1 2 3 0, .vopAdds 1 2 3 0,
       .vopSubs 1 2 3 1, .vopCeq 1 2 3 0, .vopClt 1 2 3 2, .vopCltu 1 2 3 0, .vopSel 1 2 3 0, .vopShuf 1 2 3 2, .vscBcast 1 3 0,
       .vscAdd 1 2 3 0, .vscSub 1 2 3 1, .vscMul 1 2 3 2, .vscFadd 1 2 3 0, .vscFmul 1 2 3 2, .vscFfma 1 2 3 0, .vscRedadd 2 9 0,
       .vscRedmin 2 9 1, .vscRedmax 2 9 2, .vscRedminu 2 9 0, .vscRedmaxu 2 9 1, .vscMask 2 9 2, .vscFredadd 2 9 0,
       .vscFredmin 2 9 2, .vscFredmax 2 9 0, .vopFadd 1 2 3 0, .vopFsub 1 2 3 2, .vopFmul 1 2 3 0, .vopFmin 1 2 3 2, .vopFmax 1 2 3 0,
       .vopFceq 1 2 3 0, .vopFclt 1 2 3 2, .vopFcle 1 2 3 0, .vopFfma 1 2 3 0, .vopFcvt 1 2 0, .vopWlo 1 2, .vopWhi 1 2,
       .vopNar 1 2 3, .vopEnc 1 2 2, .vopDec 1 2 0].all (fun i => rdy i ready)) = true ∧
     rdy (.vopFadd 1 2 3 2) (next (.pfxFmt 2 2 0 0) ready) = true ∧ rdy (.vopEnc 1 2 0) (withTable { state := .sealing }) = true ∧
     rdy (.vopEnc 1 2 0) user = true ∧ (user.core 0).table.state = .unsealed ∧
     rdy (.vopEnc 1 2 2) (next (.pfxFmt 1 5 0 0) ready) = true ∧ rdy (.vopDec 1 2 2) (next (.pfxFmt 5 1 0 0) ready) = true) := by
  decide +kernel

/-- StateRegistersReadAndWrite: each number, in the modes that reach it; each refused value; a capability within the grants
and one beyond. -/
theorem witness_state_registers :
    ((upTo 17).all (fun n => rdy (.sysSrd 9 (BitVec.ofNat 7 n)) super)) = true ∧ rdy (.sysSrd 9 14) user = true ∧
    ([0, 3, 4, 5, 14, 15, 16].all (fun n => rdy (.sysSwr n 3) super)) = true ∧
    (rdy (.sysSwr 0 3) (withRegs user [(3, 0x8000000000000000)]) && rdy (.sysSwr 5 3) (withRegs user [(3, 3)]) &&
      rdy (.sysSwr 5 3) (withTable { state := .sealing }) && rdy (.sysSwr 14 3) (withRegs user [(3, 9)]) &&
      rdy (.sysSwr 14 3) (withRegs user [(3, 10)]) && rdy (.sysCapget 9 3 4) user) = true ∧
    effGrants user (me user).root (me user).rcb = some 0xFF0F ∧ (0x40F00000000 : Word).toNat = 4 * 2 ^ 40 + 15 * 2 ^ 32 := by decide +kernel

/-- A state in which thread 0 has posted a store that stays in the journal: word 0x50000, entry 0. -/
def posting : State := next (.st 5 3 3 0 0) relaxed

/-- TrapCallsAndFences and TranslationsAreDroppedAndRefilled: with and without posted entries, pending loads and requests
under way. -/
theorem witness_fences :
    ([Instr.sysTrap 3, .sysBreak, .sysIfence, .sysFenceDev, .sysFenceDom, .sysFenceSys].all (fun i => rdy i user && rdy i posting)) =
      true ∧
    ([Instr.sysTlbInv 3, .sysTlbAll 8].all (fun i => rdy i super)) = true ∧ user.posted 0 = [] ∧ (me user).pending = [] ∧
    posting.posted 0 ≠ [] ∧ (posting.posted 0).all (fun x => posting.holdsFence 0 x.2) = true ∧
    user.destOf (locHost 0) = some 128 ∧ user.destOf (locDram 1 0 0 0) = some 1 ∧ user.destOf (dram 0) = none ∧
    (let p := { super with threads := AMap.set posting.threads 0 { me posting with st := { mode := true } }, units := posting.units }
     rdy (.sysTlbInv 3) p = true ∧ p.posted 0 ≠ []) ∧
    (let q := (super.setTlb 0 [{ root := (me super).root, page := 0, level := 2, leaf := 0x7D }])
     let q := { q with reqs := [(5, { thread := 0, root := (me super).root, va := 0x50000, parts := [dram 0x50000], levels := [2] })] }
     rdy (.sysTlbAll 8) q = true ∧ q.sentUnder (fun r _ _ => src (.sysTlbAll 8) q 0 = 0 || r = src (.sysTlbAll 8) q 0) = [5]) ∧
    isCanonical 0x50000 = true ∧ walk user (BitVec.ofNat 64 0x10001) 0x50000 = some (0x7D, 2) := by decide +kernel

/-- ThreadFunctionsAct, UnitsRebuildAndCommit: each clause. -/
theorem witness_threads : all [
    rdy (.thrSpawn 9 3 10) (withRegs user [(10, 16)]), user.fillPlace 0 16 (me user).root (me user).rcb false = some (1, 112),
    !inServer user.focus, (me user).twin = none, rdy (.thrSpawn 9 3 5) user, src (.thrSpawn 9 3 5) user 1 = 7,
    rdy .thrExit user, rdy .thrYield user, (me user).task = 0, (me user).handles = none, (me user).pageReq = none,
    rdy .thrExit (user.updTh 0 (fun th => { th with task := 8 })),
    rdy (.thrNwr 1 3) user, neighbour 0 1 = some 1, neighbour 0 0 = none, rdy (.thrNwr 0 3) user, !isSkerry 0,
    (match effBudget user (me user).root treeDepth (me user).rcb with | some b => b.hasCluster 0 0 | none => false),
    AMap.get none (user.core 1).mbox 3 = none,
    (AMap.get none ((next (.thrNwr 1 3) user).core 1).mbox 3).isSome, rdy (.thrNwr 1 3) (next (.thrNwr 1 3) user),
    rdy (.thrNwr 1 3) skerry,
    rdy (.thrStw 5 6) super, rdy (.thrStw 5 6) (withRegs skerry [(5, 32)] |>.updTh skerry.focus (fun th => { th with st := { mode := true } })),
    rdy (.thrStw 5 6) (withRegs super [(6, 0x8000)]), rdy (.thrStw 5 6) (withRegs super [(6, 0xC001)]), (super.core 0).stw = [],
    (let s := withRegs (super.updCore 0 (fun c => { c with slotTab := [(8, { pin := true, valid := true, slot := 1 })] })) [(6, 0xC001)]
     rdy (.thrStw 5 6) s && ((s.core 0).entry 8).pin && cyclicDist 64 7 8 < spacingOf 0),
    (let s := user.updCore 0 (fun c => { c with cycle := 12, commits := [(12, .shared 3 5)] })
     (s.core 0).commits = [(12, .shared 3 5)] && 12 ≤ (s.core 0).cycle),
    (let s := user.updCore 0 (fun c => { c with slotTab := [(8, { pin := true, valid := true, slot := 1 })] })
     let new (k : Nat) : SlotEntry := AMap.get {} (s.rebuild 0) k
     (s.core 0).stw = [] && ((s.core 0).entry 8).pin && (new 12).valid && (new 24).valid && (new 12).slot = (new 24).slot &&
       !(new 12).pin)] = true := by decide +kernel

/-- DelegatedCallsRunAtTheHome: a call, a post, a call from the server slot, and the routine's start and both ends. -/
theorem witness_delegation :
    (let i := Instr.dlgCall 9 3 7
     let u := mkSkerry 0 0
     let c := next i user
     let v := event .delegationServe [u] c
     let p := event .delegationServe [u] (next (.dlgPost 3 7) user)
     all [rdy i user, rdy (.dlgPost 3 7) user, found (dlgAddr user 0 0x50000) (dram 0x50000), user.homeUnit (dram 0x50000) = some u,
      user.posted 0 = [], (user.freeEntry 0).isSome, (user.core u).dlgq = [], rdy i server, inServer server.focus,
      (c.core u).dlgq.length = 1, (c.th (u * 64 + 31)).status = .free, (c.core u).serving = none,
      (v.core u).serving.isSome, ((v.core u).serving.map (·.caller)) = some (some 0), ((v.core u).serving.bind (·.entryOf)) = none,
      (v.th 0).park.map (·.await) = some (.dlgReply user.fresh), ((p.core u).serving.bind (·.entryOf)) = some (0, 0)]) = true := by decide +kernel

/-- MigrationsMoveTheContext: a migration here, elsewhere, and refused; a return trap; an arrival with room, with none, and
with a full buffer; a buffered context that fits. -/
theorem witness_migration :
    (let i := Instr.mig 3 0x7FFF
     let u := mkSkerry 0 0
     let gone := next i user
     let k := user.fresh
     let full := { gone with threads := (upTo 31).foldl (fun t n => AMap.set t (u * 64 + n) ({ status := .run } : Thread)) gone.threads }
     let held := event .contextMessageArrival [k] full
     let freed := { held with threads := AMap.del held.threads (u * 64) }
     let far := withRegs user [(3, 0x80000000000000)]
     all [rdy i user, !inServer user.focus, found (migAddr user 0 0x50000) (dram 0x50000), user.homeUnit (dram 0x50000) = some u,
      user.posted 0 = [], user.heldBack 0 = none, !user.destRefused 0 (dram 0x50000), rdy i skerry, u = here skerry,
      ({ user with pkg := { user.pkg with device := 5 } }).homeUnit (dram 0x50000) = none, rdy i far,
      (poke user [(0x40010, 0x3F610080)]).destRefused 0 (dram 0x50000), rdy i (poke user [(0x40010, 0x3F610080)]),
      skerry.heldBack skerry.focus = none, decodeRaw 0x7000900C = some (.sysTlbInv 9),
      (match gone.message k with
        | some m => !m.buffered && gone.fillPlace m.dest m.thread.lim m.thread.root m.thread.rcb false = some (0, 0)
        | none => false),
      full.fillPlace u 112 (me user).root 0x40000 false = none, (full.core u).inbound.length < inboundRoom u,
      (held.core u).inbound = [k], (freed.fitting u).isSome, (gone.th 0).msg = some k,
      inboundRoom u ≤ ((full.updCore u (fun c => { c with inbound := upTo 64 })).core u).inbound.length]) = true := by decide +kernel

/-- The handle of queue 1 of home 0, in s10; a descriptor at s4 with its anchor at that home, and the configuration of that
queue at s7, of threshold 1. -/
def tasks (join : Word) : State :=
  withRegs (poke user [(0x50040, 0x2000000000050000), (0x50048, 0x2000000000000000 + join), (0x50050, 0x0800000000030000),
    (0x50058, 0x30000), (0x50060, 11), (0x60000, 0x40000), (0x60008, 0x70000), (0x60010, 0x200104), (0x60018, 0x100000000)])
    [(10, 0x800000000)]
/-- That queue configured; with one task, with two; the first task taken. -/
def queue0 : State := next (.tqCfg 10 7) (tasks 0)
def queue1 : State := next (.tqPush 9 4 10) queue0
def queue2 : State := next (.tqPush 9 4 10) queue1
def taken : State := next (.tqTake 9 10 4) queue1

/-- QueueFunctionsAct: each function, each outcome. -/
theorem witness_queues : all [
    rdy (.tqPush 9 4 10) queue0, found (addrOf queue0 0 0x50040 64 .r false) (dram 0x50040),
    queue0.heldUp 0 (spanOf (dram 0x50040) 8) = none, queue0.queueShut queue0.fresh 1 = none,
    (pushCheck queue0 0 0x800000000 (TaskRec.ofWords 0 0 (queue0.wordsAt (dram 0x50040) 8))).isNone,
    !queue0.inTransit (dram 0x50000) none, (queue0.queue 1).configured, !(queue0.queue 1).quarantined,
    (queue0.queue 1).occupancy < (queue0.queue 1).capacity, rdy (.tqPush 9 4 10) (tasks 0), !((tasks 0).queue 1).configured,
    rdy (.tqTake 9 10 4) queue1, found (addrOf queue1 0 0x50040 64 .w false) (dram 0x50040), !queue1.badHandle 0x800000000,
    (me queue1).seq = 0, (queue1.queue 1).queued.length = 1, (queue0.queue 1).queued = [], rdy (.tqTake 9 10 4) queue0,
    ((queue1.queue 1).queued.map ((queue1.queue 1).gates ·)) = [false],
    (spanOf (dram 0x50040) 8).all (fun p => sound queue1 p && !queue1.outOfReach p),
    (let s := taken.updTh 0 (fun th => { th with seq := 0, task := 0 })
     let s := next (.tqPush 9 4 10) s
     rdy (.tqTake 9 10 4) s && (me s).seq = 0 && (s.queue 1).queued.map ((s.queue 1).gates ·) = [true] &&
       rdy (.tqSteal 9 10 4) s),
    rdy (.tqTake 9 10 4) (queue1.setQueue 1 { queue1.queue 1 with quarantined := true }),
    rdy (.tqSteal 9 10 4) queue0, rdy (.tqSteal 9 10 4) queue1, (queue1.queue 1).queued.length ≤ (queue1.queue 1).th,
    rdy (.tqSteal 9 10 4) queue2, (queue2.queue 1).th < (queue2.queue 1).queued.length,
    ((queue2.queue 1).queued.getLast?.map (·.far)) = some 0x30000,
    (let s := queue2.setQueue 1 { queue2.queue 1 with queued := (queue2.queue 1).queued.map (fun r => { r with far := 0 }) }
     rdy (.tqSteal 9 10 4) s && ((s.queue 1).queued.getLast?.map (·.far)) = some 0)] = true := by decide +kernel

theorem witness_queues_end : all [
    rdy .tqDone queue1, rdy .tqDone taken, (me taken).seq ≠ 0, (taken.runningTask 1 1).map (·.join) = some 0,
    taken.reachable 0, (me taken).pending = [], taken.posted 0 = [], taken.queueShut taken.fresh 1 = none,
    (let s := next (.tqTake 9 10 4) (next (.tqPush 9 4 10) (next (.tqCfg 10 7) (tasks 0x50100)))
     rdy .tqDone s && (me s).seq ≠ 0 && (s.runningTask 1 1).map (·.join) = some 0x50100 &&
       found (addrOf s 0 0x50100 8 .rw false) (dram 0x50100) && s.heldUp 0 [dram 0x50100] = none && s.posted 0 = []),
    rdy (.tqDepth 9 10) queue1, rdy (.tqDepth 9 10) (tasks 0), rdy (.tqDepth 9 3) queue1, queue1.badHandle 0x50000,
    rdy (.tqCfg 10 7) (tasks 0), found (addrOf (tasks 0) 0 0x60000 32 .r false) (dram 0x60000),
    (tasks 0).heldUp 0 (spanOf (dram 0x60000) 4) = none,
    (configured (tasks 0) 0 0x800000000 ((tasks 0).wordsAt (dram 0x60000) 4)).isSome,
    (configured (tasks 0) 0 0x800000000 []).isNone,
    (configured queue1 0 0x800000000 (queue1.wordsAt (dram 0x60000) 4)).isSome, (queue1.queue 1).occupancy ≠ 0,
    rdy (.tqSub 10 11) (withRegs queue0 [(11, 0x805)]), rdy (.tqSub 10 11) (withRegs queue0 [(11, 5)]),
    (match effBudget queue0 (queue0.queue 1).root treeDepth (queue0.queue 1).rcb with
      | some b => b.hasCluster 0 5 | none => false), (queue0.queue 1).subs.length < 8] = true := by decide +kernel

/-- QueueEventsAct: a gated task behind a running one, a dispatch with and without room, an alert, a steal on its way, a
deferred notification. -/
theorem witness_queue_events :
    (let s := queue2.setQueue 1 { queue2.queue 1 with
      queued := (queue2.queue 1).queued.map (fun r => { r with abase := if r.seq = 2 then 0x50008 else r.abase }) }
     let stolen := next (.tqSteal 9 10 4) queue2
     let u := mkSkerry 0 0
     let home := { queue1 with ev := [0] }
     let alert := { queue2 with ev := [1, 1] }
     let steal := { s.reserve (mkCape 0 1 0 * 64) 16 (s.queue 1).root (s.queue 1).rcb with
       steals := [(s.fresh, { queue := 1, cluster := 1, place := mkCape 0 1 0 * 64, second := none })] }
     let window := (user.setHome 0 { deferred := [regionKey 1 0x40000] })
     all [((stolen.queue 1).running.map (fun r => (r.seq, r.gated))) = [(2, true)], stolen.queue 1 ≠ queue2.queue 1,
      (home.candidates 0).length = 1, !(home.core u).bankOn, (user.candidates 0) = [],
      ((home.candidates 0).map (fun x => x.2.1.nregs)) = [2], !alert.regionPair (alert.queue 1),
      (alert.coresFor 1 112 (alert.queue 1).root (alert.queue 1).rcb) ≠ [],
      (steal.steals.find? (fun p => p.1 = s.fresh)).isSome,
      (steal.steals.map (fun p => (p.2.queue, p.2.second))) = [(1, none)], steal.queueShut steal.fresh 1 = none, bodyReads steal (steal.queue 1).root (steal.queue 1).rcb,
      !steal.isContained (steal.queue 1).root (steal.queue 1).rcb,
      (steal.queue 1).th < (steal.queue 1).queued.length, ((steal.queue 1).queued.getLast?.map (fun r => ((steal.queue 1).gates r, r.far,
        r.fregs, r.gated))) = some (false, 0x30000, 2, false), !(steal.cluster 1).failed,
      ((steal.steals.map (fun p => (steal.th p.2.place).status)) = [.free]),
      (window.home 0).deferred.contains (regionKey 1 0x40000), !(user.home 0).deferred.contains (regionKey 1 0x40000),
      (queue1.takeTask 1).1 = wstOK, (queue1.takeTask 1).2.1.isSome]) = true := by decide +kernel

/-- QueueEventsAct: an alert that finds no room. -/
theorem witness_alert_declined : ({ queue2 with ev := [1, 1] } : State).coresFor 1 112 0 8 = [] := by decide +kernel

/-- QueueEventsAct, join words: a word of count 0, of 1, of 1 with N, and one that would overflow; a host word. -/
theorem witness_joins :
    (let n (w : Word) : State := poke user [(0x50000, w)]
     let h := poke user [(0x20018, 0x01E000000000007D)]
     all [rdy (.jcInit 3 5) user, rdy (.jcAdd 9 3 5) user, rdy (.jcDec 9 3) user, found (joinAddr user 0 0x50000 .w) (dram 0x50000),
      found (joinAddr user 0 0x50000 .rw) (dram 0x50000), user.heldUp 0 [dram 0x50000] = none, user.posted 0 = [],
      ((n 0x7FFFFFFFFFFFFFF9).read64 (dram 0x50000)).toNat % 2 ^ 63 + 7 = 2 ^ 63, rdy (.jcAdd 9 3 5) (n 0x7FFFFFFFFFFFFFF9),
      (n 1).read64 (dram 0x50000) = 1, rdy (.jcDec 9 3) (n 1), ((n 0x8000000000000001).read64 (dram 0x50000)).toNat = 2 ^ 63 + 1,
      rdy (.jcDec 9 3) (n 0x8000000000000001), rdy (.jcInit 3 5) (withRegs h [(3, 0x60000000)]),
      found (addrOf h 0 0x60000000 8 .w false) (locHost 0), isHost (locHost 0)]) = true := by decide +kernel

/-- WaitsCompleteOrPark: each wait, whether what it awaits is there or not; a park that is ready, one whose timeout and one
whose limit has fallen, a drain that is over, and a woken instruction. -/
theorem witness_waits :
    (let mail := user.updCore 0 (fun c => { c with mbox := [(2, some 5)] })
     let busy := poke user [(0x50000, 9)]
     let idle := next (.waitJz 3 4) busy
     let buoy := withRegs user [(3, 0xFE00000000000010), (5, 0)]
     let limited := next (.waitJz 3 31) (poke busy [(0x40030, 100)])
     let draining := next .sysFenceDev posting
     let wakes := event .awaitedEvent [0] (poke idle [(0x50000, 0)])
     all [rdy (.waitJz 3 4) user, rdy (.waitJz 3 4) busy, found (joinAddr user 0 0x50000 .r) (dram 0x50000),
      user.heldUp 0 [dram 0x50000] = none, (user.read64 (dram 0x50000)) = 0, (busy.read64 (dram 0x50000)) = 9,
      rdy (.waitMbox 9 5 4) user, rdy (.waitMbox 9 5 4) mail, src (.waitMbox 9 5 4) user 0 = 7, rdy (.waitMbox 9 8 4) user,
      rdy (.waitMbox 9 5 4) skerry, rdy (.waitSleep 8 4) user] && all [rdy (.waitSleep 3 4) user, user.time 0 = 0, rdy (.waitGate 4) user,
      (me user).seq = 0, rdy (.waitGate 4) taken, (me taken).seq ≠ 0, !taken.gateDue 0,
      rdy (.waitTl 9 3 8) user, ctxOfSel 0 = some 0, user.selInBudget 0 0, rdy (.waitTl 8 9 4) user, ctxOfSel 1 = some 1, (user.ctx 1).tl = 0,
      (let s := user.setCtx 1 { issued := 7, tl := 3 }
       rdy (.waitTl 5 9 4) s && (s.ctx 1).tl < 7 && 7 ≤ (s.ctx 1).issued), (user.ctx 1).issued < 7,
      rdy (.waitTl 5 3 4) user, ctxOfSel 0x50000 = none,
      true] && all [rdy (.waitBuoy 5 3 4) buoy, found (buoyLoc buoy 0 0xFE00000000000010 1) 16, buoy.heldUp 0 [16, 24] = none,
      rdy (.waitBuoy 9 3 4) buoy,
      (idle.th 0).status = .park, (idle.th 0).park.map (·.await) = some (.joinZero (dram 0x50000)),
      (match (idle.th 0).park with | some p => (poke idle [(0x50000, 0)]).ready 0 p && p.expires = some 8192 | none => false),
      (match (limited.th 0).park with | some p => p.limitAt limited = some 800 | none => false),
      (draining.th 0).park.map (·.await) = some (.drain 0 true), ({ draining with units := user.units }).drainOver 0 0 true,
      wakes.resume = some 0, (wakes.th 0).park.isSome]) = true := by decide +kernel

/-- The copy context 1 of cluster 0 and the first one of the other engines owned by the region. -/
def owning (s : State) : State :=
  [ctxKey 0 0 0 1, ctxKey 5 0 0 1, ctxKey 6 0 0 0, ctxKey 7 8 0 1, ctxKey 4 0 0 0].foldl (fun s k => s.setCtx k { own := 0x40000 }) s

/-- ContextsAndEngineRegistersAct: an unowned context, an own one and another's, at rest and at work; each engine's
registers. -/
theorem witness_contexts :
    (let k := ctxKey 0 0 0 1
     let at_ (c : Ctx) : State := user.setCtx k c
     let work : Cmd := { n := 1, opn := 3, a := 0, b := 0, regs := [], state := .running }
     all [[Instr.engClaim 0 1, .engRelease 0 1, .engClear 0 1, .engClaim 5 7, .engClear 5 0].all (fun i => rdy i user),
      [Instr.engClaim 6 0, .engRelease 6 0, .engClear 6 0, .ewr 6 0 10 5, .erd 6 0 12 9].all (fun i => rdy i skerry),
      [Instr.engClaim 7 1, .engRelease 7 0, .engClear 7 1, .erd 7 1 9 9].all (fun i => rdy i holm),
      user.ctxOf 0 0 1 = k, (user.ctx k).own = 0, ((at_ { own := 8 }).ctx k).own ≠ (me user).rcb,
      rdy (.engRelease 0 1) (owning user), ((owning user).ctx k).own = (me user).rcb, !(owning user).ctxHolds k,
      (at_ { own := 0x40000, bank := some (0, 0) }).ctxHolds k, ((at_ { own := 0x40000, issued := 1, cmds := [work] }).ctx k).running,
      ((at_ { own := 0x40000, issued := 1, cmds := [work] }).ctx k).tl ≠ 1, !((owning user).ctx k).busy,
      [Instr.ewr 0 1 8 5, .erd 0 1 8 9, .erd 0 1 2 9, .ewr 5 1 9 5, .erd 5 1 9 9, .ewr 1 3 8 5, .erd 1 3 11 9, .ewr 4 0 6 5,
        .ewr 4 3 7 5, .erd 4 0 6 9, .erd 4 3 7 9].all (fun i => rdy i user)]) = true := by decide +kernel

/-- CommandsAreAcceptedInOrder: each command where its context is the region's, at a legal geometry and at none, and where
the queue is full. -/
theorem witness_commands :
    (let k := ctxKey 0 0 0 1
     let set (s : State) (k r : Nat) (v : Word) : State := s.updCtx k (fun c => { c with regs := AMap.set c.regs r v })
     let s := set (set (set (owning user) k 8 16) k 11 0x0001000100000002) (ctxKey 5 0 0 1) 8 4
     let sk := set (set (owning skerry) (ctxKey 6 0 0 0) 10 1) (ctxKey 6 0 0 0) 8 1
     let full : State := s.updCtx k (fun c => { c with cmds := (upTo 16).map (fun n => { n := n, opn := 3, a := 0, b := 0, regs := [] }) })
     let open_ : State := s.updCtx k (fun c => { c with bank := some (0, 0) })
     all [[Instr.copyXfer 1 3 4, .copyDist 1 3 8, .copyBopen 1 3, .copyBclose 1, .copyCsr 1 3 4, .gsGather 1 3 4,
        .gsScatter 1 3 4].all (fun i => rdy i s && rdy i user && rdy i full),
      s.ctxOf 0 0 1 = k, (s.ctx k).own = (me s).rcb, !(s.ctx k).fault, (s.ctx k).queued = 0, (full.ctx k).queued = 16,
      cntOk (s.ctxRaw k 8), buoyOk s 0 (s.ctxRaw k 12), !cntOk (user.ctxRaw k 8), distOk (s.ctxRaw k 8) (s.ctxRaw k 11) 0,
      !distOk (s.ctxRaw k 8) (s.ctxRaw k 11) 7, (s.ctx k).bank.isNone, (open_.ctx k).bank.isSome, rdy (.copyBclose 1) open_,
      (s.ctxRaw (ctxKey 5 0 0 1) 8).toNat = 4,
      [Instr.bmacBcast 3 8, .bmacMac 3 8, .bmacRd 3 8, .bmacAclr 8, .bmacOpen, .bmacClose].all (fun i => rdy i sk),
      sk.ctxOf sk.focus 6 0 = ctxKey 6 0 0 0, sk.bmacGeom (ctxKey 6 0 0 0) 4 0x50000 0, !sk.bmacGeom (ctxKey 6 0 0 0) 4 0x50001 0,
      sk.bmacGeom (ctxKey 6 0 0 0) 5 0x50000 0, sk.bmacGeom (ctxKey 6 0 0 0) 6 0x50000 0, sk.bmacGeom (ctxKey 6 0 0 0) 7 0 0,
      [Instr.pmigMove 1 3 4, .pmigCommit 1].all (fun i => rdy i (owning holm)), (owning holm).moveGeom 0x50000 0,
      !(owning holm).moveGeom 0x50000 0x50040]) = true := by decide +kernel

/-- StreamsAndBuoysAct: a context that may be bound and one that is bound; an unbind at each state of its command; a buoy
word armed and not. -/
theorem witness_streams :
    (let s0 := owning (user.setStream 3 { scnt := 16, sfmt := 12 })
     let s := withRegs s0 [(10, 1)]
     let bound := next (.streamBind 3 3 10) s
     let writing := bound.setStream 3 { bound.stream 3 with write := true, fifo := [1] }
     let work (s : State) (st : CmdState) : State := s.updCtx (ctxKey 0 0 0 1) (fun c => { c with cmds := c.cmds.map (fun x => { x with state := st }) })
     let b := withRegs user [(3, 0xFE00000000000010)]
     let armed := ({ user with ev := [16, 300] }.putWord 16 (BitVec.ofNat 64 (100 * 2 ^ 32 + 99))).putWord 24 (BitVec.ofNat 64 ((2 ^ 32 - 1) * 2 ^ 32 + 1))
     all [rdy (.streamBind 3 3 10) s, rdy (.streamPort 3 3 10) s, !(s.stream 3).bound, (src (.streamBind 3 3 10) s 1).toNat < 8,
      (s.ctx (copyCtx 0 1)).own = (me s).rcb, !(s.ctx (copyCtx 0 1)).fault, (s.ctx (copyCtx 0 1)).queued < 16,
      (s.stream 3).sstr0.toNat < 2 ^ 32, (s.stream 3).sfmt.toNat < 16, buoyOk s 0 (s.ctxRaw (copyCtx 0 1) 12),
      (s.stream 3).scnt.toNat % 2 ^ 32 ≠ 0, !(s.stream 3).sfmt.getLsbD 0, !AMap.has (s.cluster 0).ports 3,
      (bound.stream 3).bound, rdy (.streamBind 3 3 10) bound, rdy (.streamUnbind 3) user, rdy (.streamUnbind 3) bound,
      (bound.stream 3).region = (me bound).rcb, ((bound.ctx (copyCtx 0 1)).cmd (bound.stream 3).cmd).map (·.state) = some .queued,
      (((work bound .running).ctx (copyCtx 0 1)).cmd 1).map (·.state) = some .running, rdy (.streamUnbind 3) (work bound .running),
      rdy (.streamUnbind 3) (work writing .running), ((bound.setCtx (copyCtx 0 1) {}).ctx (copyCtx 0 1)).cmd 1 = none,
      rdy (.buoySet 3 5) b, found (buoyLoc b 0 0xFE00000000000010 2) 16, b.heldUp 0 [16, 24] = none, rdy (.buoySet 5 5) b,
      armed.read64 (armed.arg 0) = BitVec.ofNat 64 (100 * 2 ^ 32 + 99), (armed.read64 (armed.arg 0 + 8)).getLsbD 0,
      !(user.read64 (user.arg 0 + 8)).getLsbD 0]) = true := by decide +kernel

/-- The register of a request to a matrix unit: its context 0 owned by the region, the request sent. -/
def asking (i : Instr) : State := { next i (owning user) with ev := [0] }

/-- MatrixRequestsAreSentAndAnswered: each request local, to a failed unit and to none; each answered; a stalled command. -/
theorem witness_matrix :
    (let k := ctxKey 4 0 0 0
     let failed := user.updCluster 0 (fun c => { c with failed := true })
     let nowhere := user.updCore 0 (fun c => { c with target := [(0, 0x800)] })
     let foreign := user.updCore 0 (fun c => { c with target := [(0, 5)] })
     let words := [Instr.mtxMma 0 8 8, .mtxMmas 0 8 8, .mtxAclr 0, .mtxAcopyIn 0 8 8, .mtxAcopyOut 0 8 8, .mtxTset 0 8 9, .mtxTseal 0,
       .engClaim 4 0, .engRelease 4 0, .engClear 4 0, .ewr 4 0 8 5, .erd 4 0 8 9, .erd 4 0 5 9]
     let work : Cmd := { n := 1, opn := 3, a := 0x8000000000000000, b := 0, regs := [], state := .running }
     let stalled : State := (user.setCtx k { own := 0x40000, issued := 1, stall := some 0, cmds := [work] }).updCluster 0 (fun c =>
       { c with current := some k, ports := [(0, 0)] }) |>.setStream 0 { bound := true, port := true, cnt := 8 }
     all [words.all (fun i => rdy i user), user.matrixCause 0 0 (some 0) |>.isNone, user.matrixCause 0 0 none |>.isNone,
      (match failed.matrixCause 0 0 none with | some (.trap c _ _ _) => c = cMXDOWN | _ => false),
      (match nowhere.matrixCause 0 0 none with | some (.trap c _ _ _) => c = cCAPFAIL | _ => false),
      (match foreign.matrixCause 0 0 (some 0) with | some (.trap c _ _ _) => c = cCAPFAIL | _ => false),
      !foreign.localUnit 0 0 5 && !foreign.capPasses 0 0 0 0 5, user.localUnit 0 0 0,
      words.all (fun i => ((asking i).th 0).park.map (·.await) = some (.matrix k) && !(asking i).requestBefore k 1),
      !((asking (.mtxAclr 0)).cluster (clusterOfCtx k)).failed, ((asking (.mtxAclr 0)).ctx k).own = 0x40000,
      (let s := asking (.mtxMma 0 8 8)
       let s := s.updCtx k (fun c => { c with regs := [(9, 4)] })
       s.matrixGeom k 3 0 0 3 0 0 && s.matrixGeom k 4 0 0 3 0 0 && s.matrixGeom k 5 0 0 0 0 0 && s.matrixGeom k 6 0 0 0 0 0 &&
         s.matrixGeom k 7 0 0 0 0 0 && s.matrixGeom k 8 0 0 0 0 0 && s.matrixGeom k 9 0 0 0 0 0),
      (stalled.cluster 0).current = some k, (stalled.ctx k).oldest.isSome,
      (match (stalled.ctx k).oldest with | some x => !stalled.operandsReady k x | none => false)]) = true := by decide +kernel

/-- CommandsRunAndComplete: a command that may start; pieces that go on, end, wait for a page and meet a closed home. -/
theorem witness_command_events :
    (let k := ctxKey 0 0 0 1
     let a := next (.copyXfer 1 3 4) ((owning user).updCtx k (fun c => { c with regs := [(8, 16)] }))
     let r := event .engineCommandStart [k, 1] a
     let piece (s : State) : Nat := match (s.ctx k).cmd 1 with
       | none => 9
       | some x => match enginePiece s k x none with
         | .more _ => 0 | .last _ => 1 | .err (.page _) => 2 | .err (.fault _ _) => 3 | .err (.shut _) => 4 | _ => 5
     let on (f : Cmd → Cmd) : State := r.updCtx k (fun c => { c with cmds := c.cmds.map f })
     all [((a.ctx k).cmd 1).isSome, (match (a.ctx k).cmd 1 with | some x => a.mayStart k x | none => false), ctxEng k = 0,
      ((r.ctx k).cmd 1).map (·.state) = some .running, piece r = 0, piece (on (fun x => { x with a := 0x60000000 })) = 2,
      piece (on (fun x => { x with progress := 8 })) = 1, piece (on (fun x => { x with a := 0x20000000 })) = 3,
      piece (r.setPoison (dram 0x50000) true) = 3, piece (r.updCore (mkSkerry 0 0) (fun c => { c with bankOn := true })) = 4,
      (r.ctx k).cmds.map (·.n) = [1]]) = true := by decide +kernel

/-- Expansion registers 0 to 3: a multipole and a local one at the origin, and one of each at x = 1. -/
def expansions : State := user.updCore 0 (fun c => { c with x := [(0, {}), (1, { localKind := true, cx := 0x3F800000 }),
  (2, { cx := 0x3F800000 }), (3, { localKind := true })] })

/-- ExpansionRequestsQueueAndComplete: every word aligned, misaligned, first and behind another; every request served with
each outcome. -/
theorem witness_expansion :
    (let s := expansions
     let q (i : Instr) (s : State) : Option XpReq := ((next i s).core 0).xpq.head?
     let words := [Instr.xpCtrm 0 3, .xpCtrl 1 3, .xpForm 0 3 5, .xpEval 1 3 9, .xpGrad 1 3 1, .xpLd 0 3, .xpSt 2 3, .xpNear 3 9,
       .xpClr 0, .xpAdd 0 0, .xpM2m 0 2, .xpM2l 1 0, .xpL2l 1 3, .xpAdm 0 2 9]
     let rq : XpReq := { thread := 0, instr := .xpClr 0, xo := 0, a := 0, b := 0 }
     let got (s : State) (a : Word) (n : Nat) (img : Option (List Word)) : Option (List Word) := match xpMem s rq 0 a n img with
       | .words ws _ => some ws | _ => none
     let reads (a : Word) (n : Nat) : Bool := match got s a n none with | some ws => ws.length = n | none => false
     let bad := poke s [(0x50000, 2)]
     let near (n a : Word) : State := poke s [(0x50000, a), (0x50008, n)]
     all [words.all (fun i => rdy i s && rdy i (next (.xpClr 0) s) && (q i s).isSome), rdy (.xpLd 0 4) (withRegs s [(4, 0x50008)]),
      src (.xpLd 0 3) s 0 = 0x50000, (s.core 0).xpq = [], ((next (.xpClr 0) s).core 0).xpq ≠ [],
      reads 0x50000 2, reads 0x50020 128, (q (.xpCtrm 0 3) s).map (fun x => (unitOfThread x.thread, x.a)) = some (0, 0x50000),
      (got s 0x50000 4 none).map headerOk = some true, (got bad 0x50000 4 none).map headerOk = some false,
      (got s 0x50000 132 (some (s.xreg 0 2).image)).isSome,
      sameCentre (s.xreg 0 0) (s.xreg 0 0), !sameCentre (s.xreg 0 0) (s.xreg 0 2), centresDiffer (s.xreg 0 1) (s.xreg 0 0),
      !centresDiffer (s.xreg 0 3) (s.xreg 0 0), (s.xreg 0 1).localKind, !(s.xreg 0 2).localKind,
      (q (.xpForm 0 3 4) s).map (·.b) = some 0x50040,
      (q (.xpForm 0 3 4) (withRegs s [(4, 0x100001)])).map (·.b) = some 0x100001, rdy (.xpForm 1 3 5) s] && all [
      (match xpGradient (s.xreg 0 1) { x := xzero, y := xzero, z := xzero } with | [_, _, _] => true | _ => false),
      (got (near 0x100001 0) 0x50000 4 none).map (fun h => decide (2 ^ 20 < (h.getD 1 0).toNat)) = some true,
      (got (near 2 8) 0x50000 4 none).map (fun h => ((h.getD 1 0).toNat, (h.getD 0 0).toNat % 16)) = some (2, 8),
      (got (near 0 8) 0x50000 4 none).map (fun h => (h.getD 1 0).toNat) = some 0,
      (match xpMem s rq 0 0x60000000 2 none with | .trap c _ _ (some _) => c = cPAGE | _ => false),
      (match xpMem (s.setPoison (dram 0x50008) true) rq 0 0x50000 2 none with | .trap c 1 a none => c = cPOISON && a = 0x50008 | _ => false),
      (let shut := s.updCore (mkSkerry 0 0) (fun c => { c with bankOn := true })
       match q (.xpLd 0 3) shut with
       | some x => (match xpServe (next (.xpLd 0 3) shut) x with | .wait _ => true | _ => false)
       | none => false)]) = true := by decide +kernel

/-- A state whose requests travel on their own, with a load of thread 0 under way as request 0; its home has answered. -/
def travelling : State := next (.ld 9 3 3 0 0 0) { user with split := true }
def answered : State := event .homeRequest [user.fresh, 0] travelling

/-- RequestsArePerformedAndAnswered: a request that may be performed, that may not, that waits for a bit; one complete, one
waiting at its home. -/
theorem witness_requests :
    (let k := user.fresh
     let l := dram 0x50000
     let r := travelling.req k
     let shut := travelling.updCore (mkSkerry 0 0) (fun c => { c with bankOn := true })
     let fe := next (.felWfe 9 3 4 0) { (user.setFull l false) with split := true }
     let waits := event .homeRequest [k, 0] fe
     all [AMap.has travelling.reqs k, r.parts = [l], !AMap.has r.got 0, travelling.mayPerform k r 0, !travelling.outOfReach l,
      travelling.feReady r.op l, !shut.mayPerform k r 0, !fe.feReady (fe.req k).op l, fe.mayPerform k (fe.req k) 0,
      sound user l, AMap.has answered.reqs k, (answered.req k).complete, (answered.th 0).park.map (·.await) = some (.reply k),
      waits.waiting k, !answered.waiting k, (waits.th 0).park.map (·.await) = some (.reply k)]) = true := by decide +kernel

/-- RepliesLandAndPostedEntriesEnd: an RLX load's reply to its thread, to one that has gone on and to none; a posted entry
refused, accepted to leave the device, and taken by the host. -/
theorem witness_replies :
    (let k := relaxed.fresh
     let s := next (.ld 9 3 3 0 0 0) relaxed
     let gone := s.setTh 0 {}
     let away := gone.updCore 0 (fun c => { c with forward := [(k, 1)] })
     let host := next (.st 5 3 3 0 0) (withRegs (poke relaxed [(0x20018, 0x01E000000000007D)]) [(3, 0x60000000)])
     let out := event .egressAcceptance [0, 0] host
     all [AMap.has s.reqs k, (s.req k).thread = 0, (s.th 0).uid = (s.req k).uid, (s.th 0).pending = [(9, k)], (s.th 0).twin = none,
      (gone.th 0).uid ≠ (s.req k).uid, (away.core (unitOfThread (s.req k).thread)).forward = [(k, 1)],
      s.placeOfUid (s.req k).uid = some 0, AMap.has (posting.core 0).journal 0, posting.placeOfUid (posting.jentry 0 0).uid = some 0,
      (host.reqOfEntry 0 0).isSome, (match host.reqOfEntry 0 0 with
        | some r => !host.earlier (host.req r).uid r ((host.req r).parts.map wordOf) && !(upTo (host.req r).parts.length).all (host.mayPerform r (host.req r))
        | none => false),
      (match out.reqOfEntry 0 0 with
        | some r => (upTo (out.req r).parts.length).all (out.mayPerform r (out.req r)) &&
            (out.performParts (out.req r).op 0 (out.req r).parts).2.all (fun a => !a.poison)
        | none => false)]) = true := by decide +kernel

/-- Two twins in slots 0 and 1 of core 0, the primary's message sent. -/
def twins : State :=
  let s := user.updTh 0 (fun th => { th with twin := some (1, false) })
  s.setTh 1 { s.th 0 with twin := some (0, true), uid := 2 }

/-- TrapsFreezeAndRecord: a thread of an ordinary slot, of a skerry, of a handler slot; one without a buddy, a handler or an
RCB; messages of twins that have both, or one, arrived. -/
theorem witness_traps :
    (let nobuddy := user.updCore 0 (fun c => { c with pairt := some 5 })
     let m : PairMsg := { primary := 0, secondary := 1, hashP := some 5, hashS := some 5 }
     let both := { twins with pairs := [(0, m)], ev := [0] }
     let one := { twins with pairs := [(0, { m with hashS := none })], ev := [0, 0] }
     all [(user.th 0).twin = none, slotOfThread 0 ≠ 63, isSkerry (unitOfThread skerry.focus), slotOfThread handler.focus = 63,
      !isSkerry (unitOfThread handler.focus), user.buddy 0 = some 1, effHandler user (me user).root (me user).rcb = some 0x30000,
      nobuddy.buddy 0 = none, effHandler (poke user [(0x40028, 0)]) (me user).root (me user).rcb = some 0,
      (twins.th 0).twin = some (1, false), (twins.th 1).twin = some (0, true),
      both.pairs.find? (fun p => p.1 = both.arg 0) = some (0, m), ({ m with hashS := some 6 } : PairMsg).hashS ≠ m.hashP,
      (one.th (if ({ m with hashS := none } : PairMsg).hashP.isSome then 0 else 1)).msgNo = one.arg 1]) = true := by decide +kernel

/-- A thread that has trapped; its record accepted at core 1; its handler running there. -/
def trapped : State := next .sysBreak user
def sent : State := event .trapRecordDelivery [0] trapped
def handling : State := { event .handlerFill [1] sent with focus := 1 * 64 + 63 }

/-- HeldCausesAndRecordsAreDelivered: a held cause of each kind; a queue with room and a full one; a handler slot that is
free and one that is not. -/
theorem witness_records :
    (let h : Held := { cause := cPOSTREF, info := 0, addr := 0, data := 0 }
     let e : Held := { h with cause := cENGFAULT }
     let s := user.updTh 0 (fun th => { th with held := [e, h] })
     let full := trapped.updCore 1 (fun c => { c with deliveries := ((sent.core 1).deliveries.flatMap (fun d => [d, d, d, d])) })
     all [(s.th 0).held.find? (fun x => x.cause = cPOSTREF) = some h, (s.th 0).status = .run, (s.th 0).park = none,
      ((user.updTh 0 (fun th => { th with held := [e] })).th 0).held.head? = some e,
      (trapped.core 0).resends.map (·.1) = [1], (trapped.core 1).deliveries.length < 4, (full.core 1).deliveries.length = 4,
      (sent.core 1).deliveries.length = 1, (sent.th (64 + 63)).status = .free, (handling.th (64 + 63)).status ≠ .free]) = true := by
  decide +kernel

/-- HandlersResumeAndKill: a handler that handles a frozen thread, with and without an entry of the journal, with posted
entries and without; no handler; a value out of range. -/
theorem witness_handlers : all [
    (handling.th handling.focus).handles = some 0, (handling.th 0).status = .frozen, (handling.th 0).recEntry = none,
    (handling.th 0).twin = none, rdy .sysTres handling, rdy (.sysTkill 0) handling, rdy (.sysTkill 3) (withRegs handling [(3, 2)]),
    inHandler handling.focus, handling.posted handling.focus = [], (me handling).pageReq = none, rdy .sysTres super,
    rdy (.sysTkill 3) super, !inHandler super.focus, handling.settledPosts 0, (handling.th 0).task = 0, !inServer 0] = true := by decide +kernel

theorem witness_handlers_posted :
    (let k := handling.updTh 0 (fun th => { th with recEntry := some (0, 3) })
     let p := { handling with units := AMap.set handling.units 0 (posting.core 0) }
     let m := handling.setCore 1 { handling.core 1 with journal := [(0, { uid := (me handling).uid })] }
     all [(k.th 0).recEntry = some (0, 3), rdy .sysTres k, !p.settledPosts 0, rdy (.sysTkill 0) p, m.posted m.focus ≠ [], rdy .sysTres m]) =
      true := by decide +kernel

/-- A thread of the region in slot 2 of core 0, which `sys.pre` can save. -/
def preemptible : State := super.setTh 2 { (user.th 0) with uid := 9, base := 112, lim := 16, regs := [(5, 77)] }
/-- The same once saved: its record stands at 0x100000. -/
def saved : State := next (.sysPre 9 6 8) preemptible

/-- ThreadsAreSavedAndRestored: each target and each answer of `sys.pre`; a record that can be restored, with and without
its cache; a context that has waited long enough, and not; an area with a record and one without. -/
theorem witness_preemption :
    (let k : Nat → Nat := fun _ => 1000
     let pre (v r : Word) (s : State) : State := withRegs s [(5, v), (4, r)]
     let i := Instr.sysPre 9 5 4
     let root := (me super).root
     let area (b l : Word) : State := poke preemptible [(0x40038, b), (0x40040, l)]
     let fullArea := poke (area 0x100000 0x400) [(0x100000, 0x8000000000000000)]
     let uncached := saved.updCore 0 (fun c => { c with cache := [] })
     let u := mkSkerry 0 0
     let m : Message := { thread := { (user.th 0) with lim := 16, pending := [] }, source := 0, dest := u, buffered := true }
     let waiting := { (user.updCore u (fun c => { c with inbound := [77] })) with msgs := [(77, m)], ev := [u], now := 16000 }
     let spilled := event .inboundSpill [u] waiting
     all [rdy i (pre 128 0 preemptible), rdy i (pre 64 0 preemptible), rdy i (pre 64 0x100000 saved), (match saved.restore k 0 root 0x100000 with | .ok _ => true | _ => false),
      (match saved.restore k 0 root 8 with | .fails => true | _ => false), rdy i (pre 0 0 preemptible), rdy i (pre 63 0 preemptible), rdy i (pre 3 0 preemptible),
      rdy i (pre 2 0 preemptible), (preemptible.th 2).status = .run, (preemptible.th 2).park = none, (preemptible.th 2).pending = [],
      preemptible.posted 2 = [], (preemptible.th 2).held = [], (preemptible.th 2).twin = none,
      saveArea preemptible root 0x40000 = some (0x100000, 0x2000), saveArea (area 8 0x2000) root 0x40000 = none, saveArea fullArea root 0x40000 = some (0x100000, 0x400),
      (match scanFree preemptible k root 0x100000 8 with | .found _ _ _ => true | _ => false),
      (match scanFree fullArea k root 0x100000 1 with | .full => true | _ => false),
      (match scanFree preemptible k root 0x60000000 1 with | .fault => true | _ => false)] && all [
      walk saved root 0x100000 = some (0x7D, 2), isCanonical 0x100000, (saved.read64 (dram 0x100000)).getLsbD 63,
      !(saved.read64 (dram 0x100400)).getLsbD 63, uncached.savedRecord (dram 0x100000) = none, rcbUsable uncached root 0x40000,
      saveArea uncached root 0x40000 = some (0x100000, 0x2000), unitInBudget uncached 0 root 0x40000,
      (uncached.read64 (dram 0x100000)).toNat % 128 = 16, uncached.fillPlace 0 16 root 0x40000 false = some (1, 112),
      (waiting.message 77).isSome, (user.core u).inbound = [], (waiting.core u).inbound = [77], m.arrived + 16000 ≤ waiting.now,
      saveArea waiting root 0x40000 = some (0x100000, 0x2000), (withArea (waiting.core u).spill 0x100000 0x2000 root 0x40000).isSome,
      (spilled.core u).spill ≠ [],
      (match (scanAreas spilled k (tidOfPlace 0 (u * 64)) (spilled.core u).spill).2 with | .ok (some p) => p = (root, 0x100000) | _ => false),
      (match (scanAreas waiting k (tidOfPlace 0 (u * 64)) []).2 with | .ok none => true | _ => false),
      !uncached.recordLost (dram 0x100000), (uncached.recordShut k 0x100000 0x7D 2).isNone, (uncached.rcbShut root 0x40000).isNone,
      ((saved.core 0).cache.find? (fun c => c.loc = dram 0x100000 && c.cached)).isSome, (waiting.overdue u).length = 1,
      !waiting.spillWaits u 77, m.thread.held = [], m.thread.pending = [], (waiting.rcbShut root 0x40000).isNone]) = true := by decide +kernel

/-- A launch record at 0x61000 with a number of threads and tasks: a thread on core 2 of cluster 0, the task of s4. -/
def launching (counts : Word) (s : State) : State :=
  let s := poke s [(0x61000, probePointer 0 1), (0x61008, 0x40000), (0x61010, counts), (0x61020, 0x30000), (0x61028, 0x02000010)]
  let s := if counts = 0x10000 then poke s [(0x61020, 0x50040), (0x61028, 0x800000000)] else s
  { s with pkg := { s.pkg with launchQ := [0x61000] } }

/-- The words of the record at 0x61000, and those of its first task's descriptor. -/
def recordOf (s : State) : AMap Word := match s.takeRecord 0x61000 with | .ok (_, got) => got | .error _ => []
def taskWords (s : State) : List Word :=
  let r := LRecord.ofWords (recordOf s)
  match descLoc s r.root (r.tasks.headD (0, 0)).1 with | some (_, l) => descOffs.map (fun o => s.read64 (l + o)) | none => []

/-- ContainmentsAreQueuedAndCarriedOut, LaunchesPushAndFill: a full queue, an RCB that is none, one that is; a lift, a round
that ends and one that goes on; a record that fails its check, one with a task refused and taken, one with a thread, a fill
that has waited and one that has not. -/
theorem witness_package :
    (let full := user.setPkg { user.pkg with contQ := [0, 0, 0, 0, 0, 0, 0, 0] }
     let top (w : Word) (s : State) : State := s.setPkg { s.pkg with contQ := [w], contained := [0x40000] }
     let full16 := user.setPkg { user.pkg with launchQ := (upTo 16).map (fun _ => 0) }
     let wait (t : Nat) : State := { user with now := t, pkg := { user.pkg with launching := some { rcb := 0, root := 0, tasks := [], threads := [], since := 0 } } }
     let q := top 0x40000 queue0
     let checked (s : State) : Option Nat := launchCheck s 0x61000 (recordOf s)
     let task (s : State) : Word × Word := (LRecord.ofWords (recordOf s)).tasks.headD (0, 0)
     let pushed (s : State) : Bool := (launchPush s (LRecord.ofWords (recordOf s)).root (task s).1 (task s).2 (taskWords s)).isSome
     let waits (s : State) : Bool := (s.launchShut (s.numberAt 0) (LRecord.ofWords (recordOf s)).root (task s).2 (taskWords s)).isSome
     let thread := LThread.ofWords [0x30000, 0x02000010, 0, 0, 0, 0]
     let t := launching 0x10000 queue0
     all [8 ≤ full.pkg.contQ.length, !(user.rootsHeld.any (fun root => rcbOk user root 0)), user.rootsHeld.any (fun root => rcbOk user root 0x40000),
      user.pkg.contQ = [], ((0x40001 : Word).getLsbD 0), (top 0x40001 user).pkg.contQ = [0x40001], ((top 0x40000 user).containRound 0x40000).2,
      !((top 0x40000 posting).containRound 0x40000).2, rcbUnder q (q.queue 1).root 0x40000 treeDepth (q.queue 1).rcb,
      (q.queue 1).configured, user.pkg.bootState ≠ 2, full16.pkg.launchQ.length = 16, (launching 1 user).pkg.launching = none,
      (checked (launching 0x100000000 user)).isSome, checked (launching 1 user) = none, checked (launching 0x10000 queue0) = none,
      checked (launching 0x10000 (tasks 0)) = none, !pushed (launching 0x10000 (tasks 0)), pushed t, (LRecord.ofWords (recordOf t)).threads = [], recordWhole (recordOf t),
      !waits t, waits (t.updCore (mkSkerry 0 0) (fun c => { c with bankOn := true })), (match t.takeRecord 0x61000 with | .ok _ => true | .error _ => false),
      (match (t.updCore (unitOfLoc (t.recordLoc 0x61000 16)) (fun c => { c with bankOn := true })).takeRecord 0x61000 with | .ok _ => false | .error _ => true),
      (let shut := t.updCore (mkSkerry 0 0) (fun c => { c with bankOn := true })
       (shut.rcbShut (LRecord.ofWords (recordOf t)).root (LRecord.ofWords (recordOf t)).rcb (shut.numberAt 0)).isSome),
      (LRecord.ofWords (recordOf (launching 1 user))).threads = [[0x30000, 0x02000010, 0, 0, 0, 0]],
      launchPlaces user (me user).root 0x40000 thread = [(2 * 64, 0)],
      (launchFill user (me user).root 0x40000 thread).isSome] && all [
      (match (wait 8000000).pkg.launching with | some x => x.since + 8000000 ≤ (wait 8000000).now | none => false),
      (match (wait 7999999).pkg.launching with | some x => (wait 7999999).now < x.since + 8000000 | none => false)]) = true := by decide +kernel

/-- HostAccessesReachTheirWord: an offset at each end of both ranges, an open home and a closed one, a poisoned word, a write
under way. -/
theorem witness_host :
    (let at_ (ev : List Nat) : State := { user with ev := ev }
     let l := placeDram 0 0 0 0x50000
     let shut := (at_ [0, 0x50000, 255, 5]).updCore (mkSkerry 0 0) (fun c => { c with bankOn := true })
     all [(user.hostLoc 7 (120 * 2 ^ 30 - 1)).isSome, (user.hostLoc 8 (120 * 2 ^ 30)).isSome, (user.hostLoc 7 (120 * 2 ^ 30)).isNone,
      (user.hostLoc 11 (480 * 2 ^ 30)).isNone, (user.hostLoc 12 0).isNone, user.pkg.bootState ≠ 2,
      !(at_ [0, 0x50000]).hostShut user.fresh l, shut.hostShut user.fresh l, (user.setPoison l true).isPoison l 8, !user.isPoison l 8,
      !user.timers.any (fun x => x.2.1 = .hostMemWrite), (event .hostMemWrite [0, 0x50000, 255, 5] shut).timers.any (fun x => x.2.1 = .hostMemWrite)]) =
      true := by decide +kernel

/-- BeaconKeepsTime, HostRegistersTelemetryAndAttestation, LinksAndPowerAct, BootAndResetLeaveTheResetState: each state of
the Beacon, of the telemetry ring, of an attestation, of a link, of the power controller and of the boot. -/
theorem witness_registers :
    (let p (f : Pkg → Pkg) : State := { user with pkg := f user.pkg, ev := [0] }
     let locked := p (fun x => { x with beacon := .locked, bctlEn := true })
     all [user.pkg.beacon = .free, !user.pkg.bctlEn, (p (fun x => { x with bctlEn := true })).pkg.bctlEn, locked.offset = 0,
      (p (fun x => { x with beacon := .holdover })).pkg.beacon = .holdover,
      1000000 ≤ ({ p (fun x => { x with beacon := .holdover, holdSince := 0 }) with now := 160000000000000 }).terr.toNat,
      !user.pkg.tlCtl.getLsbD 4, (p (fun x => { x with tlCtl := 0x10 })).pkg.tlCtl.getLsbD 4,
      (p (fun x => { x with tlCtl := 0x10, tlHead := 1 })).pkg.tlHead - 0 = 2 ^ (0x10 % 16),
      user.pkg.astat ≠ 1, user.pkg.fuse < 32768, (next .adoorWrite user).pkg.astat = 1, (p (fun x => { x with bootState := 2 })).pkg.bootState = 2,
      !user.pkg.fabLock, (p (fun x => { x with fabLock := true })).pkg.fabLock, !user.pkg.linkst.getLsbD (user.arg 0),
      (event .linkUp [3, 5] user).pkg.linkst.getLsbD 3, 4 % 2 ^ 16 / 4 ≠ 0, user.pkg.rampUp = 50,
      State.reset.pkg.bootState = 0, State.reset.pkg.verified = 0, 0xC0DE0001 ≠ (user.arg 0), (user.elsewhere (locHost 0)),
      !user.elsewhere 0]) = true := by decide +kernel

/-- AStepRunsTheFetchedWord, FetchesAndChoicesComeInTheirOrder: a unit's cycle that issues, with a word that is fetched, that fails to, that is none and that
sets an unused bit; a resumed thread; an agenda; an interrupted park; a rebuild that is due. -/
theorem witness_step :
    (let s := user.withFetchWord 32 0x0C195007
     let s0 := { s with plan := [] }.catchUp 0
     let si := s0.issue 0 0
     let far := (poke s []).updTh 0 (fun th => { th with pc := 0x60000000 })
     let f0 := ({ far with plan := [] }.catchUp 0).issue 0 0
     let held : Held := { cause := cENGFAULT, info := 0, addr := 0, data := 0 }
     let parked := (next (.waitJz 3 31) (poke user [(0x50000, 9)])).updTh 0 (fun th => { th with held := [held] })
     let late := user.updCore 0 (fun c => { c with cycle := 6400, rebuilt := 0 })
     all [s.resume = none, s.plan.head? = some (.cycle 0), s.pkg.bootState = 1, s.busyUnits = [0], s0.dueFirst 0 = none, s0.pickSlot 0 = some 0,
      (si.th 0).held = [], !inServer 0, (match si.fetch 0 with | .word w _ => w = 0x0C195007#32 | _ => false),
      (match (si.updTh 0 (fun th => { th with pc := 0x30002 })).fetch 0 with | .trap c => c = cALIGN | _ => false),
      (match (si.updTh 0 (fun th => { th with pc := 0xFE00000000000000 })).fetch 0 with | .trap c => c = cPROT | _ => false),
      !isWindow (si.th 0).pc, (match threadResolve si 0 0x30000 .x with | .ok l => l = dram 0x30000 | _ => false),
      !si.fetchShut (si.arrivalOf 0 (dram 0x30000)) (dram 0x30000), (si.cachedWord 0 (dram 0x30000)).isNone, (si.aheadWord 0 (dram 0x30000)).isNone,
      si.fetchable (dram 0x30000), !si.channelShut 0 (dram 0x30000), si.wordAt (dram 0x30000) = 0x0C195007#32,
      (let shut := si.updCore (mkSkerry 0 0) (fun c => { c with bankOn := true })
       shut.fetchShut (shut.arrivalOf 0 (dram 0x30000)) (dram 0x30000) && match shut.fetch 0 with | .wait l => l = dram 0x30000 | _ => false),
      !(si.setPoison (dram 0x30000) true).fetchable (dram 0x30000),
      (let own := (skerry.updCore (mkSkerry 0 0) (fun c => { c with bankOn := true }))
       own.channelShut (mkSkerry 0 0) (dram 0x30000) && (own.aheadWord own.focus (dram 0x30000)).isNone),
      !(s.th 0).retried] && all [
      s.executes 0 (.andi 3 21 7), decode 0x0C195007 = some (.andi 3 21 7), !s.executes 0 (.andi 3 124 7),
      (let d := next (.aluDiv 9 3 5) user
       (d.th 0).status = .park && (d.th 0).park.map (·.await) = some .divider && !((d.abandon 0).th 0).retried),
      outsideEvent .beaconLock, travelling.agenda[0]?.isSome, s.boundaries.agenda.isEmpty, parked.boundaries.interrupted = some 0,
      (let w := next (.waitJz 3 31) (poke user [(0x50000, 9)])
       let w := poke w [(0x50000, 0)]
       w.boundaries.agenda = [] && w.boundaries.interrupted = none && w.boundaries.woken.isSome),
      decodeRaw 0x0C195007 = some (.andi 3 21 7),
      encode (.andi 3 21 7) = 0x0C195007, decodeRaw 0xFFFFFFFF = none, (decodeRaw 0x70001009).map encode = some 0x70000009,
      (match threadResolve f0 0 0x60000000 .x with | .error c => c = cPAGE | _ => false), (event .awaitedEvent [0] (poke parked [(0x50000, 0)])).resume = some 0,
      travelling.agenda ≠ [], ({ parked with plan := [] }).interrupted = some 0, late.dueFirst 0 = some .rebalance]) = true := by decide +kernel

/-- CausesComeInTheirOrder: each row of R48, on each kind of unit. -/
theorem witness_causes : all [
    !isSkerry (here user), engineOf .bmacOpen = some 6, engineOf (.pmigCommit 0) = some 7, isSkerry (here skerry), !isHolm (here skerry),
    returnsOnSkerry (.tblSeal), engineOf (.tblSeal) = none, inServer server.focus, !inServer skerry.focus,
    !wellFormed (.csk 13 1 3 5), misusesPfx (.aluAdd 9 3 5) (me relaxed).st, overLimit (.aluAdd 9 3 5) 8, privileged (.sysTlbAll 3),
    !(me user).st.mode, (me super).st.mode, (absentClass (.aluAdd 9 3 5) skerry.focus).isNone] = true := by decide +kernel

/-- OperandsAndFramesHold: a destination of each kind of register, sources of each kind. -/
theorem witness_operands : all [
    (120 : BitVec 7).toNat = 120, srcRegs (.aluAdd 9 3 124) = [3, 124], (124 : BitVec 7).toNat = 124, !(srcRegs (.aluAdd 9 3 5)).any isSpecial,
    !(vecSrcs (.aluAdd 9 3 5)).any (fun x => (vstreamOf x).isSome), (me user).twin = none] = true := by decide +kernel

/-- EveryStepKeepsTheCanonicalForm: a canonical state that steps; ResetHasTheInvariants has no hypotheses. -/
theorem witness_canonical : Memory.wf user.mem = true ∧ user.empties = [] ∧ user.poison = [] ∧ user.schedule.1 = some (.trap) := by decide +kernel

/-- EveryStepKeepsTheNumbers: a state that has them, and a queue and a context that are not empty. -/
theorem witness_numbers : user.Numbered ∧ (queue2.queue 1).Numbered ∧
    ({ issued := 3, tl := 1, cmds := [{ n := 2, opn := 3, a := 0, b := 0, regs := [] }, { n := 3, opn := 3, a := 0, b := 0, regs := [] }] } : Ctx).Numbered ∧
    ({ banks := [(5, 1), (6, 1)] } : Home).Reserved := by
  refine ⟨⟨fun _ => ?_, fun _ => ?_, fun _ => ?_⟩, ?_, ?_, ?_⟩
  · show ({} : Queue).Numbered
    unfold Queue.Numbered
    decide
  · show ({} : Ctx).Numbered
    unfold Ctx.Numbered
    decide
  · show ({} : Home).Reserved
    unfold Home.Reserved
    decide
  · unfold Queue.Numbered
    decide +kernel
  · unfold Ctx.Numbered
    decide
  · unfold Home.Reserved
    decide

/-! ### Single steps, with results worked out from the spec -/

/-- s3 = -7 and s5 = 66, whose low six bits are 2. -/
def numbers : State := withRegs user [(3, 0xFFFFFFFFFFFFFFF9), (5, 66), (8, 0)]

/-- R50. -/
theorem test_alu :
    [Instr.aluAdd 9 3 5, .aluSub 9 3 5, .aluMul 9 3 5, .aluMulh 9 3 5, .aluMulhu 9 3 5, .aluAnd 9 3 5, .aluOr 9 3 5, .aluXor 9 3 5,
      .aluAndn 9 3 5, .aluSll 9 3 5, .aluSrl 9 3 5, .aluSra 9 3 5, .aluRol 9 3 5, .aluSlt 9 3 5, .aluSltu 9 3 5, .aluMin 9 3 5,
      .aluMax 9 3 5, .aluMinu 9 3 5, .aluMaxu 9 3 5, .aluClz 9 5, .aluCtz 9 5, .aluPopc 9 3].map (fun i => reg i numbers 9) =
    [59, 0xFFFFFFFFFFFFFFB7, 0xFFFFFFFFFFFFFE32, 0xFFFFFFFFFFFFFFFF, 65, 64, 0xFFFFFFFFFFFFFFFB, 0xFFFFFFFFFFFFFFBB, 0xFFFFFFFFFFFFFFB9,
      0xFFFFFFFFFFFFFFE4, 0x3FFFFFFFFFFFFFFE, 0xFFFFFFFFFFFFFFFE, 0xFFFFFFFFFFFFFFE7, 1, 0, 0xFFFFFFFFFFFFFFF9, 66, 66,
      0xFFFFFFFFFFFFFFF9, 57, 1, 62] := by decide +kernel

/-- R51, R52: the divider's answers, for a divisor of 2 and of 0. -/
theorem test_division :
    (let run (i : Instr) : Word := reg .dividerResult { next i (withRegs numbers [(6, 2)]) with ev := [0] } 9
     [Instr.aluDiv 9 3 6, .aluRem 9 3 6, .aluDivu 9 3 6, .aluRemu 9 3 6, .aluDiv 9 3 8, .aluRem 9 3 8, .aluDivu 9 5 8, .aluRemu 9 5 8].map run) =
    [0xFFFFFFFFFFFFFFFD, 0xFFFFFFFFFFFFFFFF, 0x7FFFFFFFFFFFFFFC, 1, 0xFFFFFFFFFFFFFFFF, 0xFFFFFFFFFFFFFFF9, 0xFFFFFFFFFFFFFFFF, 66] := by
  decide +kernel

/-- R53, R54, R55: the immediates, at the ends of their ranges. -/
theorem test_immediates :
    [Instr.addi 9 3 0xFFF, .andi 9 3 0x0F, .ori 9 3 6, .xori 9 3 0xFFF, .shiSlli 9 3 63, .shiSrli 9 3 60, .shiSrai 9 3 63, .shiRoli 9 3 4,
      .lui 9 0x40000, .lui 9 0x3FFFF, .auipc 9 1].map (fun i => reg i numbers 9) =
    [0xFFFFFFFFFFFFFFF8, 9, 0xFFFFFFFFFFFFFFFF, 6, 0x8000000000000000, 15, 0xFFFFFFFFFFFFFFFF, 0xFFFFFFFFFFFFFF9F, 0xFFFFFFFFC0000000,
      0x3FFFF000, 0x31000] := by decide +kernel

/-- R41, R56 to R60: skips, branches and jumps from 0x30000. -/
theorem test_control :
    [Instr.csk 0 3 5 5, .csk 0 3 3 5, .csk 2 1 3 5, .csk 4 1 3 5, .cski 6 2 5 6, .cski 1 1 5 66, .br 2 3 0x7FFF, .br 3 3 5, .br 6 0 0x4000, .j 2,
      .jl 0x3FFFFFF, .jr 0 5 2].map (fun i => pcOf i numbers) =
    [0x30010, 0x30004, 0x30008, 0x30004, 0x3000C, 0x30004, 0x2FFFC, 0x30004, 0x20000, 0x30008, 0x2FFFC, 0x44] ∧
    reg (.jl 5) numbers 1 = 0x30004 ∧ trapOf (.jr 9 5 0) numbers = (5, 4, 66) := by decide +kernel

/-- R57: a csk of a quiet NaN as unequal, and one that raises NV (R80). -/
theorem test_csk_float :
    (let s := withRegs user [(3, 0x7FC00000), (4, 0x3F800000)]
     [pcOf (.csk 9 1 3 4) s, pcOf (.csk 10 1 3 4) s, pcOf (.csk 12 1 3 4) s] = [0x30008, 0x30004, 0x30008] ∧
     [fpf (.csk 9 1 3 4) s, fpf (.csk 10 1 3 4) s] = [0, 16]) := by decide +kernel

/-- R10, R11: s0 stays 0; a register at the limit traps REGRANGE. R48: the causes in their order. -/
theorem test_operand_causes :
    reg (.addi 0 3 1) user 0 = 0 ∧
    (trapOf (.aluAdd 9 3 16) (user.updTh 0 (fun th => { th with lim := 16 }))).1 = 3 ∧ (trapOf (.sysTlbAll 8) user).1 = 4 ∧
    (trapOf (.csk 13 1 3 4) user).1 = 2 ∧ (trapOf .bmacOpen user).1 = 0x17 ∧ (trapOf (.aluAdd 9 3 4) relaxed).1 = 2 ∧
    status (.tblSeal) skerry = .migrating := by decide +kernel

/-- R20, R62: bytes in little-endian order, extended or not; a half word stored alone. -/
theorem test_load_store :
    (let s := poke user [(0x50000, 0x80F1)]
     [reg (.ld 9 3 0 1 0 1) s 9, reg (.ld 9 3 0 0 0 1) s 9, reg (.ld 9 3 1 0 0 0) s 9, reg (.ld 9 4 1 1 0 0xE0) s 9, reg (.ld 9 3 3 0 0 0) s 9] =
       [0xFFFFFFFFFFFFFF80, 0x80, 0x80F1, 0xFFFFFFFFFFFF80F1, 0x80F1] ∧
     (next (.st 4 3 1 0 1) s).read64 (dram 0x50000) = 0x004080F1 ∧ trapOf (.ld 9 3 3 0 0 0) (withRegs s [(3, 0x50004)]) = (5, 1, 0x50004) ∧
     trapOf (.st 4 3 2 0 0) (withRegs s [(3, 0x60000000)]) = (6, 2, 0x60000000) ∧
     trapOf (.ld 9 3 3 0 0 0) (withRegs s [(3, 0x20000000)]) = (7, 1, 0x20000000)) := by decide +kernel

/-- R169: vectors stored and loaded by blocks of 32 bytes. -/
theorem test_vmem :
    (let s := next (.vmemSt 2 3 0 0 1) (withRegs user [(12, 5), (15, 6)])
     s.read64 (dram 0x50020) = 5 ∧ s.read64 (dram 0x50038) = 6 ∧ reg (.vmemLd 1 3 0 0 1) s 11 = 6) := by decide +kernel

/-- R186: a full word taken, set and told of; an empty one waits. -/
theorem test_full_empty :
    (let l := dram 0x50000
     let e := user.setFull l false
     (next (.felWfs 9 3 31 0) (poke user [(0x50000, 3)])).full l = false ∧ reg (.felWfs 9 3 31 0) (poke user [(0x50000, 3)]) 9 = 3 ∧
     reg (.felWfe 9 3 31 0) (poke user [(0x50000, 3)]) 9 = 3 ∧ wstOf (.felAny 9 3 0) e = 3 ∧ (next (.fesWes 5 3 31 0) e).full l = true ∧
     (next (.fesSete 5 3 0) user).full l = false ∧ (next (.fesSetf 5 3 0) e).read64 l = 7 ∧ status (.felWfe 9 3 31 0) e = .park ∧
     status (.fesWes 5 3 31 0) user = .park ∧ wstOf (.waitFe 9 3 31) user = 0) := by decide +kernel

/-- R190: memory holds -2, s5 is 7; the old word comes back, and what memory holds after. -/
theorem test_atomics :
    (let s := poke user [(0x50000, 0xFFFFFFFFFFFFFFFE)]
     let c := withRegs (poke user [(0x50000, 7)]) [(9, 7), (5, 20)]
     ([Instr.amoAdd 9 3 5, .amoAnd 9 3 5, .amoOr 9 3 5, .amoXor 9 3 5, .amoMin 9 3 5, .amoMax 9 3 5, .amoMinu 9 3 5, .amoMaxu 9 3 5,
       .amoSwap 9 3 5, .amoIncw 9 3 5].map (fun i => ((next i s).read64 (dram 0x50000), reg i s 9)) =
       [5, 6, 0xFFFFFFFFFFFFFFFF, 0xFFFFFFFFFFFFFFF9, 0xFFFFFFFFFFFFFFFE, 7, 7, 0xFFFFFFFFFFFFFFFE, 7, 0].map (fun v => (v, 0xFFFFFFFFFFFFFFFE))) ∧
     ((next (.amoCas 9 3 5) c).read64 (dram 0x50000), wstOf (.amoCas 9 3 5) c) = (20, 0) ∧
     ((next (.amoFaddb 9 3 5) c).read64 (dram 0x50000), wstOf (.amoFaddb 9 3 5) c) = (7, 4) ∧
     ((next (.amoFaddF32 9 3 5) (withRegs (poke user [(0x50000, 0x3F800000)]) [(5, 0x3F800000)])).read64 (dram 0x50000)) = 0x40000000) := by decide +kernel

/-- R181, R182, R193: what a relaxed access and an update leave. -/
theorem test_relaxed :
    ((next (.ld 9 3 3 0 0 0) relaxed).th 0).pending = [(9, relaxed.fresh)] ∧ (posting.jentry 0 0).va = 0x50000 ∧
    (posting.jentry 0 0).pc = 0x30004 ∧ (event .homeRequest [relaxed.fresh, 0] posting).read64 (dram 0x50000) = 7 ∧
    ((next (.rupdAdd 3 5) user).jentry 0 0).rupd = some 0 := by decide +kernel

/-- R74, R77, R80 to R83: a tie to even with NX, a product, a fused product, the minimum of the zeros, conversions. -/
theorem test_floating :
    (let s := withRegs user [(3, 0x3F800000), (4, 0x33800000), (5, 0x3FC00000), (6, 0x80000000), (9, 0x3F800000), (10, 0xFFFFFFFFFFFFFFFD)]
     [reg (.fpAdd 9 3 4) s 9, reg (.fpSub 9 3 5) s 9, reg (.fpMul 9 5 5) s 9, reg (.fpFma 9 5 5) s 9, reg (.fpMin 9 6 8) s 9, reg (.fpMax 9 6 8) s 9,
       reg (.fpItof 9 10) s 9, reg (.fpFtoi 9 5) s 9, reg (.fpCvt 9 3) (next (.pfxFmt 0 1 0 0) s) 9] =
       [0x3F800000, 0xBF000000, 0x40100000, 0x40500000, 0x80000000, 0, 0xC0400000, 2, 0x3C00] ∧
     [fpf (.fpAdd 9 3 4) s, fpf (.fpMul 9 5 5) s, fpf (.fpFtoi 9 5) s] = [1, 0, 1] ∧
     reg .dividerResult { next (.fpDiv 9 5 3) s with ev := [0] } 9 = 0x3FC00000 ∧
     fpf .dividerResult { next (.fpDiv 9 5 8) s with ev := [0] } = 8) := by decide +kernel

/-- R87 to R95: a commit, and codes of a sealed table with the elements 0 and 1.0. -/
theorem test_tables :
    (let s := withTable twoValues
     ((event .tableCommit [0] ((next (.tblWr 5 6) user).updCore 0 (fun c => { c with cycle := 100 }))).core 0).table.entry 7 = 2 ∧
     reg (.tblEnc 9 3) (withRegs s [(3, 0x3F400000)]) 9 = 1 ∧ fpf (.tblEnc 9 3) (withRegs s [(3, 0x3F400000)]) = 1 ∧
     reg (.tblDec 9 9) s 9 = 0x3F800000 ∧ reg (.tblRd 9 9) s 9 = 0x1FC00 ∧ (trapOf (.tblEnc 9 3) user).1 = 0x11 ∧
     (trapOf (.tblNansub 3) (withRegs s [(3, 16)])).1 = 0x11 ∧ status .tblSeal user = .park) := by decide +kernel
/-- AccessCausesComeInTheirOrder: every access at a misaligned, a non-canonical, a window, an unmapped, a forbidden and a
host address, at a poisoned word; a drain, and a journal without room. -/
theorem witness_cause_orders :
    (let at_ (va : Word) (s : State) : State := withRegs s [(3, va)]
     let is := [Instr.st 5 3 3 0 0, .felWfe 9 3 4 0, .felWfs 9 3 4 0, .felAny 9 3 0, .fesWes 5 3 4 0, .fesSetf 5 3 0, .fesSete 5 3 0,
       .waitFe 9 3 4, .amoAdd 9 3 5, .amoCas 9 3 5, .amoFaddb 9 3 5, .amoFaddF32 9 3 5, .rupdAdd 3 5, .rupdFaddF32 3 5,
       .vmemLd 2 3 0 1 0, .vmemSt 2 3 0 1 0]
     let l := dram 0x50000
     let host := poke user [(0x20018, 0x01E000000000007D)]
     let p := user.setPoison l true
     let root := (me user).root
     let far : Word := 0x80000000000000
     all [[0x50004, far, 0xFE00000000006000, 0x60000000, 0x20000000, 0x40000000].all (fun va => is.all (fun i => rdy i (at_ va user))),
      far.toNat % 8 = 0, !isWindow far, !isCanonical far, isWindow 0xFE00000000006000,
      !windowOk user root 0x40000 0xFE00000000006000, leafOf user 0 root 0x60000000 = none,
      (leafOf user 0 root 0x40000000).map (fun e => grants e.1 .w true) = some false, walk user root 0x40000000 = leafOf user 0 root 0x40000000,
      found (addrOf host 0 0x60000000 8 .w true) (locHost 0), found (addrOf host 0 0x60000000 8 .rw false) (locHost 0),
      found (addrOf host 0 0x60000000 8 .r false) (locHost 0), isHost (locHost 0), is.all (fun i => rdy i (at_ 0x60000000 host)),
      is.all (fun i => rdy i p), p.isPoison l 1, !isSlotWin l, served p (.fel 0 9) [l] && served p (.fel 1 9) [l], served p (.amo 0 7 0 9) [l],
      served (p.setFull l false) (.fel 2 9) [l], rdy (.st 5 3 0 0 0) p, served p (.store 1 7) [l],
      found (addrOf p 0 0x50000 1 .w true) l, found (addrAtDevice posting 0 0x50000 8 .w false) l, posting.posted 0 ≠ [],
      rdy (.fesSetf 5 3 0) posting] && all [
      (let full := user.updCore 0 (fun c => { c with journal := (upTo 64).map (fun k => (k, {})) })
       rdy (.rupdAdd 3 5) full && full.freeEntries 0 = 0 && found (addrAtDevice full 0 0x50000 8 .rw false) l),
      (match blockLocs p 0 0x50000 1 .r with
        | .ok ls => ls = [l, l + 32] && (wordsOf ls).headD 0 = l && served p (.vload 2 1) (wordsOf ls)
        | .error _ => false),
      (let edge := 0x5FFFFFE0
       isCanonical edge && (leafOf user 0 root edge).isSome && leafOf user 0 root (edge + 32) = none && rdy (.vmemLd 2 3 0 1 0) (at_ edge user)),
      0x6000 < (0xFE00000000005FE0 : Word).toNat % 2 ^ 15 + 32 * 2, windowOk user root 0x40000 0xFE00000000005FE0]) = true := by decide +kernel

/-- AccessCausesComeInTheirOrder, delegation and migration: each address that traps, a drain, a full call queue, a full
journal, the server slot, too few forwarding entries. -/
theorem witness_call_orders :
    (let u := mkSkerry 0 0
     let at_ (va : Word) (s : State) : State := withRegs s [(3, va)]
     let host := poke user [(0x20018, 0x01E000000000007D)]
     let c := { (next (.dlgCall 9 3 7) user) with focus := 0 }
     let call := ((c.core u).dlgq.head?).map (fun x => (upTo 64).map (fun _ => x))
     let full := user.updCore u (fun x => { x with dlgq := call.getD [] })
     let noRoom := user.updCore 0 (fun c => { c with journal := (upTo 64).map (fun k => (k, {})) })
     let is := [Instr.dlgCall 9 3 7, .dlgPost 3 7, .mig 3 0x7FFF]
     let pend := user.updTh 0 (fun th => { th with pending := [(20, 90)] })
     let tight := pend.updCore 0 (fun c => { c with forward := (upTo 16).map (fun k => (k + 100, 1)) })
     all [[0xFE00000000000000, 0x80000000000000, 0x60000000, 0xFE00000000006000].all (fun va => is.all (fun i => rdy i (at_ va user))),
      is.all (fun i => rdy i (at_ 0x60000000 host)), (leafOf host 0 (me host).root 0x60000000).map (fun e => isHost (locOfLeaf 0x60000000 e.1 e.2)) = some true,
      is.all (fun i => rdy i posting && rdy i full && rdy i noRoom), posting.posted 0 ≠ [], found (dlgAddr posting 0 0x50000) (dram 0x50000),
      64 ≤ (full.core u).dlgq.length, full.posted 0 = [], full.homeUnit (dram 0x50000) = some u, found (dlgAddr full 0 0x50000) (dram 0x50000),
      noRoom.freeEntry 0 = none, (noRoom.core u).dlgq.length < 64, found (dlgAddr noRoom 0 0x50000) (dram 0x50000),
      rdy (.dlgPost 3 7) server, rdy (.mig 3 0x7FFF) server, inServer server.focus, rdy (.mig 3 0x7FFF) tight,
      tight.heldBack 0 = some (.regs [20]), tight.posted 0 = [], !tight.destRefused 0 (dram 0x50000), found (migAddr tight 0 0x50000) (dram 0x50000),
      u ≠ here tight, found (migAddr posting 0 0x50000) (dram 0x50000)]) = true := by decide +kernel

/-- MigrationsMoveTheContext, `.g` accesses to a word homed elsewhere: one that moves, one refused, one that drains; the server
slot. -/
theorem witness_g_forms :
    (let is := [Instr.ld 9 3 3 0 1 0, .st 5 3 3 1 0, .vmemLd 2 3 1 0 0, .vmemSt 2 3 1 0 0]
     let l := dram 0x50000
     let shut := poke user [(0x40010, 0x3F610080)]
     all [is.all (fun i => rdy i user && rdy i shut && rdy i posting), user.homeUnit l = some (mkSkerry 0 0), here user ≠ mkSkerry 0 0,
      !user.destRefused 0 l, shut.destRefused 0 l, user.heldBack 0 = none, posting.heldBack 0 = some (.drain 2 false),
      !posting.destRefused 0 l, found (addrOf user 0 0x50000 8 .r true) l, found (addrOf posting 0 0x50000 8 .w true) l,
      found (addrOf shut 0 0x50000 8 .r true) l, (match blockLocs user 0 0x50000 0 .w with | .ok ls => ls.headD 0 = l | _ => false),
      rdy (.ld 9 3 3 0 1 0) server, rdy (.st 5 3 3 1 0) server, inServer server.focus, !isSlotWin l]) = true := by decide +kernel

/-- QueueEventsAct, notifications: an RCB that names a place, one that names none; within a window and past it; a closed home. -/
theorem witness_notifications :
    (let named := poke user [(0x40050, 0x50000), (0x40058, 5), (0x40060, 3)]
     let root := (me user).root
     let key := regionKey root 0x40000
     let l := dram 0x50000
     let soon := named.updHome 0 (fun h => { h with notified := [(key, 0)] })
     let put := soon.updHome 0 (fun h => { h with deferred := [key] })
     let shut (s : State) : State := s.updCore (mkSkerry 0 0) (fun c => { c with bankOn := true })
     all [user.notifyAt root 0x40000 = none, named.notifyAt root 0x40000 = some (l, 5), effNwin named root 0x40000 = some 3,
      !AMap.has (named.home 0).notified key, AMap.has (soon.home 0).notified key, 0 < soon.windowLeft 0 root 0x40000 3, named.windowLeft 0 root 0x40000 3 = 0, !named.ownShut named.fresh l,
      (named.rcbShut root 0x40000).isNone, ((shut named).rcbShut root 0x40000).isSome,
      (shut named).ownShut named.fresh l, (shut named).notifyAt root 0x40000 = some (l, 5), !(soon.home 0).deferred.contains key,
      (put.home 0).deferred.contains key, put.notifyAt root 0x40000 = some (l, 5), (shut put).ownShut named.fresh l]) = true := by decide +kernel

/-- RequestsArePerformedAndAnswered, interruptions: requests that may be cancelled and that may not, parks on a reply of each
kind, a division, an expansion request. -/
theorem witness_interruptions :
    (let k := user.fresh
     let shut := travelling.updCore (mkSkerry 0 0) (fun c => { c with bankOn := true })
     let held := event .homeRequest [k, 0] shut
     let fe := event .homeRequest [k, 0] (next (.felWfe 9 3 4 0) { (user.setFull (dram 0x50000) false) with split := true })
     let div := next (.aluDiv 9 3 5) user
     let xp := next (.xpClr 0) user
     let call := next (.dlgCall 9 3 7) user
     let mtx := next (.mtxAclr 0) (owning user)
     let parked (s : State) : Bool := (s.th 0).status = .park && (s.th 0).park.isSome
     let vst := (next (.vmemSt 2 3 0 0 0) { user with split := true })
     let part := event .homeRequest [k, 0] vst
     all [parked travelling, !travelling.cancellable k, !answered.cancellable k, (answered.req k).complete, !answered.waiting k,
      (travelling.req k).arrived = [], held.cancellable k, AMap.has (held.req k).arrived 0, (held.closed (dram 0x50000) none).isSome,
      fe.waiting k, fe.cancellable k, !held.mustWait 0, !fe.mustWait 0, parked div, (div.th 0).park.map (·.await) = some .divider,
      !div.mustWait 0, (div.core 0).div ≠ [], parked xp, (xp.th 0).park.map (·.await) = some .xp, !xp.mustWait 0,
      (call.th 0).park.map (·.await) = some (.dlgReply k), call.unpark 0 |>.isNone, (mtx.th 0).status = .park,
      (match (mtx.th 0).park with | some p => (match p.await with | .matrix _ => true | _ => false) | none => false),
      (match (part.req k).op with | .vstore _ => true | _ => false), (part.req k).got ≠ [], !part.waiting k, !part.cancellable k]) = true := by decide +kernel

/-- A command of the region, for each engine's pieces. -/
def command (opn : Nat) (a b : Word) (regs : AMap Word) : Cmd :=
  { n := 1, opn := opn, a := a, b := b, regs := regs, state := .running, started := true, rcb := 0x40000, root := probePointer 0 1 }
/-- The state with that command in a context. -/
def running (s : State) (k : Nat) (x : Cmd) : State := s.setCtx k { own := 0x40000, issued := 1, cmds := [x] }
def does (r : Piece) : Bool := match r with | .more _ | .last _ => true | _ => false

/-- CommandsReadAndWriteTheirBytes: a read, one that meets poison, a write of a part and of a whole word; each geometry; a
write performed and one that was performed before. -/
theorem witness_command_bytes :
    (let k := ctxKey 0 0 0 1
     let x := command 3 0x50000 0x50100 [(8, 16)]
     let s := running user k x
     let any : Nat → Bool := fun _ => true
     let ok (r : Except EngErr Nat) : Bool := match r with | .ok l => l = dram 0x50000 | _ => false
     let p := s.setPoison (dram 0x50000) true
     let dst := stridedAddr 0x50100 16 0
     let hits := stridedHits 0x50100 16 0
     let w := writeAt dst hits 0
     all [ok (engLoc s k x 0x50000 .r any), ok (engLoc s k x 0x50000 .w any), ok (engLoc p k x 0x50000 .r any), p.isPoison (dram 0x50000) 1,
      ok (engLoc p k x 0x50000 .w any), cntOk 16, cntOk 0x0001000100000002, distOk 16 0x0001000100000002 0, 0 < (hits (dst 0)).count,
      !x.wrote w, w.counts = [8], ({ x with early := [w.key] }).wrote w, (s.ctx k).cmd 1 = some x,
      (match copyPiece s k x (stridedAddr 0x50000 16 0) dst hits 16 0 any any with | .ok (_, n) => n = [8] | _ => false),
      (match copyPiece s k x (stridedAddr 0x50000 16 0) dst hits 16 8 any any with | .ok (_, n) => n = [8] | _ => false)]) = true := by decide +kernel

/-- EngineCommandsMoveTheirBytes: a piece of each command that does something. -/
theorem witness_engine_moves :
    (let k := ctxKey 0 0 0 1
     let g := ctxKey 5 0 0 1
     let b := ctxKey 6 0 0 0
     let m := ctxKey 4 0 0 0
     let v := ctxKey 7 8 0 1
     let on (s : State) (k : Nat) (x : Cmd) (f : State → Nat → Cmd → Piece) : Bool := does (f (running s k x) k x)
     let bank := skerry.updCore (mkSkerry 0 0) (fun c => { c with bankOn := true })
     let il := poke bank [(0x20018, 0x00000000000000FD)]
     let stream (write : Bool) : Stream := { bound := true, base := 0x50000, cnt := 4, fmt := 8, fifo := if write then [1, 2, 3, 4] else [], write := write, cmd := 1 }
     all [on user k (command 3 0x50000 0x50100 [(8, 16)]) (fun s k x => movePiece s k x 0),
      on user k (command 4 0x50000 0 [(8, 16), (11, 0x0001000100000002)]) (fun s k x => movePiece s k x 0),
      on user g (command 3 0x50000 0x50100 [(8, 4), (9, 0x50200)]) (fun s k x => gsPiece s k x 0),
      on user g (command 4 0x50000 0x50100 [(8, 4), (9, 0x50200)]) (fun s k x => gsPiece s k x 0),
      on (running user m (command 3 0 0 [])) k (command 5 0x60100 0x60200 [(8, 1)]) csrPiece,
      on skerry b (command 4 0x50000 0 [(10, 1)]) (fun s k x => bcastPiece s k x none),
      on skerry b (command 6 0x50000 0 [(8, 1), (10, 1)]) (fun s k x => rdPiece s k x 0),
      on skerry b (command 7 0 0 [(8, 1), (10, 1)]) bmacAclrPiece, on il b (command 5 0x60000000 0 [(8, 1), (10, 1)]) macPiece,
      (command 4 0x50000 0 [(10, 1)]).banks[0]? = some 0, (stream false).esz = 4, 4 ≤ (stream true).fifo.length,
      on holm v ({ (command 3 0x50000 0x40007D []) with progress := 1 }) (fun s k x => copyMove s k x 0x7D),
      (let x := command 16 0 0 []
       on (user.setStream 0 (stream false)) k x (fun s k x => streamFetch s k x (s.stream 0)) &&
         on (user.setStream 0 (stream true)) k x (fun s k x => streamStore s k x (s.stream 0) 0 false)),
      on user m { (command 6 0 256 []) with fmtAB := 0 } acopyInPiece, on user m { (command 7 0 256 []) with fmtD := 0 } (fun s k x => acopyOutPiece s k x 0)])
      = true := by decide +kernel

/-- R249, R250: a K step of 1 times 2 and 3 times -1 onto 5, one that meets a NaN, infinity less infinity, and a scaled one. -/
theorem test_k_step :
    mmaStep [(f32 0x3F800000, f32 0x40000000), (f32 0x40400000, f32 0xBF800000)] none 0x40A00000 = (0x40800000, 0) ∧
    mmaStep [(f32 0x7FC00000, f32 0x40000000)] none 0x40A00000 = (0x7FC00000, 0x10) ∧
    mmaStep [(f32 0x7F800000, f32 0x3F800000), (f32 0xFF800000, f32 0x3F800000)] none 0 = (0x7FC00000, 0x10) ∧
    mmaStep [(f32 0x40400000, f32 0x3F800000)] (some (0x40000000, 0x3F000000)) 0x40A00000 = (0x41000000, 0) := by decide +kernel

/-- R268, R272: xp.form at P = 0 keeps the flags of its difference; the potential of a unit charge at distance 2 is 0.5. -/
theorem test_expansion_flags :
    (formOne {} { x := xval 0x7F800001, y := xzero, z := xzero } (xval 0x3F800000)).2 = 0x10 ∧
    (xpPotential { c := [(0, 0x3F800000)] } { x := xval 0x40000000, y := xzero, z := xzero }).1 = 0x3F000000 := by decide +kernel

/-- FloatingFunctionsDeliverTheirResults, SealsSortAndEncodingPicksTheNearest, TableChangesCommitLaterAndConvert: formats of
either kind; sealed orders with an infinity, with both kinds of elements, and empty; a conversion parked by a seal, and one
by a register. -/
theorem witness_conversions :
    (let sealing := next (.tblEnc 9 8) (withTable { state := .sealing })
     let waits := next (.tblEnc 9 8) ((withTable twoValues).updTh 0 (fun th => { th with pending := [(9, 90)] }))
     let mixed : CodeTable := { twoValues with ord := [(0, 0), (0x3FC00, 1)] }
     let infs : CodeTable := { twoValues with ord := [(0x3FC00, 1)] }
     all [(fmtOfCode 0).isSome, (fmtOfCode 8).isNone, readsTable (.tblEnc 9 8), Fmt.e8m10.value 0x3FC00 = .inf false,
      Fmt.e8m10.orderKey 0 < Fmt.e8m10.orderKey 0x3FC00, mixed.enc (.inf false) = (1, 0), infs.enc (.fin true 1 0) = (1, 5),
      (sealing.th 0).park.map (·.await) = some .seal, (sealing.th 0).park.bind (·.tab) = some { state := .sealing },
      (waits.th 0).park.map (·.await) = some (.regs [9]), (waits.th 0).park.bind (·.tab) = some twoValues,
      (me (withTable twoValues)).park = none]) = true := by decide +kernel

/-- StateRegistersReadAndWrite: a JRNL read that parked on its destination, and is taken up again; one at its issue. -/
theorem witness_kept :
    (let i := Instr.sysSrd 9 11
     let parked := next i (user.updTh 0 (fun th => { th with pending := [(9, 90)] }))
     let again := parked.updTh 0 (fun th => { th with pending := [], status := .run })
     all [(me user).park = none, rdy i user, (again.parkOf 0 i).isSome, rdy i again, (again.parkOf 0 i).map (·.kept) = some 0x40010000]) =
      true := by decide +kernel

/-- ThreadFunctionsAct: a write to a neighbour behind an earlier one that is parked on its operand. -/
theorem witness_earlier_write :
    (let i := Instr.thrNwr 1 3
     let first := (next (.thrNwr 1 4) (user.updTh 0 (fun th => { th with pending := [(4, 90)] })))
     let s := { first.setTh 1 { (user.th 0) with uid := 5 } with focus := 1 }
     all [s.writesBefore 1 i, rdy i s, !user.writesBefore 0 i, rdy i user, AMap.get none (s.core 1).mbox 3 = none]) = true := by decide +kernel

/-- QueueFunctionsAct: words read before and words read now; an anchor in transit and one that is not; a steal of a
quarantined queue, and by a thread with a task; a `tq.done` that has decremented, before and behind a closed home. -/
theorem witness_queue_parts :
    (let i := Instr.tqPush 9 4 10
     let l := dram 0x50040
     let parked := (queue0.parkOn 0 i (.reply 9)).sendArgs 0 i (0x50040 :: 0x800000000 :: queue0.wordsAt l 8)
     let again := parked.updTh 0 (fun th => { th with status := .run })
     let joined := next (.tqTake 9 10 4) (next (.tqPush 9 4 10) (next (.tqCfg 10 7) (tasks 0x50100)))
     let done := (joined.parkOn 0 .tqDone (.home (dram 0))).sendArgs 0 .tqDone [1]
     let done := done.updTh 0 (fun th => { th with status := .run })
     let closed := (done.updCore (mkSkerry 0 0) (fun c => { c with bankOn := true }))
     let quar := queue1.setQueue 1 { queue1.queue 1 with quarantined := true }
     all [(again.sentArgs 0 i).length = 10, rdy i again, (srcRegs i).length = 2, queue0.sentArgs 0 i = [], !queue0.split,
      (queue0.anchorShut 0 0x50000).isNone, rdy (.tqSteal 9 10 4) quar, rdy (.tqSteal 9 10 4) taken, (me taken).seq ≠ 0,
      rdy (.tqTake 9 10 4) taken, rdy (.tqTake 9 3 4) queue1, rdy (.tqSteal 9 3 4) queue1, rdy (.tqCfg 3 7) queue1,
      queue1.badHandle 0x50000, rdy .tqDone done, done.sentArgs 0 .tqDone ≠ [], (me done).seq ≠ 0,
      (done.queueShut (done.arrivalOf 0 (queuePort 1)) 1).isNone, (closed.queueShut (closed.arrivalOf 0 (queuePort 1)) 1).isSome, joined.sentArgs 0 .tqDone = []]) =
      true := by decide +kernel

/-- QueueEventsAct: a retirement, a return to the queue, and either behind a closed home; a deferred notification within its
window, past it, and behind a closed home. -/
theorem witness_queue_homes :
    (let ev (args : List Nat) (s : State) : State := { s with ev := args }
     let shut (s : State) : State := s.updCore (mkSkerry 0 0) (fun c => { c with bankOn := true })
     let root := (me user).root
     let key := regionKey root 0x40000
     let named := poke user [(0x40050, 0x50000), (0x40058, 5), (0x40060, 3)]
     let put := ev [0, root.toNat, 0x40000] (named.updHome 0 (fun h => { h with deferred := [key] }))
     let soon := put.updHome 0 (fun h => { h with notified := [(key, 0)] })
     all [(ev [1, 1] taken).arg 2 ≠ 1, (taken.queueShut taken.fresh 1).isNone, (ev [1, 1, 1] taken).arg 2 = 1,
      (taken.runningTask 1 1).isSome, ((shut taken).queueShut taken.fresh 1).isSome, (queue1.dispatchShut 0).isNone,
      key ∈ (put.home 0).deferred, (put.rcbShut root 0x40000).isNone, put.notifyAt root 0x40000 = some (dram 0x50000, 5),
      effNwin put root 0x40000 = some 3, put.windowLeft 0 root 0x40000 3 = 0, 0 < soon.windowLeft 0 root 0x40000 3,
      !put.ownShut (put.numberAt 3 (dram 0x50000)) (dram 0x50000), ((shut put).rcbShut root 0x40000).isSome]) = true := by decide +kernel

/-- ParksEnd, AStepTakesWhatComesNext, MismatchesWithdrawThenTrap: an instruction taken up again that has read its operands,
and one that has not, with no mismatch and with one. -/
theorem witness_resumptions :
    (let waits := next (.aluAdd 9 3 5) (user.updTh 0 (fun th => { th with pending := [(3, 90)] }))
     let again : State := { waits.updTh 0 (fun th => { th with pending := [], status := .run }) with resume := some 0, plan := [] }
     let idle := next (.waitJz 3 4) (poke user [(0x50000, 9)])
     let wakes := event .awaitedEvent [0] (poke idle [(0x50000, 0)])
     let hit := { again with plan := [.mismatch 0 3] }
     let s0 := { hit.dropDenials 0 (.aluAdd 9 3 5) with resume := none, focus := 0, plan := [] }
     all [wakes.resume = some 0, ((wakes.th 0).park.map (·.read.isSome)) = some true, (again.th 0).park.map (·.read) = some none,
      again.plan = [], (decodeState s0 0 (.aluAdd 9 3 5)).isNone,
      (match operandState s0 0 (.aluAdd 9 3 5) with | some (.park _) => false | _ => true), !(s0.th 0).retried]) = true := by decide +kernel

/-- CommandsReadAndWriteTheirBytes, EngineCommandsMoveTheirBytes: bytes read ahead, bytes of local store; a bank MAC block read
ahead; the last piece of an acopy. -/
theorem witness_ahead :
    (let k := ctxKey 0 0 0 1
     let m := ctxKey 4 0 0 0
     let x := { command 3 0x50000 0x50100 [(8, 16)] with got := [(7, 5)] }
     let s := running user k x
     let any : Nat → Bool := fun _ => true
     let out := { (command 7 0 256 []) with fmtD := 0, progress := 64 * 256 - 8 }
     all [AMap.has x.got 7, (match engRead s k x any [(7, 0x50000), (8, 0x50001)] with | .ok (bs, _) => bs.length = 2 | _ => false),
      (match engRead (s.setPoison (dram 0x50000) true) k x any [(7, 0x50000), (8, 0x50001)] with | .error (.fault c _) => c = cPOISON | _ => false),
      (match engTake s k x any (namedBytes 9 0x50000 4) with | .ok (_, bs) => bs.length = 4 | _ => false),
      (match scratchRead (running user m (command 6 0 256 [])) m (command 6 0 256 []) 0 0 8 with | .ok bs => bs.length = 8 | _ => false),
      (match acopyOutPiece (running user m out) m out (64 * 256 - 8) with | .last _ => true | _ => false)]) = true := by decide +kernel

/-- ExpansionRequestsQueueAndComplete: a request with XO of its issue, and of a park. -/
theorem witness_xo :
    (let i := Instr.xpCtrm 0 3
     let waits := next i ((user.updCore 0 (fun c => { c with xo := 5 })).updTh 0 (fun th => { th with pending := [(3, 90)] }))
     all [user.parkOf 0 i = none, (waits.parkOf 0 i).map (·.kept) = some 5]) = true := by decide +kernel

/-- RequestsArePerformedAndAnswered: the words of a descriptor all read; parks behind a destination's stores, behind an own
store and of a `tq.done`; a posted store to host memory, part by part. -/
theorem witness_more_requests :
    (let push := next (.tqPush 9 4 10) { queue0 with split := true }
     let k := queue0.fresh
     let read := (upTo 8).foldl (fun s n => event .homeRequest [k, n] s) push
     let on (a : Await) (i : Instr) (s : State) : Bool := match (next i s).th 0 |>.park with | some p => p.await = a | none => false
     let host := next (.st 5 3 3 0 0) (withRegs (poke relaxed [(0x20018, 0x01E000000000007D)]) [(3, 0x60000000)])
     let out := event .egressAcceptance [0, 0] host
     let egress := (out.parkOn 0 (.ld 9 3 3 0 0 0) (.egress 128)).unpark 0
     let word := (out.parkOn 0 (.ld 9 3 3 0 0 0) (.sameWord 1)).unpark 0
     let done := ((taken.parkOn 0 .tqDone (.home (dram 0))).sendArgs 0 .tqDone [1]).unpark 0
     all [(read.req k).complete, (match (read.req k).op with | .words => true | _ => false), (read.req k).answers.all (fun a => !a.poison),
      (push.th 0).park.map (·.await) = some (.reply k), egress.isNone, word.isNone, done.isNone, !on .pair (.ld 9 3 3 0 0 0) user,
      (match out.reqOfEntry 0 0 with
        | some r => (out.req r).parts.length = 1 && !AMap.has (out.req r).got 0 && out.mayPerform r (out.req r) 0
        | none => false),
      (match host.reqOfEntry 0 0 with
        | some r => !host.mayPerform r (host.req r) 0
        | none => false)]) = true := by decide +kernel

/-- TwinsCompareTheirMessages: two words of one message; a primary that sends. -/
theorem witness_messages :
    (let s := withRegs twins [(6, 0x50000), (11, 0x107)]
     let i := Instr.st 5 3 0 0 0
     let j := Instr.st 11 6 0 0 0
     all [sendsMessage i, !(s.th 0).matched, messageKind i false = messageKind j false, messageSize i = messageSize j,
      (accessVas s 0 i).map (·.1) = (accessVas s 0 j).map (·.1), messageData s 0 i = messageData s 0 j]) = true := by decide +kernel

/-- RecordsReachTheirHandler, HostRegistersTelemetryAndAttestation, LinksComeUpAndGoDown, BeaconKeepsTime: a record whose RCB
stands at a closed home, a telemetry record behind stores for the host, one in turn, a port at its fourth miss, a holdover
that is long. -/
theorem witness_outside :
    (let host := next (.st 5 3 3 0 0) (withRegs (poke relaxed [(0x20018, 0x01E000000000007D)]) [(3, 0x60000000)])
     let out := event .egressAcceptance [0, 0] host
     let shut := sent.updCore (mkSkerry 0 0) (fun c => { c with bankOn := true })
     let missed := user.setPkg { user.pkg with missed := [(0, 3)] }
     all [((shut.core 1).deliveries.head?).map (fun d => (shut.rcbShut d.root d.rcb).isSome) = some true,
      ((sent.core 1).deliveries.head?).map (fun d => (sent.rcbShut d.root d.rcb).isNone && rcbUsable sent d.root d.rcb) = some true,
      out.egressBefore 128 0, !user.egressBefore 128 0, user.pkg.tlWaiting = [], !user.hostAborts (locHost 0),
      3 ≤ AMap.get 0 missed.pkg.missed 0, ({ user with ev := [0] } : State).ev ≠ []]) = true := by decide +kernel

/-- LaunchesPushAndFill: a record that the host aborts, one that is in reach; a region whose mode can be read. -/
theorem witness_launch_records :
    (let t := launching 0x10000 queue0
     let far : Word := 0xF000000000001000
     all [!(t.recordLocs 0x61000 (recordOf t)).any t.hostAborts, (effSched t (me t).root 0x40000).isSome, rcbMaps t (me t).root 0x40000,
      !rcbMaps t (me t).root 0x60000000, rcbOwn t (me t).root 0x40000 0 = some 0, rcbOk t (me t).root 0x40000,
      (let s := t.setPkg { t.pkg with hostAbort := (t.recordLocs far (recordOf t)).map wordOf }
       (s.recordLocs far (recordOf t)).any s.hostAborts)]) = true := by decide +kernel

/-- A state in which a skerry's channel is in all-bank mode: that of the home of a location. -/
def allBank (l : Nat) (s : State) : State := s.updCore (unitOfLoc l) (fun c => { c with bankOn := true })

/-- DelegatedCallsRunAtTheHome, MigrationsMoveTheContext, QueueFunctionsAct, QueueEventsAct, ParksEnd, ThreadsAreSavedAndRestored:
an RCB, of the thread or of another region, that stands at a closed home. -/
theorem witness_rcb_waits :
    (let root := (me user).root
     let near := allBank (dram 0x40000)
     let far := allBank (dram 0x61000)
     let conf := far (poke (tasks 0) [(0x60000, 0x61000)])
     let moved (s : State) : State := s.setQueue 1 { s.queue 1 with rcb := 0x61000 }
     let sub := far (moved (withRegs queue0 [(11, 0x805)]))
     let steal : Steal := { queue := 1, cluster := 1, place := 64, second := none }
     let pre := withRegs (far (preemptible.updTh 2 (fun th => { th with rcb := 0x61000 }))) [(5, 128), (4, 0)]
     let idle := next (.waitJz 3 31) (poke user [(0x50000, 9)])
     let due := { idle with ev := [0, (match (me idle).park with | some p => p.ticket | none => 0)] }
     let due := due.updTh 0 (fun th => { th with park := th.park.map (fun (p : Park) => { p with due := some 5 }) })
     all [((near user).rcbShut root 0x40000 (fun _ => 0)).isSome, (user.rcbShut root 0x40000 (fun _ => 0)).isNone,
      rdy (.tqCfg 10 7) conf, conf.heldUp 0 (spanOf (dram 0x60000) 4) = none, conf.queueShut (conf.arrivalOf 0 (queuePort 1)) 1 = none,
      (conf.rcbShut root ((conf.wordsAt (dram 0x60000) 4).getD 0 0) (conf.arrivalOf 0)).isSome,
      rdy (.tqSub 10 11) sub, sub.queueShut (sub.arrivalOf 0 (queuePort 1)) 1 = none, (sub.queue 1).configured,
      (sub.rcbShut (sub.queue 1).root (sub.queue 1).rcb (sub.arrivalOf 0)).isSome,
      (let x := near { queue2 with ev := [1, 1] }
       (x.rcbShut (x.queue 1).root (x.queue 1).rcb (x.numberAt 2)).isSome),
      (let x := near queue2
       ((x.queueShut (steal.numberAt x (queuePort 1)) 1).or (x.rcbShut (x.queue 1).root (x.queue 1).rcb (steal.numberAt x))).isSome),
      (match (near { queue1 with ev := [0] }).dispatchShut 0 with | some _ => true | none => false),
      ((near queue1).shutFor 7 (portOf 0 0 0) none).isSome, (queue1.shutFor queue1.fresh (portOf 0 0 0) none).isNone] && all [
      rdy (.sysPre 9 5 4) pre, (pre.rcbShut root (pre.th 2).rcb (pre.arrivalOf 0)).isSome,
      (me due).status = .park, ((me due).park.map (·.due)) = some (some 5), (due.rcbShut root 0x40000 (due.numberAt 2)).isNone,
      ((near due).rcbShut root 0x40000 (due.numberAt 2)).isSome, due.waitLimNs 0 = 0, (poke due [(0x40030, 100)]).waitLimNs 0 = 100,
      ((travelling.th 0).park.map (fun p => (p.await, p.limit, p.due))) = some (.reply user.fresh, none, none),
      ((near travelling).rcbShut root 0x40000).isSome, (travelling.rcbShut root 0x40000).isNone, travelling.waitLimNs 0 = 0,
      (poke travelling [(0x40030, 100)]).waitLimNs 0 = 100]) = true := by decide +kernel

/-- NotificationsCoalesce, JoinWordsAndCounts: each form of a notification that comes again, held up or not; a join word's
RCB pointer at a closed home. -/
theorem witness_notified :
    (let root := (me user).root
     let l := dram 0x50000
     let near := allBank l
     let at_ (args : List Nat) : State := { user with ev := args }
     let first := at_ [0, root.toNat, 2 ^ 64 + 0x40000]
     let store := at_ [5, l, 2 ^ 65 + 3]
     let behind := { store with timers := [(8, .nwinExpiry, [6, l, 2 ^ 65 + 2])] }
     let join := at_ [0, root.toNat, 2 ^ 66 + l]
     let word := withRegs (poke user [(0x50FF8, 0x8000000000000001), (0x51000, 0x40000)]) [(3, 0x50FF8)]
     all [2 ^ 64 ≤ first.arg 2, first.arg 2 < 2 ^ 65, (store.ownHeld (store.numberAt 3 l) l).isNone, !store.storesBefore 3 l,
      behind.storesBefore 3 l, ((near store).ownHeld (store.numberAt 3 l) l).isSome, join.arg 2 = 2 ^ 66 + l,
      (join.ownHeld (join.numberAt 3 l) l).isNone, ((near join).ownHeld (join.numberAt 3 l) l).isSome, !join.outOfReach l,
      !join.isPoison l 8, (user.rcbShut root 0x40000 (user.numberAt 3)).isNone, user.notifyAt root 0x40000 = none,
      rdy (.jcDec 9 3) word, found (joinAddr word 0 0x50FF8 .rw) (dram 0x50FF8), !word.isPoison (dram 0x51000) 8,
      (word.ownHeld word.fresh (dram 0x51000)).isNone, ((allBank (dram 0x51000) word).ownHeld word.fresh (dram 0x51000)).isSome,
      rdy (.jcDec 9 3) (allBank (dram 0x51000) word)]) = true := by decide +kernel

/-- TrapsFreezeAndRecord, HeldCausesAndRecordsAreDelivered: records kept back while HANDLER cannot be read, and their turn. -/
theorem witness_unsent :
    (let near := allBank (dram 0x40000)
     let kept := { next .sysBreak (near user) with ev := [0, 1], focus := 0 }
     let open_ := { kept with timers := [], units := AMap.set kept.units (mkSkerry 0 0) (user.core (mkSkerry 0 0)) }
     all [(user.core 0).unsent = [], (kept.core 0).unsent.length = 1, (kept.core 0).resends = [], kept.arg 1 = 1,
      (match (kept.core 0).unsent with
        | d :: rest => rest.isEmpty && (kept.rcbShut d.root d.rcb (kept.numberAt 2)).isSome &&
          (open_.rcbShut d.root d.rcb (open_.numberAt 2)).isNone && open_.buddy 0 = some 1 &&
          effHandler open_ d.root d.rcb = some 0x30000 && rcbUsable open_ d.root d.rcb
        | [] => false)]) = true := by decide +kernel

/-- ExpansionRequestsQueueAndComplete, TwinsCompareTheirMessages, StreamsAreReadAndWritten: the memory requests of an
expansion unit's request of a primary and of a secondary, before and after their match; a silence of this exchange and of an
earlier one; a stream that both twins write. -/
theorem witness_twins :
    (let q : XpReq := { thread := 0, instr := .xpLd 0 3, xo := 0, a := 0x50000, b := 0 }
     let m : PairMsg := { primary := 0, secondary := 1, hashP := some 5, hashS := some 5, ticket := 4 }
     let p : Park := { instr := .xpLd 0 3, await := .xp }
     let parked := { twins.updTh 0 (fun th => { th with status := .park, park := some p }) with pairs := [(0, m)], ev := [0] }
     let apart := { user.updTh 0 (fun th => { th with twin := some (64, false), matched := true }) with focus := 0 }
     let apart := apart.setTh 64 { apart.th 0 with twin := some (0, true), uid := 2, matched := false, status := .park, park := some { p with await := .pair } }
     all [(twins.th 0).twin = some (1, false), (twins.th 1).twin = some (0, true),
      (match xpMem twins q 0 0x50000 2 none with | .wait _ => true | _ => false),
      (match xpMem twins { q with opened := true } 0 0x50000 2 none with | .words ws _ => ws.length = 2 | _ => false),
      (match xpMem twins { q with thread := 1, opened := true, got := [(0, 5), (1, 6)] } 0 0x50000 2 none with
        | .words ws _ => ws = [5, 6] | _ => false),
      (match xpMem twins { q with thread := 1, opened := true, got := [(0, 5)] } 0 0x50000 2 none with | .wait _ => true | _ => false),
      (parked.th 0).park.map (·.await) = some .xp, parked.pairs.find? (fun p => p.1 = parked.arg 0) = some (0, m), m.ticket ≠ parked.arg 1,
      ({ parked with ev := [0, 4] } : State).arg 1 = m.ticket, (me apart).twin = some (64, false), (me apart).matched,
      (apart.th 64).paired, unitOfThread 64 ≠ here apart, (me user).twin = none]) = true := by decide +kernel

/-- LaunchesPushAndFill: a record, and a descriptor, read word by word; each home that holds a launch up; no address, no right. -/
theorem witness_launch_waits :
    (let t := launching 0x10000 queue0
     let r := LRecord.ofWords (recordOf t)
     let slow := { t with split := true, pkg := { t.pkg with launchGot := [(0, r.root), (8, r.rcb), (24, 0)] } }
     let l := dram 0x50040
     let near := allBank l
     let took (s : State) (got : AMap Word) : Option Nat := match s.readSome got descOffs (l + ·) (s.numberAt 0) with
       | .ok (_, m) => some m.length | .error _ => none
     let read : AMap Word := descOffs.map (fun o => (o, t.read64 (l + o)))
     let thread := { root := r.root, rcb := r.rcb, tasks := [], threads := [[0x30000, 0x02000010, 0, 0, 0, 0]], since := 0 : Launch }
     all [t.pkg.launchGot = [], !recordWhole (recordOf slow), AMap.has (recordOf slow) 16, descLoc t r.root 0xF0000000000000 = none,
      (descLoc t r.root 0x50040).map (·.2) = some l, took t [] = some 8, took (near t) [] = none,
      took (near t) read = some 8, ((near t).launchShut ((near t).numberAt 0) r.root 0x800000000 (taskWords t)).isSome,
      (t.launchShut (t.numberAt 0) r.root 0x800000000 (taskWords t)).isNone, thread.threads ≠ [],
      ((near t).rcbShut r.root r.rcb ((near t).numberAt 0)).isSome, (t.rcbShut r.root r.rcb (t.numberAt 0)).isNone,
      launchMaps t r.root 0x50040 .r false, !launchMaps t r.root 0x60000000 .r false,
      t.threads.any (fun p => p.2.status ≠ .free)]) = true := by decide +kernel

/-- LaunchesPushAndFill: in split form one word of a descriptor is read at a time, whichever of those left it is. -/
theorem witness_launch_word :
    ∃ s' got, { (launching 0x10000 queue0) with split := true }.readSome ((upTo 6).map (fun j => (8 * j, 0))) descOffs
      (dram 0x50040 + ·) (fun _ => 99) = .ok (s', got) ∧ got.length < 8 := by
  have pick : ∀ s : State, ∃ o s', s.choose [48, 56] = some (o, s') ∧ (o = 48 ∨ o = 56) := fun s => by
    refine ⟨_, _, rfl, ?_⟩
    have h : (Config.freeWord s.free).toNat % 2 < 2 := Nat.mod_lt _ (by decide)
    generalize (Config.freeWord s.free).toNat % 2 = n at h
    obtain rfl | rfl : n = 0 ∨ n = 1 := by omega
    · exact .inl rfl
    · exact .inr rfl
  have long : ∀ o (v : Word), o = 48 ∨ o = 56 → (AMap.set ((upTo 6).map (fun j => (8 * j, 0))) o v).length < 8 := by
    rintro o v (rfl | rfl) <;> exact Nat.le_of_eq rfl
  generalize hs : { (launching 0x10000 queue0) with split := true } = s
  have hsplit : s.split = true := by rw [← hs]
  have hleft : ((descOffs.filter (fun o => !AMap.has ((upTo 6).map (fun j => (8 * j, (0 : Word)))) o)).filter
      (fun o => (s.ownHeld 99 (dram 0x50040 + o)).isNone)) = [48, 56] := by rw [← hs]; decide +kernel
  obtain ⟨o, s', h, ho⟩ := pick s
  refine ⟨s', _, ?_, long o (s.read64 (dram 0x50040 + o)) ho⟩
  simp only [State.readSome, hsplit, hleft, h, if_true]

/-- R162 to R167: lanes that wrap, saturate, compare and are picked. v2 is s12 to s15, v3 is s16 to s19. -/
theorem test_lanes :
    (let s := withRegs user [(12, 0x7FFF0001FFFFFFFF), (16, 0x0001000200000001), (5, 0x10003)]
     [Instr.vopAdd 1 2 3 0, .vopAdds 1 2 3 2, .vopSub 1 2 3 2, .vopMul 1 2 3 2, .vopMin 1 2 3 0, .vopMaxu 1 2 3 0, .vopSll 1 3 2 2,
       .vopSra 1 2 3 1, .vopCeq 1 2 2 1, .vopClt 1 2 3 0, .vopShuf 1 2 3 2, .vscBcast 1 5 2, .vscAdd 1 2 5 0].map (fun i => reg i s 8) =
     [0x8000000300000000, 0x7FFF0003FFFF0000, 0x7FFEFFFFFFFFFFFE, 0x7FFF00020000FFFF, 0x00010002FFFFFFFF, 0x7FFF0001FFFFFFFF,
      0x8000000400008000, 0x3FFF8000FFFFFFFF, 0xFFFFFFFFFFFFFFFF, 0x00000000FFFFFFFF, 0xFFFF0001FFFFFFFF, 0x0003000300030003,
      0x8000000400010002]) := by decide +kernel

/-- R164, R165, R168: single lanes 1.0 and -2.0 added, compared and widened; the sum, the least and the signs of a vector. -/
theorem test_float_lanes :
    (let s := withRegs user [(12, 0xC00000003F800000), (16, 0x3F8000003F800000), (20, 0x3C00)]
     [reg (.vopFadd 1 2 3 0) s 8, reg (.vopFmin 1 2 3 0) s 8, reg (.vopFclt 1 2 3 0) s 8, reg (.vopWlo 1 4) s 8, reg (.vopNar 1 2 3) s 8,
       reg (.vscFadd 1 2 16 0) s 8, reg (.vscRedadd 2 9 0) s 9, reg (.vscRedminu 3 9 0) s 9, reg (.vscMask 2 9 0) s 9, reg (.vscFredadd 2 9 0) s 9] =
     [0xBF80000040000000, 0xC00000003F800000, 0xFFFFFFFF00000000, 0x3F800000, 0xC0003C00, 0xBF80000040000000, 0xFFFFFFFFFF800000, 0, 2,
      0xBF800000]) := by decide +kernel

/-- R12, R16, R18, R66: state registers read and written. -/
theorem test_state_registers :
    reg (.sysSrd 9 1) (withRegs skerry []) 9 = 0x80000000 ∧ reg (.sysSrd 9 1) handler 9 = 63 ∧ reg (.sysSrd 9 2) user 9 = 0x40000 ∧
    reg (.sysSrd 9 3) user 9 = 0x7FFF ∧ reg (.sysSrd 9 0) super 9 = 0x8000000000000000 ∧ reg (.sysSrd 9 8) user 9 = 0xFFFFFFFFFFFFFFFF ∧
    reg (.sysSrd 9 16) super 9 = 0x40001 ∧ ((next (.sysSwr 0 5) (withRegs user [(5, 0x1080)])).th 0).st = { wst := 1, fpf := 1 } ∧
    (trapOf (.sysSwr 0 5) (withRegs user [(5, 0x8000000000000000)])).1 = 4 ∧ (trapOf (.sysSwr 14 5) (withRegs user [(5, 10)])).1 = 2 := by decide +kernel

/-- R67 to R70, R308: traps, fences and dropped translations. -/
theorem test_sys :
    (trapOf (.sysTrap 3) user).1 = 0x12 ∧ (trapOf .sysBreak user).1 = 0x13 ∧ pcOf .sysFenceSys user = 0x30004 ∧
    awaits .sysFenceDev posting = some (.drain 0 true) ∧
    (next (.sysTlbAll 8) (event .translationRefill [0, 0x10001, 0x50000] super)).tlb 0 = [] ∧
    ((event .translationRefill [0, 0x10001, 0x50000] super).tlb 0).map (·.leaf) = [0x7D] ∧
    wstOf (.sysCapget 9 3 5) user = 4 := by decide +kernel

/-- R129, R132 to R136: a spawned thread, a mailbox filled and then full, a yield, an exit, a pin. -/
theorem test_threads :
    (let s := withRegs user [(10, 16)]
     let t := next (.thrSpawn 9 3 10) s
     ((t.th 1).status, (t.th 1).pc, (t.th 1).reg 5, (t.th 1).base, (t.th 1).lim) = (.run, 0x50000, 7, 112, 16) ∧ reg (.thrSpawn 9 3 10) s 9 = 1 ∧
     AMap.get none ((next (.thrNwr 1 3) user).core 1).mbox 3 = some 0x50000 ∧ awaits (.thrNwr 1 3) (next (.thrNwr 1 3) user) = some (.mboxRoom 1 3) ∧
     ((next .thrYield user).th 0).yielding = true ∧ status .thrExit user = .free ∧
     ((next (.thrStw 5 6) (withRegs super [(6, 0xC001)])).core 0).stw.map (·.2) = [(7, { pin := true, valid := true, slot := 1 })] ∧
     (event .coreSharedCommit [0] ((next (.aluAdd 121 3 5) user).updCore 0 (fun c => { c with cycle := 12 }))).core 0 = { (user.core 0) with cycle := 12, c := [(1, 0x50007)], cAt := [(1, 12)] }) := by
  decide +kernel

/-- R145, R153 to R157: sequence numbers, descriptors and counts; a gate; what WST says. -/
theorem test_queues :
    reg (.tqPush 9 4 10) queue0 9 = 1 ∧ reg (.tqPush 9 4 10) queue1 9 = 2 ∧ reg (.tqDepth 9 10) queue2 9 = 2 ∧ reg (.tqTake 9 10 4) queue1 9 = 1 ∧
    (me taken).task = 0x800000000 ∧ (taken.queue 1).queued = [] ∧ (taken.queue 1).running.map (·.seq) = [1] ∧
    ((next .tqDone taken).queue 1).running = [] ∧ wstOf (.tqTake 9 10 4) queue0 = 3 ∧ wstOf (.tqSteal 9 10 4) queue1 = 2 ∧
    (taken.read64 (dram 0x50060)) = 11 ∧ (trapOf .tqDone user).1 = 0x15 := by decide +kernel

theorem test_joins :
    (let s := poke user [(0x50000, 1)]
     (next (.jcInit 3 5) user).read64 (dram 0x50000) = 7 ∧ reg (.jcAdd 9 3 5) s 9 = 1 ∧ (next (.jcAdd 9 3 5) s).read64 (dram 0x50000) = 8 ∧
     reg (.jcDec 9 3) s 9 = 1 ∧ (next (.jcDec 9 3) s).read64 (dram 0x50000) = 0 ∧ wstOf (.jcDec 9 3) user = 4) := by decide +kernel

/-- R158, R189, R223, R236: waits that end at once and that park. -/
theorem test_waits :
    (let mail := user.updCore 0 (fun c => { c with mbox := [(2, some 5)] })
     pcOf (.waitJz 3 4) user = 0x30004 ∧ awaits (.waitJz 3 4) (poke user [(0x50000, 9)]) = some (.joinZero (dram 0x50000)) ∧
     reg (.waitMbox 9 5 4) mail 9 = 2 ∧ awaits (.waitMbox 9 5 4) user = some (.anyMbox 7) ∧ pcOf (.waitSleep 8 4) user = 0x30004 ∧
     awaits (.waitSleep 9 4) user = some (.sleep 1) ∧ (trapOf (.waitGate 4) user).1 = 0x15 ∧ wstOf (.waitTl 5 9 4) user = 4 ∧
     awaits (.waitBuoy 8 3 31) (withRegs user [(3, 0xFE00000000000010)]) = some (.buoy 16 0) ∧
     ((event .waitTimeout [0] { next (.waitSleep 9 0) user with now := 512 }).th 0).st.wst = 1) := by decide +kernel

/-- R194, R195, R198, R276: a call at its home and its return; a context that arrives with its live registers. -/
theorem test_delegation_and_migration :
    (let u := mkSkerry 0 0
     let v := event .delegationServe [u] (next (.dlgCall 9 3 7) user)
     let e := event .delegationRoutineEnd [u] (setRegs v (u * 64 + 31) [(5, 99)])
     let m := event .contextMessageArrival [user.fresh] (next (.mig 3 4) user)
     (v.th (u * 64 + 31)).pc = 0x60000 ∧ (v.th (u * 64 + 31)).reg 3 = 0x50000 ∧ (v.th (u * 64 + 31)).reg 6 = 2 ∧ (e.th 0).reg 9 = 99 ∧
     (e.th (u * 64 + 31)).status = .free ∧ (m.th (u * 64)).pc = 0x30004 ∧ (m.th (u * 64)).reg 3 = 0x50000 ∧ (m.th (u * 64)).reg 5 = 0 ∧
     (m.th 0).status = .free ∧ ((next .tblSeal skerry).msgs.map (fun x => (x.2.dest, x.2.whole))) = [(127, true)]) := by decide +kernel

/-- R215, R218 to R221: a context claimed, its registers, a command and its pieces. -/
theorem test_engines :
    (let k := ctxKey 0 0 0 1
     let s := (owning user).updCtx k (fun c => { c with regs := [(8, 8)] })
     let a := next (.copyXfer 1 3 4) (poke s [(0x50000, 0x0102030405060708)])
     let r := event .engineCommandComplete [k, 1] (event .engineCommandStart [k, 1] a)
     ((next (.engClaim 0 1) user).ctx k).own = 0x40000 ∧ wstOf (.engClaim 0 1) (user.setCtx k { own := 8 }) = 4 ∧
     ((next (.ewr 0 1 9 5) s).ctx k).regs = [(8, 8), (9, 7)] ∧ reg (.erd 0 1 8 9) s 9 = 8 ∧ reg (.erd 0 1 5 9) s 9 = 1 ∧ (a.ctx k).issued = 1 ∧
     (r.ctx k).tl = 1 ∧ r.read64 (dram 0x50040) = 0x0102030405060708 ∧ wstOf (.copyXfer 1 3 4) user = 4 ∧ wstOf (.copyBclose 1) s = 4 ∧
     ((next (.engRelease 0 1) s).ctx k) = {}) := by decide +kernel

/-- R34, R35, R230 to R235: an element popped and extended; a buoy word armed and counted past its target. -/
theorem test_streams_and_buoys :
    (let s := user.setStream 3 { bound := true, region := 0x40000, cnt := 2, fmt := 0x6, fifo := [0xFE, 0xFF, 5, 0] }
     let b := next (.buoySet 3 5) (withRegs user [(3, 0xFE00000000000010)])
     reg (.aluAdd 9 115 8) s 9 = 0xFFFFFFFFFFFFFFFE ∧ ((next (.aluAdd 9 115 8) s).stream 3).fifo = [5, 0] ∧ (trapOf (.aluAdd 9 112 8) s).1 = 0xF ∧
     b.read64 16 = 0x700000000 ∧ b.read64 24 = 1 ∧ (event .buoyCount [16, 9] b).read64 16 = 0x700000002 ∧
     (event .buoyCount [16, 9] b).read64 24 = 0x100000003) := by decide +kernel

/-- R322: a second mismatch in one K step fails the unit there and then, so that its command never completes. -/
theorem test_second_mismatch :
    (let k := ctxKey 4 0 0 0
     let s := user.setCtx k { own := 0x40000, issued := 1, cmds := [{ n := 1, opn := 3, a := 0, b := 0, regs := [], state := .running, started := true }] }
     let once := s.stepFails k 1
     let twice := once.stepFails k 1
     (once.cluster 0).failed = false ∧ ((once.ctx k).cmd 1).map (·.retried) = some true ∧
     (twice.cluster 0).failed = true ∧ (twice.ctx k).fault = true ∧ (twice.ctx k).fcmd = 1 ∧
     ((twice.ctx k).cmd 1).map (·.state) = some .faulted) := by decide +kernel

/-- R239, R243, R249: 1.0 * 2.0 + 1.0; a tile cleared by a command that was sent, accepted and run. -/
theorem test_matrix :
    (let k := ctxKey 4 0 0 0
     let a := event .matrixRequestReply [0] (asking (.mtxAclr 0))
     mmaStep [(.fin false 1 0, .fin false 2 0)] none 0x3F800000 = (0x40400000, 0) ∧ (a.ctx k).issued = 1 ∧ (a.th 0).pc = 0x30004 ∧
     wstOf (.mtxAclr 0) user = 0 ∧ (event .matrixRequestReply [0] (next (.mtxAclr 0) user)).th 0 = { (user.th 0) with pc := 0x30004, st := { wst := 4 } } ∧
     (trapOf (.mtxAclr 0) (user.updCluster 0 (fun c => { c with failed := true }))).1 = 0xD) := by decide +kernel

/-- R267 to R270: a centre set, a sum of coefficients, a particle of charge 2 at the centre, the image of a register. -/
theorem test_expansion :
    (let go (i : Instr) (s : State) : State := event .xpRequestComplete [0] (next i s)
     let s := poke expansions [(0x50000, 0x400000003F800000), (0x50008, 0x3F80000040400000)]
     let one : State := user.updCore 0 (fun c => { c with x := [(0, { c := [(0, 0x3F800000)] })] })
     let c := (go (.xpCtrl 5 3) s).xreg 0 5
     (c.localKind, c.cx, c.cy, c.cz, c.rad) = (true, 0x3F800000, 0x40000000, 0x40400000, 0x3F800000) ∧
     AMap.get 0 ((go (.xpAdd 0 0) one).xreg 0 0).c 0 = 0x40000000 ∧
     AMap.get 0 ((go (.xpForm 0 3 9) (poke one [(0x50008, 0x4000000000000000)])).xreg 0 0).c 0 = 0x40400000 ∧
     ((go (.xpClr 0) one).xreg 0 0).c = [] ∧ (trapOf (.xpLd 0 3) (withRegs one [(3, 0x50010)])) = (5, 1, 0x50010) ∧
     ((event .xpRequestComplete [0] (next (.xpAdd 0 2) expansions)).th 0).record.cause = 0x10) := by decide +kernel

/-- R26, R292 to R301, R297: the record of a trap at its handler, its registers, and the return. -/
theorem test_traps :
    (trapped.th 0).status = .frozen ∧ (trapped.th 0).pc = 0x30000 ∧ (handling.th (64 + 63)).pc = 0x30000 ∧ (handling.th (64 + 63)).reg 3 = 0x13 ∧
    (handling.th (64 + 63)).reg 4 = 0x30000 ∧ (handling.th (64 + 63)).reg 5 = 0xFE0000000000E000 ∧ (handling.th (64 + 63)).st.mode = true ∧
    ((next .sysTres handling).th 0).status = .run ∧ ((next .sysTres handling).th (64 + 63)).status = .free ∧
    ((next (.sysTkill 8) handling).th 0).status = .free ∧ handling.windowRead (64 + 63) 0x28 = 7 ∧
    ((trapped.th 0).record.words.getD 0 0) = 0x1300000000 := by decide +kernel

/-- R315 to R318: a thread saved to its record and restored from it. -/
theorem test_preemption :
    (saved.th 2).status = .free ∧ (me saved).reg 9 = 0x100000 ∧ saved.read64 (dram 0x100000) = 0x8000000000000010 ∧
    saved.read64 (dram 0x100028) = 77 ∧
    ((next (.sysPre 9 5 4) (withRegs saved [(5, 64), (4, 0x100000)])).th 1).reg 5 = 77 := by decide +kernel

/-- R315, R318, R330: the record of a thread of 24 registers, s_i at 8i, zero from its limit on, and its other fields; a
restore clears USED alone. -/
theorem test_record :
    (let th : Thread := { (user.th 0) with uid := 9, base := 112, lim := 24, pc := 0x1014C, regs := [(5, 0x20000), (23, 0x104)] }
     let s := next (.sysPre 9 6 8) (super.setTh 2 th)
     let r := next (.sysPre 9 5 4) (withRegs s [(5, 64), (4, 0x100000)])
     [0, 0x28, 0xB8, 0xC0, 0x378, 0x380, 0x390, 0x398, 0x3A0, 0x3A8, 0x3B0].map (fun o => s.read64 (dram (0x100000 + o))) =
       [0x8000000000000018, 0x20000, 0x104, 0, 0, 0x1014C, 0, 0x7FFF, 0x40000, 0, 0] ∧
     r.read64 (dram 0x100000) = 0x18 ∧ r.read64 (dram 0x100380) = 0x1014C ∧ r.read64 (dram 0x100028) = 0x20000 ∧
     (r.th 1).pc = 0x1014C ∧ (r.th 1).reg 23 = 0x104 ∧ (s.th 2).status = .free) := by decide +kernel

/-- R282, R286: open, close and a release leave the channel open and the context unowned, without flags, all issued
commands done. -/
theorem test_banks :
    (let k := ctxKey 6 0 0 0
     let runs (n : Nat) (s : State) : State := event .engineCommandComplete [k, n] (event .engineCommandStart [k, n] s)
     let o := runs 1 (next .bmacOpen (owning skerry))
     let c := runs 2 (next .bmacClose o)
     let r := next (.engRelease 6 0) c
     ((o.core (mkSkerry 0 0)).bankOn, (c.core (mkSkerry 0 0)).bankOn, (c.ctx k).tl, (c.ctx k).issued, (c.ctx k).fault) =
       (true, false, 2, 2, false) ∧ (r.ctx k).own = 0 ∧ (r.core (mkSkerry 0 0)).bankOn = false) := by decide +kernel

/-- R357: the SHA-256 of the three letters "abc", as FIPS 180-4 gives it. -/
theorem test_sha256 : sha256 [0x61, 0x62, 0x63] = [0xBA, 0x78, 0x16, 0xBF, 0x8F, 0x01, 0xCF, 0xEA, 0x41, 0x41, 0x40, 0xDE, 0x5D, 0xAE, 0x22, 0x23,
    0xB0, 0x03, 0x61, 0xA3, 0x96, 0x17, 0x7A, 0x9C, 0xB4, 0x10, 0xFF, 0x61, 0xF2, 0x00, 0x15, 0xAD] := by decide +kernel

/-- R340, R344, R350, R353, R356: the host's word, a submission, a containment, a boot and a reset. -/
theorem test_package :
    (event .hostMemRead [0, 0x50000] (poke user [(0x50000, 77)])).pkg.hostData = 77 ∧
    (event .hostMemWrite [0, 0x50000, 1, 0x1234] (poke user [(0x50000, 0xFF00)])).read64 (dram 0x50000) = 0xFF34 ∧
    (match exec .hostMemRead { user with ev := [12, 0] } with | .fault .noSuchAddress => true | _ => false) = true ∧
    (event .ldoorWrite [] (event .registerWrite [0, 0x61000] user)).pkg.launchQ = [0x61000] ∧
    ((event .launch [] (launching 1 user)).th (2 * 64)).pc = 0x30000 ∧ (event .contWrite [0] user).pkg.cstatErr = 2 ∧
    ((event .containment [] (event .contWrite [0x40000] user)).th 0).status = .free ∧
    (event .rstctlWrite [0xC0DE0001] user).mem = [] ∧ (event .rstctlWrite [1] user).mem = user.mem ∧
    (event .bootVerify [1, 7] State.reset).pkg.verified = 0 ∧
    (event .powerSample [] (user.setPkg { user.pkg with demand := 470 })).pkg.throttle = true := by decide +kernel

end Sys2Proof.Tests
end

section
/-!
PROOF. The host's registers, telemetry, attestation and the capability list (R8, R205, R342, R344, R354, R356, R357,
R359): what a store of the Sound die leaves and gives, what the telemetry ring does, and what the report holds.
-/

namespace Sys2Proof.Machine

/-! ### Events and doublewords -/

@[simp] theorem mem_insertTimed {α : Type} {l : List (Nat × α)} {k : Nat} {v : α} {x : Nat × α} :
    x ∈ insertTimed l k v ↔ x = (k, v) ∨ x ∈ l := by
  induction l with
  | nil => simp [insertTimed]
  | cons y l ih =>
    obtain ⟨j, w⟩ := y
    simp only [insertTimed]
    split
    · simp only [List.mem_cons]
    · simp only [List.mem_cons, ih, or_left_comm]

theorem read64_putWord_same (s : State) (l : Nat) (v : Word) : (s.putWord l v).read64 l = v :=
  read64_write64_same s l v

theorem readByte_putWord_outside (s : State) (l : Nat) (v : Word) {b : Nat} (h : b < l ∨ l + 8 ≤ b) :
    readByte (s.putWord l v).mem b = readByte s.mem b :=
  readByte_writeNat_outside _ _ _ _ h

@[simp] theorem read64_setPkg (s : State) (p : Pkg) (l : Nat) : (s.setPkg p).read64 l = s.read64 l := rfl

/-- A doubleword depends on its own eight bytes alone. -/
theorem read64_congr {s s' : State} {l : Nat} (h : ∀ b, l ≤ b → b < l + 8 → readByte s.mem b = readByte s'.mem b) :
    s.read64 l = s'.read64 l := congrArg (BitVec.ofNat 64) (readNat_congr h)

/-! ### What the Sound die stores in host memory (R342) -/

/-- A store of the Sound die changes memory and its poison alone. -/
theorem hostPut_frame (s : State) (l : Nat) (ws : List Word) :
    ∃ m po, s.hostPut l ws = { s with mem := m, poison := po } := by
  induction ws generalizing s l with
  | nil => exact ⟨_, _, rfl⟩
  | cons w ws ih =>
    obtain ⟨m, po, e⟩ := ih (if s.hostAborts l then s else s.putWord l w) (l + 8)
    refine ⟨m, po, e.trans ?_⟩
    split <;> rfl

@[simp] theorem hostPut_pkg (s : State) (l : Nat) (ws : List Word) : (s.hostPut l ws).pkg = s.pkg := by
  obtain ⟨m, po, e⟩ := hostPut_frame s l ws
  rw [e]

theorem readByte_hostPut_outside (s : State) (l : Nat) (ws : List Word) {b : Nat}
    (h : b < l ∨ l + 8 * ws.length ≤ b) : readByte (s.hostPut l ws).mem b = readByte s.mem b := by
  induction ws generalizing s l with
  | nil => rfl
  | cons w ws ih =>
    rw [List.length_cons] at h
    rw [State.hostPut, ih _ _ (by omega)]
    split
    · rfl
    · exact readByte_putWord_outside _ _ _ (by omega)

/-- A doubleword that is stored reads as it was stored, or as before where the host aborts it. -/
theorem read64_hostPut (s : State) (l : Nat) (ws : List Word) {k : Nat} (hk : k < ws.length) :
    (s.hostPut l ws).read64 (l + 8 * k) =
      if s.hostAborts (l + 8 * k) then s.read64 (l + 8 * k) else ws.getD k 0 := by
  induction ws generalizing s l k with
  | nil => simp at hk
  | cons w ws ih =>
    rw [State.hostPut]
    cases k with
    | zero =>
      rw [read64_congr fun b _ hb => readByte_hostPut_outside _ (l + 8) ws (by omega)]
      simp only [Nat.mul_zero, Nat.add_zero, List.getD_cons_zero]
      split
      · rfl
      · exact read64_putWord_same _ _ _
    | succ k =>
      rw [show l + 8 * (k + 1) = l + 8 + 8 * k by omega, ih _ _ (by simpa using hk), List.getD_cons_succ]
      split
      · rfl
      · rw [show (s.putWord l w).hostAborts (l + 8 + 8 * k) = s.hostAborts (l + 8 + 8 * k) from rfl,
          read64_congr fun b hb _ => readByte_putWord_outside s l w (by omega)]

@[simp] theorem hostPutBytes_pkg (s : State) (l : Nat) (bs : List Byte) : (s.hostPutBytes l bs).pkg = s.pkg := by
  induction bs generalizing s l with
  | nil => rfl
  | cons b bs ih =>
    rw [State.hostPutBytes, ih]
    split <;> rfl

theorem readByte_hostPutBytes_outside (s : State) (l : Nat) (bs : List Byte) {a : Nat}
    (h : a < l ∨ l + bs.length ≤ a) : readByte (s.hostPutBytes l bs).mem a = readByte s.mem a := by
  induction bs generalizing s l with
  | nil => rfl
  | cons b bs ih =>
    rw [List.length_cons] at h
    rw [State.hostPutBytes, ih _ _ (by omega)]
    split
    · rfl
    · exact readByte_writeByte_ne _ _ (by omega)

theorem readByte_hostPutBytes (s : State) (l : Nat) (bs : List Byte) {k : Nat} {v : Byte} (hk : bs[k]? = some v)
    (ha : s.hostAborts (l + k) = false) : readByte (s.hostPutBytes l bs).mem (l + k) = v := by
  induction bs generalizing s l k with
  | nil => cases hk
  | cons b bs ih =>
    rw [State.hostPutBytes]
    cases k with
    | zero =>
      rw [List.getElem?_cons_zero, Option.some.injEq] at hk
      rw [Nat.add_zero] at ha ⊢
      rw [readByte_hostPutBytes_outside _ _ _ (by omega), ha]
      exact (readByte_writeByte_same _ _ _).trans (((BitVec.ofNat_toNat 8 b).trans (BitVec.setWidth_eq b)).trans hk)
    | succ k =>
      rw [List.getElem?_cons_succ] at hk
      rw [show l + (k + 1) = l + 1 + k by omega] at ha ⊢
      refine ih _ _ hk (.trans ?_ ha)
      split <;> rfl

/-! ### Telemetry (R354) -/

/-- How many records the ring holds. -/
def State.ringSize (s : State) : Nat := 2 ^ (s.pkg.tlCtl.toNat % 16)

/-- Where the next record of the ring stands. -/
def State.ringLoc (s : State) : Nat := locHost (s.pkg.tlBase.toNat + 32 * (s.pkg.tlHead % s.ringSize))

/-- The doublewords of a record behind its number: TIME, the type with a field, the other field with PSTAT. -/
def State.recordFields (s : State) (type x y : Nat) : List Word :=
  [s.time 12, BitVec.ofNat 64 (type + x * 2 ^ 32),
   BitVec.ofNat 64 (y + ((s.pkg.statOr ||| s.pstatBits).toNat + s.pkg.corrected % 2 ^ 24 * 2 ^ 8) * 2 ^ 32)]

/-- What the writing of telemetry records can change: memory, events due, and the ring's own registers. -/
def TelemetryOnly (s s' : State) : Prop :=
  ∃ m po ti w h d, s' = { s with
    mem := m, poison := po, timers := ti, pkg := { s.pkg with tlWaiting := w, tlHead := h, tlDrop := d } }

theorem TelemetryOnly.refl (s : State) : TelemetryOnly s s := ⟨_, _, _, _, _, _, rfl⟩

theorem TelemetryOnly.trans {s s' s'' : State} (a : TelemetryOnly s s') (b : TelemetryOnly s' s'') :
    TelemetryOnly s s'' := by
  obtain ⟨_, _, _, _, _, _, rfl⟩ := a
  obtain ⟨_, _, _, _, _, _, rfl⟩ := b
  exact ⟨_, _, _, _, _, _, rfl⟩

theorem TelemetryOnly.retrain {s s' : State} (h : TelemetryOnly s s') : s'.pkg.retrain = s.pkg.retrain := by
  obtain ⟨_, _, _, _, _, _, rfl⟩ := h
  rfl

theorem TelemetryOnly.linkst {s s' : State} (h : TelemetryOnly s s') : s'.pkg.linkst = s.pkg.linkst := by
  obtain ⟨_, _, _, _, _, _, rfl⟩ := h
  rfl

theorem writeRecord_full (s : State) (ws : List Word) (h : s.pkg.tlHead - s.pkg.tlTail.toNat = s.ringSize) :
    s.writeRecord ws = s.setPkg { s.pkg with tlDrop := s.pkg.tlDrop + 1 } := by
  simp_all [State.writeRecord, State.ringSize]

theorem writeRecord_fits (s : State) (ws : List Word) (h : s.pkg.tlHead - s.pkg.tlTail.toNat ≠ s.ringSize) :
    s.writeRecord ws = (s.hostPut s.ringLoc (BitVec.ofNat 64 s.pkg.tlHead :: ws)).setPkg
      { s.pkg with tlHead := s.pkg.tlHead + 1 } := by
  simp_all [State.writeRecord, State.ringSize, State.ringLoc]

theorem writeRecord_only (s : State) (ws : List Word) : TelemetryOnly s (s.writeRecord ws) := by
  by_cases h : s.pkg.tlHead - s.pkg.tlTail.toNat = s.ringSize
  · rw [writeRecord_full s ws h]
    exact ⟨_, _, _, _, _, _, rfl⟩
  · obtain ⟨m, po, e⟩ := hostPut_frame s s.ringLoc (BitVec.ofNat 64 s.pkg.tlHead :: ws)
    rw [writeRecord_fits s ws h, e]
    exact ⟨_, _, _, _, _, _, rfl⟩

theorem foldl_writeRecord_only (s : State) (l : List (List Word)) : TelemetryOnly s (l.foldl State.writeRecord s) := by
  induction l generalizing s with
  | nil => exact .refl s
  | cons ws l ih => exact (writeRecord_only s ws).trans (ih _)

theorem writeRecords_only (s : State) : TelemetryOnly s s.writeRecords := by
  unfold State.writeRecords
  split
  · exact .refl s
  · split
    · exact ⟨_, _, _, _, _, _, rfl⟩
    · exact .trans ⟨_, _, _, _, _, _, rfl⟩ (foldl_writeRecord_only _ _)

theorem writeRecords_behind (s : State) (hw : s.pkg.tlWaiting ≠ []) (he : s.egressBefore 128 0 = true) :
    s.writeRecords = s.after 8 .telemetryRecord [0] := by
  simp [State.writeRecords, hw, he]

theorem writeRecords_now (s : State) (hw : s.pkg.tlWaiting ≠ []) (he : s.egressBefore 128 0 = false) :
    s.writeRecords = s.pkg.tlWaiting.foldl State.writeRecord (s.setPkg { s.pkg with tlWaiting := [] }) := by
  simp [State.writeRecords, hw, he]

/-- A record put behind those that wait. -/
def State.queueRecord (s : State) (ws : List Word) : State :=
  s.setPkg { s.pkg with tlWaiting := s.pkg.tlWaiting ++ [ws] }

theorem queueRecord_waits (s : State) (ws : List Word) : (s.queueRecord ws).pkg.tlWaiting ≠ [] := by
  simp [State.queueRecord]

/-- Which stores stand in an egress queue depends on the queue and on the device number. -/
theorem egressBefore_setPkg (s : State) (p : Pkg) (dest k : Nat) (he : p.egress = s.pkg.egress)
    (hd : p.device = s.pkg.device) : (s.setPkg p).egressBefore dest k = s.egressBefore dest k := by
  simp [State.egressBefore, State.destOf, he, hd]

theorem egressBefore_queueRecord (s : State) (ws : List Word) (dest k : Nat) :
    (s.queueRecord ws).egressBefore dest k = s.egressBefore dest k := egressBefore_setPkg s _ dest k rfl rfl

theorem putTelemetry_on (s : State) (type x y : Nat) (on : s.pkg.tlCtl.getLsbD 4 = true) :
    s.putTelemetry type x y = (s.queueRecord (s.recordFields type x y)).writeRecords := by
  simp only [State.putTelemetry, State.recordFields, on]
  rfl

theorem putTelemetry_only (s : State) (type x y : Nat) : TelemetryOnly s (s.putTelemetry type x y) := by
  unfold State.putTelemetry
  dsimp only
  split
  · exact .refl s
  · exact .trans ⟨_, _, _, _, _, _, rfl⟩ (writeRecords_only _)

/-- A record waits behind the stores that entered the host queue earlier (R205). -/
theorem putTelemetry_behind (s : State) (type x y : Nat) (on : s.pkg.tlCtl.getLsbD 4 = true)
    (he : s.egressBefore 128 0 = true) :
    s.putTelemetry type x y = (s.queueRecord (s.recordFields type x y)).after 8 .telemetryRecord [0] := by
  rw [putTelemetry_on s type x y on, writeRecords_behind _ (queueRecord_waits _ _) (by rwa [egressBefore_queueRecord])]

/-- A record that waits behind nothing is written at once. -/
theorem putTelemetry_now (s : State) (type x y : Nat) (on : s.pkg.tlCtl.getLsbD 4 = true)
    (he : s.egressBefore 128 0 = false) (hw : s.pkg.tlWaiting = []) :
    s.putTelemetry type x y = s.writeRecord (s.recordFields type x y) := by
  rw [putTelemetry_on s type x y on, writeRecords_now _ (queueRecord_waits _ _) (by rwa [egressBefore_queueRecord])]
  have hq : (s.queueRecord (s.recordFields type x y)).pkg.tlWaiting = [s.recordFields type x y] := by
    simp [State.queueRecord, hw]
  rw [hq, List.foldl_cons, List.foldl_nil, ← hw]
  rfl

/-- Each doubleword of a record, where it stands in the ring. -/
theorem read64_recordPut (s : State) (type x y : Nat) (p : Pkg) {k : Nat} (hk : k < 4) :
    ((s.hostPut s.ringLoc (BitVec.ofNat 64 s.pkg.tlHead :: s.recordFields type x y)).setPkg p).read64
        (s.ringLoc + 8 * k) =
      if s.hostAborts (s.ringLoc + 8 * k) then s.read64 (s.ringLoc + 8 * k)
      else (BitVec.ofNat 64 s.pkg.tlHead :: s.recordFields type x y).getD k 0 :=
  read64_hostPut s _ _ (show k < 4 from hk)

/-- The state behind the record of a window: the next window begins. -/
def State.windowDone (s : State) : State :=
  (s.setPkg { s.pkg with statOr := 0, corrected := 0 }).after 8000000 .telemetryRecord []

theorem windowDone_mem (s : State) : s.windowDone.mem = s.mem := rfl
theorem windowDone_read64 (s : State) (l : Nat) : s.windowDone.read64 l = s.read64 l := rfl
theorem windowDone_pkg (s : State) : s.windowDone.pkg = { s.pkg with statOr := 0, corrected := 0 } := rfl
theorem mem_windowDone_timers {s : State} {x : Nat × Instr × List Nat} (h : x ∈ s.timers) : x ∈ s.windowDone.timers :=
  mem_insertTimed.2 (.inr h)

theorem telemetryRecord_again (s : State) (h : s.ev ≠ []) : exec .telemetryRecord s = .next s.writeRecords := by
  simp [exec_telemetryRecord, execTelemetryRecord, h]

theorem telemetryRecord_off (s : State) (h : s.ev = []) (off : s.pkg.tlCtl.getLsbD 4 = false) :
    exec .telemetryRecord s = .next s := by
  simp only [exec_telemetryRecord, execTelemetryRecord, h, off]
  rfl

theorem telemetryRecord_window (s : State) (h : s.ev = []) (on : s.pkg.tlCtl.getLsbD 4 = true) :
    exec .telemetryRecord s = .next (s.putTelemetry 1 s.meanPower s.peakPower).windowDone := by
  simp only [exec_telemetryRecord, execTelemetryRecord, h, on]
  rfl

/-- What a window leaves, whether its record is written, waits or is lost: the samples as they were, the counts of the
window at zero, and the next window begun. -/
theorem windowDone_always {s s1 : State} (h : TelemetryOnly s s1) :
    s1.windowDone.pkg.samples = s.pkg.samples ∧ s1.windowDone.pkg.corrected = 0 ∧ s1.windowDone.pkg.statOr = 0 ∧
      (s.now + 8000000, Instr.telemetryRecord, []) ∈ s1.windowDone.timers := by
  obtain ⟨_, _, _, _, _, _, rfl⟩ := h
  exact ⟨rfl, rfl, rfl, mem_insertTimed.2 (.inl rfl)⟩

theorem meanPower_eq (s : State) (h : s.pkg.samples ≠ []) :
    s.meanPower = s.pkg.samples.sum / s.pkg.samples.length / 10 := by
  have hl : 1 ≤ s.pkg.samples.length := List.length_pos_iff.2 h
  rw [State.meanPower, ← List.sum_eq_foldl, Nat.max_eq_left hl]

/-! ### The host's registers (R344, R354, R356, R357) -/

theorem hostWrite_answered (s : State) (f : Pkg → Pkg) (h : s.pkg.bootState ≠ 2) : hostWrite s f = s.setPkg (f s.pkg) := by
  simp [hostWrite, State.answers, h]

theorem hostWrite_held (s : State) (f : Pkg → Pkg) (h : s.pkg.bootState = 2) : hostWrite s f = s := by
  simp [hostWrite, State.answers, h]

theorem setTlCtl_tlCtl (s : State) (v : Word) : (s.setTlCtl v).pkg.tlCtl = v &&& 31 := by
  unfold State.setTlCtl
  dsimp only
  split
  · rfl
  · split <;> rfl

/-- Enabling telemetry begins a window. -/
theorem setTlCtl_begins (s : State) (v : Word) (on : v.getLsbD 4 = true) (was : s.pkg.tlCtl.getLsbD 4 = false) :
    s.setTlCtl v = (s.setPkg { s.pkg with tlCtl := v &&& 31, statOr := 0 }).after 8000000 .telemetryRecord [] := by
  simp only [State.setTlCtl, on, was]
  rfl

/-- Telemetry that stays enabled keeps the window that runs. -/
theorem setTlCtl_runs (s : State) (v : Word) (on : v.getLsbD 4 = true) (was : s.pkg.tlCtl.getLsbD 4 = true) :
    s.setTlCtl v = s.setPkg { s.pkg with tlCtl := v &&& 31 } := by
  simp only [State.setTlCtl, on, was]
  rfl

/-- Disabling telemetry ends the window that runs. -/
theorem setTlCtl_ends (s : State) (v : Word) (off : v.getLsbD 4 = false) (was : s.pkg.tlCtl.getLsbD 4 = true) :
    ∀ x ∈ (s.setTlCtl v).timers, x.2 ≠ (Instr.telemetryRecord, []) := by
  have e : (s.setTlCtl v).timers = s.timers.filter (fun x => !(x.2.1 = .telemetryRecord && x.2.2.isEmpty)) := by
    simp only [State.setTlCtl, off, was]
    rfl
  intro x hx hx'
  simp [e, hx'] at hx

theorem registerWrite_tlCtl (s : State) (h : s.pkg.bootState ≠ 2) (ho : s.arg 0 = 0x218) :
    exec .registerWrite s = .next (s.setTlCtl (BitVec.ofNat 64 (s.arg 1))) := by
  simp [exec_registerWrite, execRegisterWrite, ho, State.answers, h]

/-- A package that is held in reset takes no register write and no doorbell. -/
theorem heldInReset_ignores (s : State) (h : s.pkg.bootState = 2) :
    exec .registerWrite s = .next s ∧ exec .ldoorWrite s = .next s ∧ exec .adoorWrite s = .next s := by
  refine ⟨?_, ?_, ?_⟩
  · simp only [exec_registerWrite, execRegisterWrite, hostWrite_held s _ h]
    split <;> simp [State.answers, h]
  · simp [exec_ldoorWrite, execLdoorWrite, State.answers, h]
  · simp [exec_adoorWrite, execAdoorWrite, State.answers, h]

theorem heldInReset_reads (s : State) (h : s.pkg.bootState = 2) (off : Nat) :
    s.ldRegister off = if off = 0x508 then BitVec.ofNat 64 (s.pkg.bootImage * 256 + 2) else 0 := by
  simp [State.ldRegister, State.answers, h]

/-! ### Attestation (R357) -/

theorem adoorWrite_ignored (s : State) (h : s.pkg.astat = 1 ∨ 32768 ≤ s.pkg.fuse) : exec .adoorWrite s = .next s := by
  have hc : (!s.answers || decide (s.pkg.astat = 1) || decide (32768 ≤ s.pkg.fuse)) = true := by
    simp only [Bool.or_eq_true, decide_eq_true_eq, or_assoc]
    exact .inr h
  simp only [exec_adoorWrite, execAdoorWrite, if_pos hc]

/-- A leaf is burned, and the report is on its way. -/
theorem adoorWrite_burns (s : State) (hb : s.pkg.bootState ≠ 2) (h : s.pkg.astat ≠ 1) (hf : s.pkg.fuse < 32768) :
    exec .adoorWrite s = .next ((s.setPkg { s.pkg with
      astat := 1, leaf := s.pkg.fuse, fuse := s.pkg.fuse + 1 }).push .attestationComplete []) := by
  have hc : ¬ (!s.answers || decide (s.pkg.astat = 1) || decide (32768 ≤ s.pkg.fuse)) = true := by
    simp only [State.answers, ne_eq, hb, not_false_eq_true, decide_true, Bool.not_true, h, decide_false, Bool.false_or,
      decide_eq_true_eq]
    omega
  simp only [exec_adoorWrite, execAdoorWrite, if_neg hc]

@[simp] theorem wordsOfNat_length (n v : Nat) : (wordsOfNat n v).length = n := by
  induction n generalizing v with
  | zero => rfl
  | succ n ih => simp [wordsOfNat, ih]

theorem wordsOfNat_getElem? {n k : Nat} (v : Nat) (hk : k < n) :
    (wordsOfNat n v)[k]? = some (BitVec.ofNat 64 (v / 2 ^ (64 * k))) := by
  induction n generalizing v k with
  | zero => omega
  | succ n ih =>
    cases k with
    | zero => rw [wordsOfNat, List.getElem?_cons_zero, Nat.mul_zero, Nat.pow_zero, Nat.div_one]
    | succ k =>
      rw [wordsOfNat, List.getElem?_cons_succ, ih _ (by omega), Nat.div_div_eq_div_mul, ← Nat.pow_add,
        show 64 + 64 * k = 64 * (k + 1) by omega]

/-- Numbers laid out one behind the other, n doublewords each. -/
theorem flatMap_wordsOfNat_getElem? (f : Nat → Nat) (l : List Nat) {n i j k : Nat} (hj : l[j]? = some i) (hk : k < n) :
    (l.flatMap (fun i => wordsOfNat n (f i)))[n * j + k]? = some (BitVec.ofNat 64 (f i / 2 ^ (64 * k))) := by
  induction l generalizing j with
  | nil => cases hj
  | cons a l ih =>
    rw [List.flatMap_cons]
    cases j with
    | zero =>
      rw [List.getElem?_cons_zero, Option.some.injEq] at hj
      rw [Nat.mul_zero, Nat.zero_add, List.getElem?_append_left (by rwa [wordsOfNat_length]), wordsOfNat_getElem? _ hk, hj]
    | succ j =>
      rw [List.getElem?_cons_succ] at hj
      rw [Nat.mul_succ, List.getElem?_append_right (by rw [wordsOfNat_length]; omega), wordsOfNat_length,
        show n * j + n + k - n = n * j + k by omega, ih hj]

/-- The words of the image hashes in a report. -/
def State.imageWords (s : State) : List Word :=
  (upTo 4).flatMap (fun k => wordsOfNat 4 (sha256Num (AMap.get [] s.pkg.images k)))

/-- A report is 24 doublewords: its version and leaf, the nonce, the serial number, and the hashes. -/
theorem report_eq (s : State) : s.report = [1, BitVec.ofNat 64 s.pkg.leaf, AMap.get 0 s.pkg.anonce 0,
    AMap.get 0 s.pkg.anonce 1, AMap.get 0 s.pkg.anonce 2, AMap.get 0 s.pkg.anonce 3] ++ wordsOfNat 2 Config.serial ++
    s.imageWords := rfl

theorem report_length (s : State) : s.report.length = 24 := rfl

theorem report_nonce (s : State) {k : Nat} (hk : k < 4) : s.report[2 + k]? = some (AMap.get 0 s.pkg.anonce k) := by
  match k, hk with
  | 0, _ | 1, _ | 2, _ | 3, _ => rfl

theorem report_serial (s : State) {k : Nat} (hk : k < 2) :
    s.report[6 + k]? = some (BitVec.ofNat 64 (Config.serial / 2 ^ (64 * k))) :=
  calc s.report[6 + k]?
      = (wordsOfNat 2 Config.serial ++ s.imageWords)[k]? := by
        rw [report_eq, List.append_assoc, List.getElem?_append_right (Nat.le_add_right 6 k)]
        exact congrArg _ (Nat.add_sub_cancel_left 6 k)
    _ = (wordsOfNat 2 Config.serial)[k]? := List.getElem?_append_left (by rwa [wordsOfNat_length])
    _ = _ := wordsOfNat_getElem? _ hk

theorem report_image (s : State) {n k : Nat} (hn : n < 4) (hk : k < 4) :
    s.report[8 + (4 * n + k)]? =
      some (BitVec.ofNat 64 (sha256Num (AMap.get [] s.pkg.images n) / 2 ^ (64 * k))) :=
  calc s.report[8 + (4 * n + k)]?
      = s.imageWords[4 * n + k]? := by
        rw [report_eq, List.getElem?_append_right (Nat.le_add_right 8 _)]
        exact congrArg _ (Nat.add_sub_cancel_left 8 _)
    _ = _ := flatMap_wordsOfNat_getElem? (fun i => sha256Num (AMap.get [] s.pkg.images i)) (upTo 4)
        (List.getElem?_range hn) hk

/-- The state with the signed report in host memory. -/
def State.signedReport (s : State) : State :=
  ((s.hostPut (locHost s.pkg.adest.toNat) s.report).hostPutBytes (locHost s.pkg.adest.toNat + 192)
    ((upTo signatureLength).map (signatureAt s.pkg.leaf s.report)))

theorem attestationComplete_idle (s : State) (h : s.pkg.astat ≠ 1) : exec .attestationComplete s = .next s := by
  simp [exec_attestationComplete, execAttestationComplete, h]

theorem attestationComplete_behind (s : State) (h : s.pkg.astat = 1) (he : s.egressBefore 128 0 = true) :
    exec .attestationComplete s = .next (s.after 8 .attestationComplete []) := by
  simp [exec_attestationComplete, execAttestationComplete, h, he]

theorem attestationComplete_signs (s : State) (h : s.pkg.astat = 1) (he : s.egressBefore 128 0 = false) :
    exec .attestationComplete s = .next (s.signedReport.setPkg { s.pkg with astat := 2 }) := by
  simp [exec_attestationComplete, execAttestationComplete, State.signedReport, h, he]

/-- Each doubleword of the report stands in host memory, where the host does not abort it. -/
theorem signedReport_read64 (s : State) {j : Nat} {v : Word} (hv : s.report[j]? = some v)
    (ha : s.hostAborts (locHost s.pkg.adest.toNat + 8 * j) = false) :
    s.signedReport.read64 (locHost s.pkg.adest.toNat + 8 * j) = v := by
  obtain ⟨hj, -⟩ := List.getElem?_eq_some_iff.1 hv
  have hj' : j < 24 := report_length s ▸ hj
  unfold State.signedReport
  rw [read64_congr fun b _ hb => readByte_hostPutBytes_outside _ _ _ (by omega), read64_hostPut s _ _ hj, ha,
    List.getD_eq_getElem?_getD, hv]
  rfl

/-- Each byte of the signature stands behind it. -/
theorem signedReport_signature (s : State) {k : Nat} (hk : k < 1612)
    (ha : s.hostAborts (locHost s.pkg.adest.toNat + 192 + k) = false) :
    readByte s.signedReport.mem (locHost s.pkg.adest.toNat + 192 + k) = signatureAt s.pkg.leaf s.report k := by
  have hv : ((upTo signatureLength).map (signatureAt s.pkg.leaf s.report))[k]? =
      some (signatureAt s.pkg.leaf s.report k) := by
    rw [List.getElem?_map, upTo, List.getElem?_range (show k < signatureLength from hk)]
    rfl
  have hp : (s.hostPut (locHost s.pkg.adest.toNat) s.report).hostAborts (locHost s.pkg.adest.toNat + 192 + k) =
      s.hostAborts (locHost s.pkg.adest.toNat + 192 + k) := by rw [State.hostAborts, hostPut_pkg, State.hostAborts]
  exact readByte_hostPutBytes _ _ _ hv (hp.trans ha)

/-! ### The parts of the obligation -/

/-- A register write leaves its value where a read of the same register finds it. -/
theorem registerWrite_readsBack (s : State) (h : s.pkg.bootState ≠ 2) (v : Word) (hv : v = BitVec.ofNat 64 (s.arg 1)) :
    let puts (off : Nat) (p : Pkg) : Prop := s.arg 0 = off → exec .registerWrite s = .next (s.setPkg p) ∧
      (s.setPkg p).ldRegister off = v
    puts 0x000 { s.pkg with lrec := v } ∧ puts 0x210 { s.pkg with tlBase := v } ∧ puts 0x220 { s.pkg with tlTail := v } ∧
    puts 0x400 { s.pkg with anonce := AMap.set s.pkg.anonce 0 v } ∧
    puts 0x408 { s.pkg with anonce := AMap.set s.pkg.anonce 1 v } ∧
    puts 0x410 { s.pkg with anonce := AMap.set s.pkg.anonce 2 v } ∧
    puts 0x418 { s.pkg with anonce := AMap.set s.pkg.anonce 3 v } ∧ puts 0x420 { s.pkg with adest := v } := by
  subst hv
  intro puts
  refine ⟨?_, ?_, ?_, ?_, ?_, ?_, ?_, ?_⟩
  all_goals
    intro ho
    constructor
    · simp only [exec_registerWrite, execRegisterWrite, ho, hostWrite_answered s _ h]
    · simp [State.ldRegister, State.answers, h]

theorem capWords_cons (at_ : Word) (e f : CapEntry) (es : List CapEntry) :
    capWords at_ (e :: f :: es) = [BitVec.ofNat 64 (e.id + 2 ^ 16 + 8 * e.payload.length * 2 ^ 32),
      at_ + BitVec.ofNat 64 (16 + 8 * e.payload.length)] ++ e.payload ++
      capWords (at_ + BitVec.ofNat 64 (16 + 8 * e.payload.length)) (f :: es) := rfl

theorem capWords_last (at_ : Word) (e : CapEntry) :
    capWords at_ [e] = [BitVec.ofNat 64 (e.id + 2 ^ 16 + 8 * e.payload.length * 2 ^ 32), 0] ++ e.payload :=
  List.append_nil _

/-- The record of a window waits, is lost, or is written to the ring. -/
theorem telemetryRecord_acts (s : State) (h : s.ev = []) (on : s.pkg.tlCtl.getLsbD 4 = true) :
    let record := s.recordFields 1 s.meanPower s.peakPower
    ∃ s' : State, exec .telemetryRecord s = .next s' ∧
      s'.pkg.samples = s.pkg.samples ∧
      s'.pkg.corrected = 0 ∧ s'.pkg.statOr = 0 ∧ (s.now + 8000000, Instr.telemetryRecord, []) ∈ s'.timers ∧
      (s.egressBefore 128 0 = true → s'.pkg.tlWaiting = s.pkg.tlWaiting ++ [record] ∧ s'.mem = s.mem ∧
        s'.pkg.tlHead = s.pkg.tlHead ∧ (s.now + 8, Instr.telemetryRecord, [0]) ∈ s'.timers) ∧
      (s.egressBefore 128 0 = false → s.pkg.tlWaiting = [] → s'.pkg.tlWaiting = [] ∧
        (s.pkg.tlHead - s.pkg.tlTail.toNat = s.ringSize →
          s'.pkg.tlDrop = s.pkg.tlDrop + 1 ∧ s'.pkg.tlHead = s.pkg.tlHead ∧ s'.mem = s.mem) ∧
        (s.pkg.tlHead - s.pkg.tlTail.toNat ≠ s.ringSize →
          s'.pkg.tlHead = s.pkg.tlHead + 1 ∧ s'.pkg.tlDrop = s.pkg.tlDrop ∧
          ∀ k, k < 4 → s'.read64 (s.ringLoc + 8 * k) = (if s.hostAborts (s.ringLoc + 8 * k)
            then s.read64 (s.ringLoc + 8 * k) else (BitVec.ofNat 64 s.pkg.tlHead :: record).getD k 0))) := by
  intro record
  obtain ⟨hsamples, hcorrected, hstat, htimer⟩ := windowDone_always (putTelemetry_only s 1 s.meanPower s.peakPower)
  refine ⟨_, telemetryRecord_window s h on, hsamples, hcorrected, hstat, htimer, fun he => ?_, fun he hw => ?_⟩
  · rw [putTelemetry_behind s _ _ _ on he, windowDone_mem, windowDone_pkg]
    exact ⟨rfl, rfl, rfl, mem_windowDone_timers (mem_insertTimed.2 (.inl rfl))⟩
  · rw [putTelemetry_now s _ _ _ on he hw]
    by_cases hf : s.pkg.tlHead - s.pkg.tlTail.toNat = s.ringSize
    · rw [writeRecord_full s _ hf, windowDone_mem, windowDone_pkg]
      exact ⟨hw, fun _ => ⟨rfl, rfl, rfl⟩, fun hn => absurd hf hn⟩
    · rw [writeRecord_fits s _ hf, windowDone_pkg]
      refine ⟨hw, fun h => absurd h hf, fun _ => ⟨rfl, rfl, fun k hk => ?_⟩⟩
      rw [windowDone_read64]
      exact read64_recordPut s _ _ _ _ hk

/-- A retraining turns its port's bit and leaves an event record with LINKST in the ring. -/
theorem retrain_acts (s : State) (p : Nat) :
    (s.retrain p).pkg.retrain = s.pkg.retrain ^^^ (1#16 <<< p) ∧ (s.retrain p).pkg.linkst = s.pkg.linkst ∧
    (s.pkg.tlCtl.getLsbD 4 = true → s.egressBefore 128 0 = false → s.pkg.tlWaiting = [] →
      s.pkg.tlHead - s.pkg.tlTail.toNat ≠ s.ringSize → (s.retrain p).pkg.tlHead = s.pkg.tlHead + 1 ∧
      (s.hostAborts (s.ringLoc + 16) = false →
        (s.retrain p).read64 (s.ringLoc + 16) = BitVec.ofNat 64 (2 + s.pkg.linkst.toNat * 2 ^ 32))) := by
  let s1 := s.setPkg { s.pkg with retrain := s.pkg.retrain ^^^ (1#16 <<< p) }
  have hr : s.retrain p = s1.putTelemetry 2 s.pkg.linkst.toNat 0 := rfl
  rw [hr]
  have kept := putTelemetry_only s1 2 s.pkg.linkst.toNat 0
  refine ⟨kept.retrain, kept.linkst, fun on he hw hf => ?_⟩
  rw [putTelemetry_now s1 2 _ 0 on ((egressBefore_setPkg s _ 128 0 rfl rfl).trans he) hw, writeRecord_fits s1 _ hf]
  refine ⟨rfl, fun ha => (read64_recordPut s1 2 _ 0 _ (k := 2) (by decide)).trans ?_⟩
  rw [show s1.hostAborts (s1.ringLoc + 8 * 2) = false from ha]
  rfl

/-- A completed attestation leaves the signed report in host memory. -/
theorem attestationComplete_writes (s : State) (h : s.pkg.astat = 1) (he : s.egressBefore 128 0 = false)
    (ha : ∀ k, k < 1804 → s.hostAborts (locHost s.pkg.adest.toNat + k) = false) :
    let l := locHost s.pkg.adest.toNat
    ∃ s' : State, exec .attestationComplete s = .next s' ∧ s'.pkg.astat = 2 ∧ s'.pkg.fuse = s.pkg.fuse ∧
      s'.read64 l = 1 ∧ s'.read64 (l + 8) = BitVec.ofNat 64 s.pkg.leaf ∧
      (∀ k, k < 4 → s'.read64 (l + 16 + 8 * k) = AMap.get 0 s.pkg.anonce k) ∧
      (∀ k, k < 2 → s'.read64 (l + 48 + 8 * k) = BitVec.ofNat 64 (Config.serial / 2 ^ (64 * k))) ∧
      (∀ n k, n < 4 → k < 4 → s'.read64 (l + 64 + 32 * n + 8 * k) =
        BitVec.ofNat 64 (sha256Num (AMap.get [] s.pkg.images n) / 2 ^ (64 * k))) ∧
      ∀ k, k < 1612 → readByte s'.mem (l + 192 + k) = signatureAt s.pkg.leaf s.report k := by
  intro l
  have word : ∀ {j : Nat} {v : Word} (a : Nat), s.report[j]? = some v → j < 24 → a = l + 8 * j →
      (s.signedReport.setPkg { s.pkg with astat := 2 }).read64 a = v := by
    rintro j v _ hv hj rfl
    rw [read64_setPkg]
    exact signedReport_read64 s hv (ha (8 * j) (by omega))
  refine ⟨_, attestationComplete_signs s h he, rfl, rfl, ?_, ?_, fun k hk => ?_, fun k hk => ?_, fun n k hn hk => ?_,
    fun k hk => ?_⟩
  · exact word (j := 0) _ rfl (by omega) (by omega)
  · exact word (j := 1) _ rfl (by omega) (by omega)
  · exact word _ (report_nonce s hk) (by omega) (by omega)
  · exact word _ (report_serial s hk) (by omega) (by omega)
  · exact word _ (report_image s hn hk) (by omega) (by omega)
  · rw [State.setPkg_mem]
    exact signedReport_signature s hk (by rw [Nat.add_assoc]; exact ha (192 + k) (by omega))

/-- Settles O47: the host's registers, the capability list, the telemetry ring and attestation, each by the lemmas about
its own operation. -/
theorem hostRegistersTelemetryAndAttestation : Obligations.HostRegistersTelemetryAndAttestation := by
  unfold Obligations.HostRegistersTelemetryAndAttestation
  refine ⟨⟨fun s hb v hv => ?_, fun s hb => ?_, fun device => ⟨rfl, capWords_cons, capWords_last⟩⟩, fun s => ?_,
    fun s hb => ⟨adoorWrite_ignored s, fun h hf => ⟨_, adoorWrite_burns s hb h hf, rfl, rfl, rfl, ?_⟩⟩,
    fun s => ⟨attestationComplete_idle s, attestationComplete_behind s, attestationComplete_writes s⟩⟩
  · obtain ⟨h000, h210, h220, h400, h408, h410, h418, h420⟩ := registerWrite_readsBack s hb v hv
    refine ⟨h000, h210, h220, h400, h408, h410, h418, h420, fun ho => ⟨s.setTlCtl v, ?_, setTlCtl_tlCtl s v,
      fun on was => ?_, fun on was => ?_, setTlCtl_ends s v⟩⟩
    · rw [hv]
      exact registerWrite_tlCtl s hb ho
    · rw [setTlCtl_begins s v on was]
      exact ⟨rfl, mem_insertTimed.2 (.inl rfl)⟩
    · rw [setTlCtl_runs s v on was]
      rfl
  · obtain ⟨hreg, hldoor, hadoor⟩ := heldInReset_ignores s hb
    exact ⟨hreg, hldoor, hadoor, heldInReset_reads s hb⟩
  · exact ⟨telemetryRecord_again s, telemetryRecord_off s, telemetryRecord_acts s, retrain_acts s, meanPower_eq s, rfl⟩
  · simp

end Sys2Proof.Machine
end

section
/-!
PROOF. Launches (R116, R152, R343, R344): how a record and a descriptor are read, what a submission, the check of a
record, the push of a task, a fill and the end of a launch do, and what a step of the launch in process comes to.
-/

namespace Sys2Proof.Machine

/-! ### Maps built by reading -/

@[simp] theorem AMap.has_set {α : Type} (m : AMap α) (k : Nat) (v : α) (j : Nat) :
    AMap.has (AMap.set m k v) j = (decide (j = k) || AMap.has m j) := by
  induction m with
  | nil => simp [AMap.set, AMap.has]
  | cons p m ih =>
    obtain ⟨i, w⟩ := p
    simp only [AMap.set]
    split
    · simp only [AMap.has]
    · split
      · next hk => simp [AMap.has, hk]
      · simp only [AMap.has, ih, Bool.or_left_comm]

theorem AMap.has_foldl_set {α : Type} (f : Nat → α) (offs : List Nat) (m : AMap α) (o : Nat) :
    AMap.has (offs.foldl (fun m o => AMap.set m o (f o)) m) o = (decide (o ∈ offs) || AMap.has m o) := by
  induction offs generalizing m with
  | nil => simp
  | cons a offs ih => simp [ih, Bool.or_left_comm, Bool.or_assoc]

theorem AMap.get_foldl_set {α : Type} (d : α) (f : Nat → α) (offs : List Nat) (m : AMap α) (o : Nat) :
    AMap.get d (offs.foldl (fun m o => AMap.set m o (f o)) m) o = if o ∈ offs then f o else AMap.get d m o := by
  induction offs generalizing m with
  | nil => simp
  | cons a offs ih =>
    rw [List.foldl_cons, ih]
    by_cases ha : o = a
    · subst ha; simp
    · simp [ha, AMap.get_set_ne]

/-! ### Reading a record and a descriptor (R207, R343) -/

/-- A free choice draws free values alone. -/
theorem choose_state {α : Type} {s s' : State} {l : List α} {a : α} (h : s.choose l = some (a, s')) :
    ∃ n, s' = { s with free := n } := by
  match l with
  | [] => exact nomatch h
  | [_] => exact ⟨s.free, (Prod.mk.inj (Option.some.inj h)).2.symm⟩
  | _ :: _ :: _ => exact ⟨s.free + 1, (Prod.mk.inj (Option.some.inj h)).2.symm⟩

/-- Reading changes nothing but the free values drawn. -/
theorem readSome_state {s s' : State} {got got' : AMap Word} {offs : List Nat} {loc k : Nat → Nat}
    (h : s.readSome got offs loc k = .ok (s', got')) : ∃ n, s' = { s with free := n } := by
  unfold State.readSome at h
  dsimp only at h
  split at h
  · split at h
    · next hc => cases h; exact choose_state hc
    · exact nomatch h
    · cases h; exact ⟨s.free, rfl⟩
  · split at h
    · exact nomatch h
    · cases h; exact ⟨s.free, rfl⟩

/-- Where requests are not split, every doubleword not yet read is read at once. -/
theorem readSome_whole {s s' : State} {got got' : AMap Word} {offs : List Nat} {loc k : Nat → Nat}
    (hs : s.split = false) (h : s.readSome got offs loc k = .ok (s', got')) :
    s' = s ∧ got' = (offs.filter (fun o => !AMap.has got o)).foldl (fun m o => AMap.set m o (s.read64 (loc o))) got := by
  simp only [State.readSome, hs, Bool.false_eq_true, if_false] at h
  split at h
  · exact nomatch h
  · cases h; exact ⟨rfl, rfl⟩

theorem readSome_whole_has {s s' : State} {got got' : AMap Word} {offs : List Nat} {loc k : Nat → Nat}
    (hs : s.split = false) (h : s.readSome got offs loc k = .ok (s', got')) (o : Nat) :
    AMap.has got' o = true ↔ o ∈ offs ∨ AMap.has got o = true := by
  obtain ⟨-, rfl⟩ := readSome_whole hs h
  cases hg : AMap.has got o <;> simp [AMap.has_foldl_set, hg]

theorem readSome_whole_new {s s' : State} {got got' : AMap Word} {offs : List Nat} {loc k : Nat → Nat}
    (hs : s.split = false) (h : s.readSome got offs loc k = .ok (s', got')) {o : Nat} (ho : o ∈ offs)
    (hg : AMap.has got o = false) : AMap.get 0 got' o = s.read64 (loc o) := by
  obtain ⟨-, rfl⟩ := readSome_whole hs h
  simp [AMap.get_foldl_set, ho, hg]

theorem readSome_whole_old {s s' : State} {got got' : AMap Word} {offs : List Nat} {loc k : Nat → Nat}
    (hs : s.split = false) (h : s.readSome got offs loc k = .ok (s', got')) {o : Nat} (hg : AMap.has got o = true) :
    AMap.get 0 got' o = AMap.get 0 got o := by
  obtain ⟨-, rfl⟩ := readSome_whole hs h
  simp [AMap.get_foldl_set, hg]

/-- Which doublewords a record has depends on that of its counts alone. -/
theorem recordOffs_congr {got got' : AMap Word} (hh : AMap.has got' 16 = AMap.has got 16)
    (hg : AMap.get 0 got' 16 = AMap.get 0 got 16) : recordOffs got' = recordOffs got := by
  simp only [recordOffs, hh, hg]

/-- Taking a record changes nothing but the free values drawn. -/
theorem takeRecord_state {s s' : State} {lrec : Word} {got : AMap Word} (h : s.takeRecord lrec = .ok (s', got)) :
    ∃ n, s' = { s with free := n } := by
  unfold State.takeRecord at h
  dsimp only at h
  split at h
  · exact nomatch h
  · next h1 =>
    obtain ⟨n, rfl⟩ := readSome_state h1
    split at h
    · cases h; exact ⟨n, rfl⟩
    · obtain ⟨m, rfl⟩ := readSome_state h
      exact ⟨m, rfl⟩

/-- Where requests are not split, a record is read in two goes: its head, then what its counts reach. -/
theorem takeRecord_twice {s s' : State} {lrec : Word} {got : AMap Word} (hs : s.split = false)
    (hg : s.pkg.launchGot = []) (h : s.takeRecord lrec = .ok (s', got)) :
    s' = s ∧ ∃ head, s.readSome [] (recordOffs []) (s.recordLoc lrec) (s.numberAt 0) = .ok (s, head) ∧
      s.readSome head (recordOffs head) (s.recordLoc lrec) (s.numberAt 0) = .ok (s, got) := by
  unfold State.takeRecord at h
  dsimp only at h
  rw [hg] at h
  split at h
  · exact nomatch h
  · next s1 head h1 =>
    obtain ⟨rfl, -⟩ := readSome_whole hs h1
    simp only [hs, Bool.false_eq_true, if_false] at h
    obtain ⟨rfl, -⟩ := readSome_whole hs h
    exact ⟨rfl, head, h1, h⟩

/-- A record read where requests are not split is read whole, each doubleword from its own place. -/
theorem takeRecord_reads {s s' : State} {lrec : Word} {got : AMap Word} (hs : s.split = false)
    (hg : s.pkg.launchGot = []) (h : s.takeRecord lrec = .ok (s', got)) :
    s' = s ∧ recordWhole got = true ∧ ∀ o ∈ recordOffs got, AMap.get 0 got o = s.read64 (s.recordLoc lrec o) := by
  obtain ⟨rfl, head, h1, h2⟩ := takeRecord_twice hs hg h
  have headHas (o : Nat) : AMap.has head o = true ↔ o ∈ recordOffs [] := by
    simpa [AMap.has] using readSome_whole_has hs h1 o
  have counts : AMap.has head 16 = true := (headHas 16).2 (by decide)
  have whole (o : Nat) := readSome_whole_has hs h2 o
  have gotCounts : AMap.has got 16 = true := (whole 16).2 (.inr counts)
  have offs : recordOffs got = recordOffs head :=
    recordOffs_congr (gotCounts.trans counts.symm) (readSome_whole_old hs h2 counts)
  rw [recordWhole, offs]
  refine ⟨rfl, ?_, fun o ho => ?_⟩
  · rw [gotCounts, Bool.true_and, List.all_eq_true]
    exact fun o ho => (whole o).2 (.inl ho)
  · cases hh : AMap.has head o with
    | false => exact readSome_whole_new hs h2 ho hh
    | true => exact (readSome_whole_old hs h2 hh).trans (readSome_whole_new hs h1 ((headHas o).1 hh) rfl)

/-- A descriptor read where requests are not split: its eight doublewords. -/
theorem readDescriptor_reads {s s' : State} {l : Nat} {k : Nat → Nat} {got : AMap Word} (hs : s.split = false)
    (h : s.readSome [] descOffs (l + ·) k = .ok (s', got)) :
    s' = s ∧ got.length = 8 ∧ ∀ j, j < 8 → AMap.get 0 got (8 * j) = s.read64 (l + 8 * j) := by
  have each (j : Nat) (hj : j < 8) : AMap.get 0 got (8 * j) = s.read64 (l + 8 * j) :=
    readSome_whole_new hs h (List.mem_map.2 ⟨j, List.mem_range.2 hj, rfl⟩) rfl
  obtain ⟨rfl, rfl⟩ := readSome_whole hs h
  exact ⟨rfl, rfl, each⟩

theorem descriptorWords_eq (got : AMap Word) :
    (List.range 8).map (fun j => AMap.get 0 got (8 * j)) = descOffs.map (AMap.get 0 got) :=
  (List.map_map (l := List.range 8)).symm

/-! ### Submission (R344) -/

theorem ldoorWrite_dropped (s : State) (hb : s.pkg.bootState ≠ 2) (h : 16 ≤ s.pkg.launchQ.length) :
    exec .ldoorWrite s = .next (s.setPkg { s.pkg with lerr := 6 }) := by
  simp [exec_ldoorWrite, execLdoorWrite, State.answers, hb, h]

/-- The state in which the record that LREC names has been submitted. -/
def State.submitRecord (s : State) : State :=
  s.setPkg { s.pkg with launchQ := s.pkg.launchQ ++ [s.pkg.lrec], submitted := (s.pkg.submitted + 1) % 2 ^ 16 }

/-- A launch that finds none before it is taken up. -/
theorem ldoorWrite_takenUp (s : State) (hb : s.pkg.bootState ≠ 2) (hq : s.pkg.launchQ = []) (hl : s.pkg.launching = none) :
    exec .ldoorWrite s = .next (s.submitRecord.push .launch []) := by
  simp [exec_ldoorWrite, execLdoorWrite, State.answers, State.submitRecord, hb, hq, hl]

theorem ldoorWrite_queued (s : State) (hb : s.pkg.bootState ≠ 2) (h : s.pkg.launchQ.length < 16)
    (hq : ¬ (s.pkg.launchQ = [] ∧ s.pkg.launching = none)) : exec .ldoorWrite s = .next s.submitRecord := by
  simp [exec_ldoorWrite, execLdoorWrite, State.answers, State.submitRecord, hb, Nat.not_le.2 h, hq]

theorem ldoorWrite_submits (s : State) (hb : s.pkg.bootState ≠ 2) (h : s.pkg.launchQ.length < 16) :
    ∃ s' : State, exec .ldoorWrite s = .next s' ∧ s'.pkg.launchQ = s.pkg.launchQ ++ [s.pkg.lrec] ∧
      s'.pkg.submitted = (s.pkg.submitted + 1) % 2 ^ 16 ∧ s'.pkg.doneCount = s.pkg.doneCount ∧
      (s.pkg.launchQ = [] → s.pkg.launching = none → (Instr.launch, []) ∈ s'.agenda) := by
  by_cases hq : s.pkg.launchQ = [] ∧ s.pkg.launching = none
  · exact ⟨_, ldoorWrite_takenUp s hb hq.1 hq.2, rfl, rfl, rfl, fun _ _ => by simp⟩
  · exact ⟨_, ldoorWrite_queued s hb h hq, rfl, rfl, rfl, fun h1 h2 => absurd ⟨h1, h2⟩ hq⟩

/-! ### Energy of a launched region (R355) -/

/-- Whether a thread of the root region with this key is in a slot. -/
def State.regionRuns (s : State) (key : Nat) : Bool :=
  s.threads.any (fun p => p.2.status ≠ .free && s.rootKey p.2.root p.2.rcb = key)

theorem startEnergy_runs (s : State) (root rcb : Word) (h : s.regionRuns (s.rootKey root rcb) = true) :
    s.startEnergy root rcb = s := if_pos h

theorem startEnergy_idle (s : State) (root rcb : Word) (h : s.regionRuns (s.rootKey root rcb) = false) :
    s.startEnergy root rcb = s.setPkg { s.pkg with
      energy := AMap.set s.pkg.energy (s.rootKey root rcb) 0
      work := s.pkg.work.filter (fun p => p.1 % 2 ^ 128 ≠ s.rootKey root rcb) } :=
  if_neg (Bool.eq_false_iff.1 h)

theorem regionRuns_eq_false {s : State} {key : Nat} :
    s.regionRuns key = false ↔ ∀ x ∈ s.threads, x.2.status ≠ .free → s.rootKey x.2.root x.2.rcb ≠ key := by
  simp only [State.regionRuns, List.any_eq_false, Bool.and_eq_true, decide_eq_true_eq, not_and, ne_eq]

/-- The energy counters and the work under way are all that a launch's start of its region's count changes. -/
theorem startEnergy_frame (s : State) (root rcb : Word) :
    ∃ e w, s.startEnergy root rcb = s.setPkg { s.pkg with energy := e, work := w } := by
  cases h : s.regionRuns (s.rootKey root rcb) with
  | false => exact ⟨_, _, startEnergy_idle s root rcb h⟩
  | true => exact ⟨s.pkg.energy, s.pkg.work, startEnergy_runs s root rcb h⟩

theorem startEnergy_same (s : State) (root rcb : Word)
    (h : ∀ x ∈ s.threads, x.2.status ≠ .free → s.rootKey x.2.root x.2.rcb ≠ s.rootKey root rcb) :
    AMap.get 0 (s.startEnergy root rcb).pkg.energy (s.rootKey root rcb) = 0 := by
  rw [startEnergy_idle s root rcb (regionRuns_eq_false.2 h)]
  exact AMap.get_set_same _ _ _ _

theorem startEnergy_other (s : State) (root rcb : Word) {k : Nat} (h : k ≠ s.rootKey root rcb) :
    AMap.get 0 (s.startEnergy root rcb).pkg.energy k = AMap.get 0 s.pkg.energy k := by
  cases hr : s.regionRuns (s.rootKey root rcb) with
  | false => rw [startEnergy_idle s root rcb hr]; exact AMap.get_set_ne _ _ _ h
  | true => rw [startEnergy_runs s root rcb hr]

/-! ### The end of a launch (R344) -/

/-- The next record is taken up where one waits; the rest is the same either way. -/
theorem endLaunch_ends (s : State) (err : Option Nat) :
    (s.endLaunch err).pkg.launching = none ∧ (s.endLaunch err).pkg.doneCount = (s.pkg.doneCount + 1) % 2 ^ 16 ∧
    (s.endLaunch err).pkg.lerr = err.getD s.pkg.lerr ∧ (s.endLaunch err).mem = s.mem ∧
    (s.endLaunch err).threads = s.threads := by
  unfold State.endLaunch
  dsimp only
  split <;> exact ⟨rfl, rfl, rfl, rfl, rfl⟩

/-! ### The check of a record (R140, R343, R344) -/

theorem launchMaps_iff (s : State) (root va : Word) (need : Right) (user : Bool) : launchMaps s root va need user = true ↔
    isCanonical va = true ∧ ∃ l, translate s noBuffer root va need user = .ok l := by
  rw [launchMaps, Bool.and_eq_true]
  refine and_congr_right fun _ => ?_
  cases translate s noBuffer root va need user <;> simp

theorem launchCheck_aborted (s : State) (lrec : Word) (got : AMap Word)
    (h : (s.recordLocs lrec got).any s.hostAborts = true) : launchCheck s lrec got = some 1 := by
  simp only [launchCheck, h, Bool.or_true, if_true]

theorem ite_some_eq_none_iff {α : Type} {c : Prop} [Decidable c] {a : α} {o : Option α} :
    (if c then some a else o) = none ↔ ¬ c ∧ o = none := by
  by_cases h : c <;> simp [h]

/-- A record that passes the check: its RCB, its descriptors and its threads' entries translate. -/
theorem launchCheck_passes {s : State} {lrec : Word} {got : AMap Word} (h : launchCheck s lrec got = none) :
    let r := LRecord.ofWords got
    rcbMaps s r.root r.rcb = true ∧ (∀ x ∈ r.tasks, launchMaps s r.root x.1 .r false = true) ∧
    ∀ ws ∈ r.threads, launchMaps s r.root (LThread.ofWords ws).entry .x (!regionMode s r.root r.rcb) = true := by
  unfold launchCheck at h
  dsimp only at h ⊢
  simp only [ite_some_eq_none_iff] at h
  obtain ⟨-, -, mapped, h⟩ := h
  split at h
  · simp only [ite_some_eq_none_iff] at h
    obtain ⟨-, -, h⟩ := h
    split at h
    · exact nomatch h
    · simp only [ite_some_eq_none_iff] at h
      obtain ⟨-, reached, -⟩ := h
      simpa [not_or] using And.intro mapped reached
  · exact nomatch h

/-- A record that R343 allows, with no threads and no tasks: its offset, its die, its zeros, and no abort of the host. -/
structure PlainRecord (s : State) (lrec : Word) (got : AMap Word) : Prop where
  offset : lrec.toNat / 2 ^ 48 % 2 ^ 12 = 0
  aligned : lrec.toNat % 64 = 0
  die : lrec.toNat / 2 ^ 60 < 12 ∨ lrec.toNat / 2 ^ 60 = 15
  answered : (s.recordLocs lrec got).any s.hostAborts = false
  zeros : (LRecord.ofWords got).zeros = true
  threads : (LRecord.ofWords got).threads = []
  tasks : (LRecord.ofWords got).tasks = []

/-- What the check of a record says when only its RCB is left to look at. -/
def rcbVerdict (s : State) (root rcb : Word) : Option Nat :=
  if rcbMaps s root rcb = false then some 2
  else match rcbOwn s root rcb 0, rcbOwn s root rcb 8 with
    | some parent, some rp =>
      if parent ≠ 0 ∨ rp ≠ root then some 1
      else if rcbOk s root rcb = true ∧ (effBudget s root treeDepth rcb).isSome = true then none else some 3
    | _, _ => some 3

theorem PlainRecord.place_ok {s : State} {lrec : Word} {got : AMap Word} (plain : PlainRecord s lrec got) :
    (bits lrec 59 48 ≠ 0 || bits lrec 5 0 ≠ 0 || (12 ≤ bits lrec 63 60 && bits lrec 63 60 ≠ 15) ||
      (s.recordLocs lrec got).any s.hostAborts) = false := by
  obtain ⟨ho, ha, hd, hh, -⟩ := plain
  have lt := lrec.isLt
  have die : bits lrec 63 60 = lrec.toNat / 2 ^ 60 := by
    rw [bits, BitVec.extractLsb'_toNat, Nat.shiftRight_eq_div_pow]
    omega
  have zero : bits lrec 59 48 = 0 := by rw [bits, BitVec.extractLsb'_toNat, Nat.shiftRight_eq_div_pow]; exact ho
  have low : bits lrec 5 0 = 0 := by rw [bits, BitVec.extractLsb'_toNat, Nat.shiftRight_zero]; exact ha
  simp only [die, zero, low, hh, ne_eq, not_true_eq_false, decide_false, Bool.false_or, Bool.or_false, Bool.and_eq_false_iff,
    decide_eq_false_iff_not]
  omega

theorem PlainRecord.fields_ok {s : State} {lrec : Word} {got : AMap Word} (plain : PlainRecord s lrec got) :
    let r := LRecord.ofWords got
    (!r.zeros || (r.threads.zip (r.threads.map LThread.ofWords)).any (fun (ws, x) => !LThread.ok ws x) ||
      r.tasks.any (fun x => bits x.1 5 0 ≠ 0)) = false := by
  simp [plain.zeros, plain.threads, plain.tasks]

theorem PlainRecord.launchCheck_eq {s : State} {lrec : Word} {got : AMap Word} (plain : PlainRecord s lrec got) :
    launchCheck s lrec got = rcbVerdict s (LRecord.ofWords got).root (LRecord.ofWords got).rcb := by
  unfold launchCheck rcbVerdict
  dsimp only
  rw [if_neg (Bool.eq_false_iff.1 plain.place_ok), if_neg (Bool.eq_false_iff.1 plain.fields_ok), plain.threads, plain.tasks]
  generalize (LRecord.ofWords got).root = root, (LRecord.ofWords got).rcb = rcb
  cases rcbMaps s root rcb with
  | false => rfl
  | true =>
    cases rcbOwn s root rcb 0 with
    | none => rfl
    | some parent =>
      cases rcbOwn s root rcb 8 with
      | none => rfl
      | some rp =>
        cases effBudget s root treeDepth rcb <;> cases rcbOk s root rcb <;> simp

/-- The verdict on an RCB that is mapped and whose first two fields are read. -/
theorem rcbVerdict_read {s : State} {root rcb parent rp : Word} (hm : rcbMaps s root rcb = true)
    (h0 : rcbOwn s root rcb 0 = some parent) (h8 : rcbOwn s root rcb 8 = some rp) :
    (parent ≠ 0 ∨ rp ≠ root → rcbVerdict s root rcb = some 1) ∧
    (parent = 0 → rp = root → rcbOk s root rcb = false → rcbVerdict s root rcb = some 3) ∧
    (parent = 0 → rp = root → rcbOk s root rcb = true → (effBudget s root treeDepth rcb).isSome = true →
      rcbVerdict s root rcb = none) := by
  simp only [rcbVerdict, hm, h0, h8, Bool.true_eq_false, if_false]
  refine ⟨fun h => if_pos h, ?_, ?_⟩
  · rintro rfl rfl hok
    simp [hok]
  · rintro rfl rfl hok hb
    simp [hok, hb]

theorem rcbVerdict_unread {s : State} {root rcb : Word} (hm : rcbMaps s root rcb = true)
    (h : rcbOwn s root rcb 0 = none ∨ rcbOwn s root rcb 8 = none) : rcbVerdict s root rcb = some 3 := by
  simp only [rcbVerdict, hm, Bool.true_eq_false, if_false]
  split
  · next h0 h8 => simp [h0, h8] at h
  · rfl

theorem rcbVerdict_unmapped {s : State} {root rcb : Word} (hm : rcbMaps s root rcb = false) :
    rcbVerdict s root rcb = some 2 := if_pos hm

/-! ### A launch's fills (R116, R344, R368) -/

/-- A register set leaves everything but the registers and their poison. -/
theorem setReg_frame (th : Thread) (n : Nat) (v : Word) :
    ∃ regs poisoned, th.setReg n v = { th with regs := regs, poisoned := poisoned } := by
  by_cases hn : n = 0
  · exact ⟨th.regs, th.poisoned, if_pos hn⟩
  · exact ⟨_, _, if_neg hn⟩

theorem setReg_reg_same (th : Thread) {n : Nat} (v : Word) (hn : n ≠ 0) : (th.setReg n v).reg n = v := by
  rw [Thread.setReg, if_neg hn, Thread.reg, if_neg hn]
  exact AMap.get_set_same _ _ _ _

theorem setReg_reg_ne (th : Thread) {n m : Nat} (v : Word) (h : m ≠ n) : (th.setReg n v).reg m = th.reg m := by
  by_cases hn : n = 0
  · rw [Thread.setReg, if_pos hn]
  · simp only [Thread.setReg, if_neg hn, Thread.reg, AMap.get_set_ne _ _ _ h]

theorem setReg_lim (th : Thread) (n : Nat) (v : Word) : (th.setReg n v).lim = th.lim := by
  obtain ⟨_, _, h⟩ := setReg_frame th n v
  rw [h]

theorem setRegs_below (th : Thread) {n : Nat} (v : Word) (ps : List (Nat × Word)) (h : n < th.lim) :
    th.setRegs ((n, v) :: ps) = (th.setReg n v).setRegs ps := by
  rw [Thread.setRegs, if_pos h]

theorem setRegs_above (th : Thread) {n : Nat} (v : Word) (ps : List (Nat × Word)) (h : ¬ n < th.lim) :
    th.setRegs ((n, v) :: ps) = th.setRegs ps := by
  rw [Thread.setRegs, if_neg h]

/-- Registers set from a list leave everything but the registers and their poison. -/
theorem setRegs_frame (th : Thread) (ps : List (Nat × Word)) :
    ∃ regs poisoned, th.setRegs ps = { th with regs := regs, poisoned := poisoned } := by
  induction ps generalizing th with
  | nil => exact ⟨th.regs, th.poisoned, rfl⟩
  | cons p ps ih =>
    obtain ⟨n, v⟩ := p
    by_cases hl : n < th.lim
    · obtain ⟨_, _, h1⟩ := setReg_frame th n v
      obtain ⟨regs, poisoned, h⟩ := ih (th.setReg n v)
      refine ⟨regs, poisoned, ?_⟩
      rw [setRegs_below th v ps hl, h, h1]
    · rw [setRegs_above th v ps hl]
      exact ih th

theorem setRegs_reg_notMem (th : Thread) {ps : List (Nat × Word)} {n : Nat} (h : n ∉ ps.map (·.1)) :
    (th.setRegs ps).reg n = th.reg n := by
  induction ps generalizing th with
  | nil => rfl
  | cons p ps ih =>
    obtain ⟨m, v⟩ := p
    rw [List.map_cons, List.mem_cons, not_or] at h
    obtain ⟨hm, hps⟩ := h
    by_cases hl : m < th.lim
    · rw [setRegs_below th v ps hl, ih _ hps, setReg_reg_ne th v hm]
    · rw [setRegs_above th v ps hl, ih _ hps]

theorem setRegs_reg_mem (th : Thread) {ps : List (Nat × Word)} {n : Nat} {v : Word} (hd : (ps.map (·.1)).Nodup)
    (h : (n, v) ∈ ps) (hn : n ≠ 0) (hl : n < th.lim) : (th.setRegs ps).reg n = v := by
  induction ps generalizing th with
  | nil => exact nomatch h
  | cons p ps ih =>
    obtain ⟨m, w⟩ := p
    rw [List.map_cons, List.nodup_cons] at hd
    obtain ⟨hm, hps⟩ := hd
    rcases List.mem_cons.1 h with heq | h
    · cases heq
      rw [setRegs_below th v ps hl, setRegs_reg_notMem _ hm]
      exact setReg_reg_same th v hn
    · by_cases hlm : m < th.lim
      · rw [setRegs_below th w ps hlm]
        exact ih _ hps h ((setReg_lim th m w).symm ▸ hl)
      · rw [setRegs_above th w ps hlm]
        exact ih _ hps h hl

@[simp] theorem fill_th_same (s : State) (t : Nat) (th : Thread) : (s.fill t th).th t =
    { th with lastIssue := (s.th t).lastIssue, ahead := [], landed := none, stopped := none, freezing := false,
              entries := s.passed (unitOfThread t) } := State.setTh_th_same _ _ _

/-- The arguments of a launch thread, with the registers they go to. -/
def LThread.argRegs (x : LThread) : List (Nat × Word) := (upTo 4).map (fun k => (5 + k, x.args.getD k 0))

/-- The thread that a launch fills. -/
def launchThread (s : State) (root rcb : Word) (x : LThread) (b : Nat) : Thread :=
  (freshThread x.entry root rcb (regionMode s root rcb) b x.regs s.fresh).setRegs x.argRegs

theorem launchThread_reg (s : State) (root rcb : Word) (x : LThread) (b : Nat) {n : Nat} (hl : n < x.regs) :
    (launchThread s root rcb x b).reg n = if 5 ≤ n ∧ n ≤ 8 then x.args.getD (n - 5) 0 else 0 := by
  have keys : x.argRegs.map (·.1) = [5, 6, 7, 8] := rfl
  unfold launchThread
  by_cases h : 5 ≤ n ∧ n ≤ 8
  · rw [if_pos h]
    refine setRegs_reg_mem _ (by rw [keys]; decide) ?_ (by omega) hl
    exact List.mem_map.2 ⟨n - 5, List.mem_range.2 (by omega), by rw [show 5 + (n - 5) = n by omega]⟩
  · have away : n ∉ x.argRegs.map (·.1) := by
      rw [keys]
      simp only [List.mem_cons, List.not_mem_nil, or_false]
      omega
    rw [if_neg h, setRegs_reg_notMem _ away]
    exact ite_self 0

/-- A fill that finds one place and a region whose mode can be read. -/
theorem launchFill_placed {s : State} {root rcb : Word} {x : LThread} {t b : Nat}
    (hp : launchPlaces s root rcb x = [(t, b)]) (hm : (effSched s root rcb).isSome = true) :
    launchFill s root rcb x = some { s.fill t (launchThread s root rcb x b) with fresh := s.fresh + 1 } := by
  obtain ⟨w, hw⟩ := Option.isSome_iff_exists.1 hm
  simp only [launchFill, hp, hw]
  rfl

theorem launchFill_noPlace {s : State} {root rcb : Word} {x : LThread} (h : launchPlaces s root rcb x = []) :
    launchFill s root rcb x = none := by
  simp only [launchFill, h]

theorem launchFill_unreadable {s : State} {root rcb : Word} {x : LThread}
    (h : s.fillBudget root rcb = none ∨ effSched s root rcb = none) : launchFill s root rcb x = none := by
  rcases h with h | h
  · exact launchFill_noPlace (by simp only [launchPlaces, h])
  · unfold launchFill
    split
    · rfl
    · rfl
    · next hs => rw [h] at hs; exact nomatch hs

theorem launchFill_outsideBudget {s : State} {root rcb : Word} {x : LThread} {d c j : Nat} {bud : Budget}
    (hx : x.place = some (d, c, j)) (hb : s.fillBudget root rcb = some bud) (hc : bud.hasCluster d c = false) :
    launchFill s root rcb x = none :=
  launchFill_noPlace (by simp [launchPlaces, hb, hx, hc])

theorem launchFill_fills {s : State} {root rcb : Word} {x : LThread} {t b : Nat}
    (hp : launchPlaces s root rcb x = [(t, b)]) (hm : (effSched s root rcb).isSome = true) :
    ∃ s' : State, launchFill s root rcb x = some s' ∧ s'.mem = s.mem ∧
      let th := s'.th t
      th.status = .run ∧ th.pc = x.entry ∧ th.lim = x.regs ∧ th.base = b ∧ th.root = root ∧ th.rcb = rcb ∧ th.task = 0 ∧
      th.seq = 0 ∧ ∀ n, 0 < n → n < x.regs → th.reg n = (if 5 ≤ n ∧ n ≤ 8 then x.args.getD (n - 5) 0 else 0) := by
  refine ⟨_, launchFill_placed hp hm, rfl, ?_⟩
  have filled : ({ s.fill t (launchThread s root rcb x b) with fresh := s.fresh + 1 } : State).th t = _ :=
    fill_th_same s t (launchThread s root rcb x b)
  have regs (n : Nat) (_ : 0 < n) (hl : n < x.regs) := launchThread_reg s root rcb x b hl
  obtain ⟨r, p, h⟩ := setRegs_frame (freshThread x.entry root rcb (regionMode s root rcb) b x.regs s.fresh) x.argRegs
  dsimp only
  rw [filled, launchThread, h]
  rw [launchThread, h] at regs
  exact ⟨rfl, rfl, rfl, rfl, rfl, rfl, rfl, rfl, regs⟩

/-! ### The launch in process (R152, R228, R344) -/

theorem goOnLaunch_noThreads (s : State) (x : Launch) (h : x.threads = []) : s.goOnLaunch x = s.endLaunch none := by
  simp [State.goOnLaunch, fillThreads, h]

theorem goOnLaunch_shut (s : State) (x : Launch) {a : Await} (h : x.threads ≠ [])
    (ha : s.rcbShut x.root x.rcb (s.numberAt 0) = some a) : s.goOnLaunch x = (s.keepLaunch x).tryAgain .launch [] a := by
  simp [State.goOnLaunch, h, ha]

/-- A launch kept until room is found, for at most 1 ms. -/
def State.awaitRoom (s : State) (x : Launch) : State :=
  ((s.keepLaunch x).after 8000 .launch []).after 8000000 .launchFillTimeout []

theorem goOnLaunch_filled (s : State) (x : Launch) {ws : List Word} {s2 : State} (h : x.threads = [ws])
    (ha : s.rcbShut x.root x.rcb (s.numberAt 0) = none)
    (hf : launchFill s x.root x.rcb (LThread.ofWords ws) = some s2) : s.goOnLaunch x = s2.endLaunch none := by
  simp [State.goOnLaunch, fillThreads, h, ha, hf]

theorem goOnLaunch_noRoom (s : State) (x : Launch) {ws : List Word} (h : x.threads = [ws])
    (ha : s.rcbShut x.root x.rcb (s.numberAt 0) = none)
    (hf : launchFill s x.root x.rcb (LThread.ofWords ws) = none) : s.goOnLaunch x = s.awaitRoom x := by
  simp [State.goOnLaunch, fillThreads, State.awaitRoom, State.keepLaunch, h, ha, hf]

theorem mem_awaitRoom_timers (s : State) (x : Launch) : (Instr.launch, []) ∈ (s.awaitRoom x).timers.map (·.2) ∧
    (Instr.launchFillTimeout, []) ∈ (s.awaitRoom x).timers.map (·.2) :=
  ⟨List.mem_map.2 ⟨_, mem_insertTimed.2 (.inr (mem_insertTimed.2 (.inl rfl))), rfl⟩,
   List.mem_map.2 ⟨_, mem_insertTimed.2 (.inl rfl), rfl⟩⟩

section
variable {s : State} {x : Launch} (hl : s.pkg.launching = some x)
include hl

theorem launch_pushes (h : x.tasks ≠ []) : exec .launch s = .next (s.pushLaunch (x.tasks.length + 1) x) := by
  simp [exec_launch, execLaunch, hl, h]

theorem launch_fills (h : x.tasks = []) (ht : s.now < x.since + 8000000) : exec .launch s = .next (s.goOnLaunch x) := by
  simp [exec_launch, execLaunch, hl, h, Nat.not_le.2 ht]

theorem launch_fillTimeout (h : x.tasks = []) (ht : x.since + 8000000 ≤ s.now) :
    exec .launch s = .next (s.endLaunch (some 5)) ∧ exec .launchFillTimeout s = .next (s.endLaunch (some 5)) := by
  simp [exec_launch, execLaunch, exec_launchFillTimeout, execLaunchFillTimeout, hl, h, ht]

theorem launchFillTimeout_early (h : x.tasks ≠ [] ∨ s.now < x.since + 8000000) :
    exec .launchFillTimeout s = .next s := by
  have hc : ¬ (x.tasks.isEmpty && decide (x.since + 8000000 ≤ s.now)) = true := by
    rw [Bool.and_eq_true, List.isEmpty_iff, decide_eq_true_eq]
    rintro ⟨empty, due⟩
    exact h.elim (fun tasks => tasks empty) (fun early => Nat.not_le.2 early due)
  simp only [exec_launchFillTimeout, execLaunchFillTimeout, hl, if_neg hc]

end

/-! ### The push of a task (R152, R154) -/

theorem pushTask_number {s s' : State} {q n : Nat} {ws : List Word} (h : s.pushTask q ws = some (n, s')) :
    n = (s.queue q).next := by
  unfold State.pushTask at h
  dsimp only at h
  split at h
  · exact nomatch h
  · exact (Prod.mk.inj (Option.some.inj h)).1.symm

/-- A task that has been pushed: its descriptor can be read, it passes the checks of a push, and its queue took it. -/
theorem launchPush_pushes {s s1 : State} {root d h : Word} {ws : List Word} {leaf : Word} {l : Nat}
    (hd : descLoc s root d = some (leaf, l)) (hp : launchPush s root d h ws = some s1) :
    leaf.getLsbD 3 = true ∧ pushCheckAt s noBuffer root h (TaskRec.ofWords 0 0 ws) = none ∧
    s.pushTask (queueOfHandle h) ws = some ((s.queue (queueOfHandle h)).next, s1) := by
  simp only [launchPush, hd] at hp
  split at hp
  · exact nomatch hp
  · next hr =>
    split at hp
    · exact nomatch hp
    · next hc =>
      obtain ⟨⟨n, s2⟩, ht, rfl⟩ := Option.map_eq_some_iff.1 hp
      exact ⟨by simpa using hr, hc, pushTask_number ht ▸ ht⟩

section
variable {s : State} {x : Launch} {d h : Word} {rest : List (Word × Word)} (n : Nat) (hx : x.tasks = (d, h) :: rest)
include hx

theorem pushLaunch_noDescriptor (hd : descLoc s x.root d = none) : s.pushLaunch (n + 1) x = s.endLaunch (some 4) := by
  simp only [State.pushLaunch, hx, hd]

variable {leaf : Word} {l : Nat} (hd : descLoc s x.root d = some (leaf, l))
include hd

theorem pushLaunch_held {a : Await} (hr : s.readSome x.words descOffs (l + ·) (s.numberAt 0) = .error a) :
    s.pushLaunch (n + 1) x = (s.keepLaunch x).tryAgain .launch [] a := by
  simp only [State.pushLaunch, hx, hd, hr]

variable {s0 : State} {got : AMap Word} (hr : s.readSome x.words descOffs (l + ·) (s.numberAt 0) = .ok (s0, got))
include hr

theorem pushLaunch_partly (hg : got.length < 8) :
    s.pushLaunch (n + 1) x = (s0.keepLaunch { x with words := got }).push .launch [] := by
  simp only [State.pushLaunch, hx, hd, hr, hg, if_true]

variable (hg : 8 ≤ got.length)
include hg

theorem pushLaunch_shut {a : Await}
    (ha : s0.launchShut (s0.numberAt 0) x.root h (descOffs.map (AMap.get 0 got)) = some a) :
    s.pushLaunch (n + 1) x = (s0.keepLaunch { x with words := got }).tryAgain .launch [] a := by
  simp only [State.pushLaunch, hx, hd, hr, Nat.not_lt.2 hg, if_false, ha]

variable (ha : s0.launchShut (s0.numberAt 0) x.root h (descOffs.map (AMap.get 0 got)) = none)
include ha

theorem pushLaunch_refused (hp : launchPush s0 x.root d h (descOffs.map (AMap.get 0 got)) = none) :
    s.pushLaunch (n + 1) x = s0.endLaunch (some 4) := by
  simp only [State.pushLaunch, hx, hd, hr, Nat.not_lt.2 hg, if_false, ha, hp]

theorem pushLaunch_pushed {s1 : State} (hp : launchPush s0 x.root d h (descOffs.map (AMap.get 0 got)) = some s1) :
    s.pushLaunch (n + 1) x = if s0.split then (s1.keepLaunch { x with tasks := rest, words := [] }).push .launch []
      else s1.pushLaunch n { x with tasks := rest, words := [] } := by
  simp only [State.pushLaunch, hx, hd, hr, Nat.not_lt.2 hg, if_false, ha, hp]

end

/-! ### The next record (R343, R344) -/

/-- The state that goes on with a record's words. -/
def State.gotRecord (s : State) (got : AMap Word) : State := s.setPkg { s.pkg with launchGot := got }

/-- The state in which a record has left the queue, its words no longer kept. -/
def State.recordTaken (s : State) (rest : List Word) : State :=
  s.setPkg { s.pkg with launchQ := rest, launchGot := [] }

/-- A region's key is read from its RCBs: the launch queue has no part in it, nor has the list of the roots held. -/
theorem rootKey_recordTaken (s : State) (rest : List Word) (root rcb : Word) :
    (s.recordTaken rest).rootKey root rcb = s.rootKey root rcb := rfl

theorem rootKey_setRoots (s : State) (roots : List Word) (root rcb : Word) :
    (s.setPkg { s.pkg with roots := roots }).rootKey root rcb = s.rootKey root rcb := rfl

/-- The state in which a root region has started: its root is held, and its energy counted. -/
def State.startRegion (s : State) (root rcb : Word) : State :=
  (s.setPkg { s.pkg with roots := if s.pkg.roots.contains root then s.pkg.roots else s.pkg.roots ++ [root] }).startEnergy
    root rcb

theorem startRegion_frame (s : State) (root rcb : Word) : ∃ r e w, root ∈ r ∧
    s.startRegion root rcb = s.setPkg { s.pkg with roots := r, energy := e, work := w } := by
  obtain ⟨e, w, h⟩ := startEnergy_frame (s.setPkg { s.pkg with
    roots := if s.pkg.roots.contains root then s.pkg.roots else s.pkg.roots ++ [root] }) root rcb
  refine ⟨_, e, w, ?_, h⟩
  by_cases hc : s.pkg.roots.contains root = true
  · rw [if_pos hc]
    exact List.contains_iff_mem.1 hc
  · rw [if_neg hc]
    exact List.mem_append_right _ (List.mem_singleton_self root)

theorem startRegion_energy_same (s : State) (root rcb : Word)
    (h : ∀ x ∈ s.threads, x.2.status ≠ .free → s.rootKey x.2.root x.2.rcb ≠ s.rootKey root rcb) :
    AMap.get 0 (s.startRegion root rcb).pkg.energy (s.rootKey root rcb) = 0 := by
  rw [← rootKey_setRoots s (if s.pkg.roots.contains root then s.pkg.roots else s.pkg.roots ++ [root]) root rcb]
  exact startEnergy_same _ root rcb fun x hx => by simpa only [rootKey_setRoots] using h x hx

theorem startRegion_energy_other (s : State) (root rcb : Word) {k : Nat} (h : k ≠ s.rootKey root rcb) :
    AMap.get 0 (s.startRegion root rcb).pkg.energy k = AMap.get 0 s.pkg.energy k :=
  startEnergy_other _ root rcb (by simpa only [rootKey_setRoots] using h)

section
variable {s s0 : State} {lrec : Word} {rest : List Word} {got : AMap Word}
  (hl : s.pkg.launching = none) (hq : s.pkg.launchQ = lrec :: rest)
include hl hq

theorem launch_held {a : Await} (ht : s.takeRecord lrec = .error a) : exec .launch s = .next (s.tryAgain .launch [] a) := by
  simp only [exec_launch, execLaunch, hl, hq, ht]

variable (ht : s.takeRecord lrec = .ok (s0, got))
include ht

theorem launch_partly (hw : recordWhole got = false) : exec .launch s = .next ((s0.gotRecord got).push .launch []) := by
  simp only [exec_launch, execLaunch, hl, hq, ht, hw, Bool.not_false, if_true, State.gotRecord]

variable (hw : recordWhole got = true)
include hw

theorem launch_shut {a : Await} (ha : (s0.gotRecord got).rcbShut (LRecord.ofWords got).root (LRecord.ofWords got).rcb
    ((s0.gotRecord got).numberAt 0) = some a) : exec .launch s = .next ((s0.gotRecord got).tryAgain .launch [] a) := by
  simp only [State.gotRecord] at ha ⊢
  simp only [exec_launch, execLaunch, hl, hq, ht, hw, Bool.not_true, Bool.false_eq_true, if_false, ha]

variable (ha : (s0.gotRecord got).rcbShut (LRecord.ofWords got).root (LRecord.ofWords got).rcb
  ((s0.gotRecord got).numberAt 0) = none)
include ha

theorem launch_fails {e : Nat} (hc : launchCheck (s0.gotRecord got) lrec got = some e) :
    exec .launch s = .next (((s0.gotRecord got).recordTaken rest).endLaunch (some e)) := by
  simp only [State.gotRecord, State.recordTaken] at ha hc ⊢
  simp only [exec_launch, execLaunch, hl, hq, ht, hw, Bool.not_true, Bool.false_eq_true, if_false, ha, hc]

theorem launch_starts (hc : launchCheck (s0.gotRecord got) lrec got = none) :
    let r := LRecord.ofWords got
    exec .launch s = .next ((((s0.gotRecord got).recordTaken rest).startRegion r.root r.rcb).pushLaunch
      (r.tasks.length + 1) { root := r.root, rcb := r.rcb, tasks := r.tasks, threads := r.threads, since := s0.now }) := by
  simp only [State.gotRecord, State.recordTaken, State.startRegion] at ha hc ⊢
  simp only [exec_launch, execLaunch, hl, hq, ht, hw, Bool.not_true, Bool.false_eq_true, if_false, ha, hc]
  rfl

end

/-- What a launch whose record passes leaves before its pushes. -/
theorem startRegion_recordTaken (s : State) (rest : List Word) (root rcb : Word) :
    let key := s.rootKey root rcb
    let s1 := (s.recordTaken rest).startRegion root rcb
    s1.mem = s.mem ∧ s1.threads = s.threads ∧ s1.queues = s.queues ∧ root ∈ s1.pkg.roots ∧ s1.pkg.launchQ = rest ∧
    ((∀ x ∈ s.threads, x.2.status ≠ .free → s.rootKey x.2.root x.2.rcb ≠ key) → AMap.get 0 s1.pkg.energy key = 0) ∧
    (∀ k, k ≠ key → AMap.get 0 s1.pkg.energy k = AMap.get 0 s.pkg.energy k) := by
  have same := startRegion_energy_same (s.recordTaken rest) root rcb
  have other (k : Nat) := startRegion_energy_other (k := k) (s.recordTaken rest) root rcb
  simp only [rootKey_recordTaken] at same other
  obtain ⟨r, e, w, hr, h⟩ := startRegion_frame (s.recordTaken rest) root rcb
  dsimp only
  rw [h] at same other ⊢
  exact ⟨rfl, rfl, rfl, hr, rfl, same, other⟩

/-- Settles O44: submission, the next record, the launch in process, the push of a task, the fills and the end of a
launch, each by the lemmas about its own operation. -/
theorem launchesPushAndFill : Obligations.LaunchesPushAndFill := by
  unfold Obligations.LaunchesPushAndFill
  refine ⟨fun s hb => ⟨ldoorWrite_dropped s hb, ldoorWrite_submits s hb⟩, fun s lrec rest hl hq => ?_,
    fun s x hl => ⟨launch_pushes hl, launch_fills hl, launch_fillTimeout hl, launchFillTimeout_early hl⟩,
    fun s n x d h rest hx => ⟨pushLaunch_noDescriptor n hx, fun leaf l hd => ?_⟩, fun s n x hx => ?_, fun s x => ?_,
    endLaunch_ends, fun _ _ _ _ => launchFill_unreadable, fun _ _ _ _ _ _ _ _ => launchFill_outsideBudget,
    launchCheck_aborted, fun _ _ _ => launchCheck_passes, launchMaps_iff, ?_, fun _ _ _ _ _ _ => launchFill_fills⟩
  · refine ⟨fun a => launch_held hl hq, fun hs hg s0 got => takeRecord_reads hs hg, fun s0 got ht => ?_⟩
    obtain ⟨n, rfl⟩ := takeRecord_state ht
    refine ⟨launch_partly hl hq ht, fun a hw => launch_shut hl hq ht hw, fun e hw ha => launch_fails hl hq ht hw ha,
      fun hw ha hc => ?_⟩
    have started := launch_starts hl hq ht hw ha hc
    exact ⟨_, started, startRegion_recordTaken (State.gotRecord { s with free := n } got) rest _ _⟩
  · refine ⟨fun a => pushLaunch_held n hx hd, fun hs hw s0 got hr => ?_, fun s0 got hr => ?_⟩
    · rw [hw] at hr
      exact readDescriptor_reads hs hr
    · rw [descriptorWords_eq]
      refine ⟨pushLaunch_partly n hx hd hr, fun a hg => pushLaunch_shut n hx hd hr hg,
        fun hg => pushLaunch_refused n hx hd hr hg, fun s1 hg ha hp => ?_⟩
      have pushed := pushLaunch_pushed n hx hd hr hg ha hp
      obtain ⟨m, rfl⟩ := readSome_state hr
      exact ⟨fun hs => pushed.trans (if_neg (Bool.eq_false_iff.1 hs)), fun hs => pushed.trans (if_pos hs),
        launchPush_pushes hd hp⟩
  · simp only [State.pushLaunch, hx]
  · exact ⟨goOnLaunch_noThreads s x, fun a => goOnLaunch_shut s x, fun ws h ha => ⟨fun s2 => goOnLaunch_filled s x h ha,
      fun hf => ⟨_, goOnLaunch_noRoom s x h ha hf, rfl, rfl, rfl, rfl, mem_awaitRoom_timers s x⟩⟩⟩
  · intro s lrec got r ho ha hd hh hz hthreads htasks
    rw [PlainRecord.launchCheck_eq ⟨ho, ha, hd, hh, hz, hthreads, htasks⟩]
    exact ⟨rcbVerdict_unmapped, rcbVerdict_unread, fun parent rp => rcbVerdict_read⟩

end Sys2Proof.Machine
end

section
/-!
PROOF. The `thr` functions (R132 to R136), each by the rules that say what a word that reaches its own effect comes to.
-/

namespace Sys2Proof.Machine

/-! ### What the own effect of a word comes to -/

section
variable {i : Instr} {s : State} {body : State → Nat → Res} (h : Ready i s)
include h

theorem runWord_done {s' : State} (hb : body s s.focus = .done s') :
    runWord i s body = .next (s'.finish s.focus i) := by
  rw [runWord_ready body h, hb]; rfl

theorem runWord_trap {c info : Nat} {addr data : Word} (hb : body s s.focus = .trap c info addr data) :
    runWord i s body = .next (s.takeTrap s.focus c info addr data (encode i)) := by
  rw [runWord_ready body h, hb]; rfl

theorem runWord_park {w : Await} (hb : body s s.focus = .park w) :
    runWord i s body = .next (s.parkOn s.focus i w (ownTimeout i)) := by
  rw [runWord_ready body h, hb]; rfl

theorem runWord_sent {s' : State} (hb : body s s.focus = .sent s') : runWord i s body = .next s' := by
  rw [runWord_ready body h, hb]; rfl

end

/-- The lowest bits of a word are its remainder. -/
theorem bits_low (w : Word) (h : Nat) : bits w h 0 = w.toNat % 2 ^ (h + 1) := by
  simp only [bits, BitVec.extractLsb'_toNat, Nat.shiftRight_zero, Nat.sub_zero]

/-! ### Registers that an instruction asks for (R178, R181) -/

/-- The pending registers among those that an instruction touches. -/
def Thread.pendingAmong (th : Thread) (touched : List Nat) : List Nat :=
  (th.pending.map (·.1)).filter (fun r => r ≠ 0 && touched.contains r)

section
variable {th : Thread} {read touched : List Nat}

theorem regsState_pending (h : th.pendingAmong touched ≠ []) :
    regsState th read touched = some (.park (.regs (th.pendingAmong touched))) :=
  if_pos (by rw [← Thread.pendingAmong, List.isEmpty_eq_false_iff.2 h]; rfl)

theorem regsState_noPending (h : th.pendingAmong touched = []) : regsState th read touched =
    (th.poisoned.find? (fun x => read.contains x.1)).map (fun x => .trap cPOISON 1 x.2 0) := by
  rw [Thread.pendingAmong] at h
  simp only [regsState, h, List.isEmpty_nil, Bool.not_true, Bool.false_eq_true, if_false]
  cases th.poisoned.find? (fun x => read.contains x.1) <;> rfl

theorem regsState_poisoned {r : Nat} {a : Word} (h : th.pendingAmong touched = [])
    (hp : th.poisoned.find? (fun x => read.contains x.1) = some (r, a)) :
    regsState th read touched = some (.trap cPOISON 1 a 0) := by
  rw [regsState_noPending h, hp]; rfl

theorem regsState_clear (h : th.pendingAmong touched = []) (hp : ∀ x ∈ th.poisoned, read.contains x.1 = false) :
    regsState th read touched = none := by
  rw [regsState_noPending h, List.find?_eq_none.2 fun x hx => Bool.eq_false_iff.1 (hp x hx)]; rfl

end

/-! ### `thr.spawn` (R132) -/

section
variable {s : State} {d a b : BitVec 7}

/-- A spawn that finds no valid partition, or no place for it, is refused. -/
theorem thrSpawn_refused (h : Ready (.thrSpawn d a b) s) (hs : inServer s.focus = false)
    (hr : let n := (src (.thrSpawn d a b) s 1).toNat % 128
      n % 8 ≠ 0 ∨ n < 8 ∨ 112 < n ∨ (me s).twin.isSome = true ∨
        s.fillPlace (here s) n (me s).root (me s).rcb false = none) :
    Completes (.thrSpawn d a b) s (s.give d 0 wstREFUSED) := by
  rw [Completes, exec_thrSpawn, execThrSpawn]
  refine runWord_done h ?_
  simp only [src, me, here] at hr
  simp only [hs, Bool.false_eq_true, if_false, bits_low, Nat.reduceAdd, Nat.reducePow]
  split
  · rfl
  · next ok =>
    simp only [Bool.or_eq_true, decide_eq_true_eq, not_or] at ok
    obtain ⟨⟨⟨h8, hlo⟩, hhi⟩, ht⟩ := ok
    have noPlace := (((hr.resolve_left h8).resolve_left hlo).resolve_left hhi).resolve_left ht
    simp only [noPlace]; rfl

/-- A spawn that finds its place looks at the registers that the child takes over, and fills the slot (log 49). -/
theorem thrSpawn_placed {k base : Nat} (h : Ready (.thrSpawn d a b) s) (hs : inServer s.focus = false)
    (ht : (me s).twin = none) :
    let i := Instr.thrSpawn d a b
    let n := (src i s 1).toNat % 128
    let rs := spawnRegs (me s) n
    n % 8 = 0 → 8 ≤ n → n ≤ 112 → s.fillPlace (here s) n (me s).root (me s).rcb false = some (k, base) →
    (∀ r, regsState (me s) rs rs = some r → exec i s = .next (applyRes s s.focus i r)) ∧
    (regsState (me s) rs rs = none →
      Completes i s (({ s.fill (here s * 64 + k) ((freshThread (src i s 0) (me s).root (me s).rcb (me s).st.mode base n
        s.fresh).setRegs (rs.map (fun j => (j, (me s).reg j)))) with fresh := s.fresh + 1 }).give d
        (tidOfPlace s.pkg.device (here s * 64 + k)) wstOK)) := by
  intro i n rs h8 hlo hhi hp
  have notLess := Nat.not_lt.2 hlo
  have notMore := Nat.not_lt.2 hhi
  simp only [n, rs, i, src, me, here] at h8 notLess notMore ht hp ⊢
  simp only [Completes, exec_thrSpawn, execThrSpawn, runWord_ready _ h, hs, bits_low, Nat.reduceAdd, Nat.reducePow, h8,
    notLess, notMore, ht, hp, ne_eq, not_true_eq_false, decide_false, Bool.or_false, Option.isSome_none,
    Bool.false_eq_true, if_false]
  exact ⟨fun r hr => by rw [hr], fun hr => by rw [hr]; rfl⟩

end

/-! ### `thr.exit` and `thr.yield` (R133, R134) -/

theorem thrExit_inTask {s : State} (h : Ready .thrExit s) (ht : (me s).task ≠ 0) :
    TrapsWith .thrExit s cQUEUE 0 0 0 := by
  rw [TrapsWith, exec_thrExit, execThrExit]
  refine runWord_trap h ?_
  rw [me] at ht
  simp only [ht, ne_eq, not_false_eq_true, if_true]

/-- An ordinary thread with nothing posted and no record to answer frees its slot. -/
theorem thrExit_frees {s : State} (h : Ready .thrExit s) (ht : (me s).task = 0) (hp : s.posted s.focus = [])
    (hs : inServer s.focus = false) (hh : (me s).handles = none) (hq : (me s).pageReq = none) :
    exec .thrExit s = .next (s.freeSlot s.focus) := by
  rw [exec_thrExit, execThrExit]
  refine runWord_sent h ?_
  rw [me] at ht hh hq
  simp only [ht, ne_eq, not_true_eq_false, if_false, drainThen, State.drained, hp, List.isEmpty_nil, if_true, hs,
    Bool.false_eq_true, hh, hq, Option.isSome_none]

theorem thrYield_marks {s : State} (h : Ready .thrYield s) :
    Completes .thrYield s (s.updTh s.focus (fun th => { th with yielding := true })) := by
  rw [Completes, exec_thrYield, execThrYield]
  exact runWord_done h rfl

/-! ### `thr.nwr` (R135) -/

section
variable {s : State} {d a : BitVec 7} (h : Ready (.thrNwr d a) s)
include h

theorem thrNwr_noNeighbour (hn : isSkerry (here s) = true ∨ neighbour (here s) d.toNat = none) :
    Completes (.thrNwr d a) s (s.say wstREFUSED) := by
  rw [Completes, exec_thrNwr, execThrNwr]
  refine runWord_done h ?_
  rw [here] at hn
  dsimp only
  split
  · rfl
  · next hc => simp only [hn.resolve_left hc]; rfl

section
variable {v : Nat} {b : Budget} (hn : neighbour (here s) d.toNat = some v)
  (hb : effBudget s (me s).root treeDepth (me s).rcb = some b)
include hn hb

theorem thrNwr_outsideBudget (ho : b.hasCluster (dieOf v) (clusterOf v) = false) :
    Completes (.thrNwr d a) s (s.say wstREFUSED) := by
  rw [Completes, exec_thrNwr, execThrNwr]
  refine runWord_done h ?_
  rw [here] at hn
  rw [me] at hb
  simp only [hn, hb, ho, Bool.not_false, if_true]
  split <;> rfl

section
variable (hc : isSkerry (here s) = false) (ho : b.hasCluster (dieOf v) (clusterOf v) = true)
include hc ho

/-- A write to an empty mailbox that no earlier write of the unit is to fill. -/
theorem thrNwr_delivers (hm : AMap.get none (s.core v).mbox ((d.toNat + 2) % 4) = none)
    (hw : s.writesBefore s.focus (.thrNwr d a) = false) :
    Completes (.thrNwr d a) s ((s.updCore v (fun c => { c with
      mbox := AMap.set c.mbox ((d.toNat + 2) % 4) (some (src (.thrNwr d a) s 0)) })).say wstOK) := by
  rw [Completes, exec_thrNwr, execThrNwr]
  refine runWord_done h ?_
  rw [here] at hn hc
  rw [me] at hb
  simp only [hc, hn, hb, ho, hm, hw, Bool.not_true, Bool.false_eq_true, if_false, Option.isSome_none, Bool.or_false]
  rfl

/-- A write to a mailbox that is full, or that an earlier write of the unit is to fill (R129). -/
theorem thrNwr_waits (hm : (AMap.get none (s.core v).mbox ((d.toNat + 2) % 4)).isSome = true ∨
    s.writesBefore s.focus (.thrNwr d a) = true) :
    ParksOn (.thrNwr d a) s (.mboxRoom v ((d.toNat + 2) % 4)) none := by
  rw [ParksOn, exec_thrNwr, execThrNwr]
  refine runWord_park h ?_
  rw [here] at hn hc
  rw [me] at hb
  simp only [hc, hn, hb, ho, Bool.or_eq_true_iff.2 hm, Bool.not_true, Bool.false_eq_true, if_false, if_true]

end
end
end

/-! ### `thr.stw` (R136) -/

/-- Whether place `f` holds another pinned entry that names the slot, too near to place `e` of a unit (R136). -/
def pinClash (u e slot f : Nat) (x : SlotEntry) : Bool :=
  f ≠ e && x.pin && x.valid && x.slot = slot && cyclicDist (slotsOf u) e f < spacingOf u

theorem pinClash_iff {u e slot f : Nat} {x : SlotEntry} : pinClash u e slot f x = true ↔
    f ≠ e ∧ x.pin = true ∧ x.valid = true ∧ x.slot = slot ∧ cyclicDist (slotsOf u) e f < spacingOf u := by
  simp only [pinClash, Bool.and_eq_true, decide_eq_true_eq, and_assoc]

/-- The unit of the focus thread with a table write queued behind those of earlier instructions (R34, R136). -/
def State.queueStw (s : State) (i : Instr) (e : Nat) (x : SlotEntry) : State :=
  s.updCore (here s) (fun c => { c with stw := insertTimed c.stw (s.claimOf s.focus i) (e, x) })

section
variable {s : State} {a b : BitVec 7} (h : Ready (.thrStw a b) s)
include h

theorem thrStw_noEntry (he : slotsOf (here s) ≤ (src (.thrStw a b) s 0).toNat % 64) :
    Completes (.thrStw a b) s (s.say wstREFUSED) := by
  rw [Completes, exec_thrStw, execThrStw]
  refine runWord_done h ?_
  rw [src, here] at he
  simp only [bits_low, Nat.reduceAdd, Nat.reducePow, he, if_true]
  rfl

section
variable (he : (src (.thrStw a b) s 0).toNat % 64 < slotsOf (here s))
include he

theorem thrStw_releases (hp : (src (.thrStw a b) s 1).getLsbD 15 = false) :
    Completes (.thrStw a b) s ((s.queueStw (.thrStw a b) ((src (.thrStw a b) s 0).toNat % 64) {}).say wstOK) := by
  rw [Completes, exec_thrStw, execThrStw]
  refine runWord_done h ?_
  rw [src, here] at he
  rw [src] at hp
  simp only [bits_low, Nat.reduceAdd, Nat.reducePow, Nat.not_le.2 he, if_false, hp, Bool.not_false, if_true]
  rfl

section
variable (hp : (src (.thrStw a b) s 1).getLsbD 15 = true)
include hp

/-- A pin is queued unless it is a valid one and lies too near to one that stands. -/
theorem thrStw_pins {valid : Bool} (hv : (src (.thrStw a b) s 1).getLsbD 14 = valid)
    (hq : valid = true → (s.core (here s)).stw = [] ∧ ∀ f, f < slotsOf (here s) →
      pinClash (here s) ((src (.thrStw a b) s 0).toNat % 64) ((src (.thrStw a b) s 1).toNat % 64) f
        ((s.core (here s)).entry f) = false) :
    Completes (.thrStw a b) s ((s.queueStw (.thrStw a b) ((src (.thrStw a b) s 0).toNat % 64)
      { pin := true, valid := valid, slot := (src (.thrStw a b) s 1).toNat % 64 }).say wstOK) := by
  rw [Completes, exec_thrStw, execThrStw]
  refine runWord_done h ?_
  simp only [src, here] at he hp hv hq
  simp only [bits_low, Nat.reduceAdd, Nat.reducePow, Nat.not_le.2 he, if_false, hp, hv, Bool.not_true,
    Bool.false_eq_true]
  refine if_neg fun hc => ?_
  obtain ⟨pinned, clash⟩ := Bool.and_eq_true_iff.1 hc
  obtain ⟨empty, apart⟩ := hq pinned
  rcases Bool.or_eq_true_iff.1 clash with table | queue
  · obtain ⟨f, hf, near⟩ := List.any_eq_true.1 table
    exact Bool.eq_false_iff.1 (apart f (List.mem_range.1 hf)) near
  · rw [empty] at queue
    exact Bool.false_ne_true queue

/-- A valid pin too near to one that stands is refused. -/
theorem thrStw_tooNear (hv : (src (.thrStw a b) s 1).getLsbD 14 = true) {f : Nat} (hf : f < slotsOf (here s))
    (near : pinClash (here s) ((src (.thrStw a b) s 0).toNat % 64) ((src (.thrStw a b) s 1).toNat % 64) f
      ((s.core (here s)).entry f) = true) : Completes (.thrStw a b) s (s.say wstREFUSED) := by
  rw [Completes, exec_thrStw, execThrStw]
  refine runWord_done h ?_
  simp only [src, here] at he hp hv hf near
  simp only [bits_low, Nat.reduceAdd, Nat.reducePow, Nat.not_le.2 he, if_false, hp, hv, Bool.not_true,
    Bool.false_eq_true, Bool.true_and]
  exact if_pos (Bool.or_eq_true_iff.2 (.inl (List.any_eq_true.2 ⟨f, List.mem_range.2 hf, near⟩)))

end
end
end

/-- Settles O20, by the lemmas about each `thr` function; a spawn that finds its place turns on what the registers that
the child takes over come to. -/
theorem threadFunctionsAct : Obligations.ThreadFunctionsAct := by
  unfold Obligations.ThreadFunctionsAct
  refine ⟨fun s d a b k base h hs ht h8 hlo hhi hp => ?_, fun s d a b => thrSpawn_refused,
    fun s => thrExit_inTask, fun s => thrExit_frees, fun s => thrYield_marks,
    fun s d a v b h hc hn hb ho => ⟨thrNwr_delivers h hn hb hc ho, thrNwr_waits h hn hb hc ho⟩,
    fun s d a v b h hn hb => thrNwr_outsideBudget h hn hb, fun s d a => thrNwr_noNeighbour, fun s a b h => ?_⟩
  · obtain ⟨decided, filled⟩ := thrSpawn_placed h hs ht h8 hlo hhi hp
    exact ⟨fun hq hx => filled (regsState_clear hq hx), fun hq => decided _ (regsState_pending hq),
      fun r x hq hx => decided _ (regsState_poisoned hq hx)⟩
  · refine ⟨thrStw_noEntry h, thrStw_releases h, fun he hp hv => ?_, fun he hp hv empty apart => ?_,
      fun f he hp hv hf hne pin valid slot near =>
        thrStw_tooNear h he hp hv hf (pinClash_iff.2 ⟨hne, pin, valid, slot, near⟩)⟩
    · exact thrStw_pins h he hp hv fun valid => absurd valid Bool.false_ne_true
    · refine thrStw_pins h he hp hv fun _ => ⟨empty, fun f hf => Bool.eq_false_iff.2 fun clash => ?_⟩
      obtain ⟨hne, pin, valid, slot, near⟩ := pinClash_iff.1 clash
      exact Nat.not_le.2 near (apart f hf hne pin valid slot)

end Sys2Proof.Machine
end
